-- ==== Sys2Proof/Word.lean ====
section
/-! DEFINITION. The widths and index types of the KZE-48: bytes and 32-bit counts, the numbers of ports,
channels and players, and the integers the manual calls samples, taps and levels. -/

namespace Sys2Proof

/-- One byte of a command link (R172). -/
abbrev Byte := BitVec 8

/-- A 32-bit count that wraps: the epoch counter (R36), the timebase count (R38), the park counter (R124);
also the mask of an EXPAND (R104). -/
abbrev Word32 := BitVec 32

/-- One 16-bit sample as it stands in a slot of a highway (R27). -/
abbrev Slot := BitVec 16

/-- A command link and its port, 0..3 (spec/00_scope.md). -/
abbrev Port := Fin 4

/-- A channel number, 0..47 (R1). -/
abbrev ChannelNo := Fin 48

/-- A probe player number, 0..3 (R91). -/
abbrev PlayerNo := Fin 4

/-- A linear sample, -32768..32767 (R27). -/
abbrev Sample := Int

/-- A coefficient in Q15 form, -32768..32767 (R42). -/
abbrev Tap := Int

end Sys2Proof
end

