-- ==== Sys2Proof/Syntax.lean ====
section
/-! DEFINITION. The commands of the part: one constructor per row of spec/opcode_table.json.

A command frame carries its tag and its parameter bytes as they came (R173); the bytes are read by R179 in
Machine/Operands.lean. -/

namespace Sys2Proof

inductive Instr where
  -- the 31 commands of Table 11-1 (R180): issuing port, tag of the frame, parameter bytes
  | join (port : Port) (tag : Byte) (params : List Byte)
  | keep (port : Port) (tag : Byte) (params : List Byte)
  | leave (port : Port) (tag : Byte) (params : List Byte)
  | attach (port : Port) (tag : Byte) (params : List Byte)
  | release (port : Port) (tag : Byte) (params : List Byte)
  | retrain (port : Port) (tag : Byte) (params : List Byte)
  | adopt (port : Port) (tag : Byte) (params : List Byte)
  | setPolicy (port : Port) (tag : Byte) (params : List Byte)
  | clearHolds (port : Port) (tag : Byte) (params : List Byte)
  | adapt (port : Port) (tag : Byte) (params : List Byte)
  | query (port : Port) (tag : Byte) (params : List Byte)
  | pauseProbe (port : Port) (tag : Byte) (params : List Byte)
  | resumeProbe (port : Port) (tag : Byte) (params : List Byte)
  | poolStatus (port : Port) (tag : Byte) (params : List Byte)
  | snapshot (port : Port) (tag : Byte) (params : List Byte)
  | restore (port : Port) (tag : Byte) (params : List Byte)
  | dropSnapshot (port : Port) (tag : Byte) (params : List Byte)
  | readTaps (port : Port) (tag : Byte) (params : List Byte)
  | move (port : Port) (tag : Byte) (params : List Byte)
  | cancelMove (port : Port) (tag : Byte) (params : List Byte)
  | moverStatus (port : Port) (tag : Byte) (params : List Byte)
  | cacheList (port : Port) (tag : Byte) (params : List Byte)
  | cachePurge (port : Port) (tag : Byte) (params : List Byte)
  | readNotices (port : Port) (tag : Byte) (params : List Byte)
  | maskNotices (port : Port) (tag : Byte) (params : List Byte)
  | discardNotices (port : Port) (tag : Byte) (params : List Byte)
  | claim (port : Port) (tag : Byte) (params : List Byte)
  | yieldClaim (port : Port) (tag : Byte) (params : List Byte)
  | setConfig (port : Port) (tag : Byte) (params : List Byte)
  | getConfig (port : Port) (tag : Byte) (params : List Byte)
  | resetPart (port : Port) (tag : Byte) (params : List Byte)
  -- the other transfers of a link
  /-- A good frame whose code is not in Table 11-1 (R177). -/
  | unknownCommand (port : Port) (code : Byte) (tag : Byte) (params : List Byte)
  /-- A command transfer that is no good frame (R174): the whole bytes clocked, and whether a part of a byte was
  clocked after the last of them. -/
  | badFrame (port : Port) (bytes : List Byte) (stray : Bool)
  /-- A read transfer (R176): how many whole bytes the master clocked. -/
  | readTransfer (port : Port) (clocked : Nat)
  -- pins, highways and timebase
  /-- The RESET pin is asserted and released (R154; log 9). -/
  | reset
  /-- One LOCKED frame with the samples of its 48 slots (R27, R28). -/
  | lockedFrame (lineIn pumpIn : Vector Slot 48)
  /-- The last code of a player's sequence has been played (R95). -/
  | endOfPlay (player : PlayerNo)
  /-- An expected frame boundary is reached (R32): whether a pulse came at it, and whether a pulse came at any other
  bit clock since the previous boundary. -/
  | frameBoundary (pulseAt pulseElsewhere : Bool)
  /-- A frame pulse (R34): the bit clocks since the last pulse, or none where no bit clock runs (R35). -/
  | huntPulse (spacing : Option Nat)
  /-- A whole millisecond of the timebase passed with no edge of the bit clock (R35). -/
  | noClock
  /-- The epoch of 80 LOCKED frames closes (R36). -/
  | epochEnd
  /-- The order in flight has reached its total (R116). -/
  | orderComplete
  /-- A channel's release drain timer expires (R18). -/
  | drainExpiry (chan : ChannelNo)
  /-- A port's lease timer expires (R139). -/
  | leaseExpiry (port : Port)
  /-- A channel's hold timer expires (R145). -/
  | holdExpiry (chan : ChannelNo)
  /-- A channel's strand timer expires (R146). -/
  | strandExpiry (chan : ChannelNo)
  /-- The lifetime judgment of the route cache at a tick (R129). -/
  | cacheAged
  /-- The millisecond tick (R38). -/
  | timebaseTick
deriving DecidableEq, Repr

end Sys2Proof
end

