-- ==== Sys2Proof/Decode.lean ====
section
/-! DEFINITION. How a transfer on a command link spells a command: the frame of R173, the checks of R174, the codes
of Table 11-1 (R180), and the bytes of a command's own frame. No row of spec/opcode_table.json gives bits, so
`decodeTableWord` answers none for every word. -/

namespace Sys2Proof

/-- The command a word spells by the bits of spec/opcode_table.json: no row gives any. -/
def decodeTableWord (_nbits _w : Nat) : Option Instr := none

/-- The sum of all bytes, modulo 256 (R173, R176). -/
def byteSum (bytes : List Byte) : Byte := bytes.foldr (· + ·) 0

/-- The check byte after `body`: it makes the sum of all bytes 0 modulo 256 (R173, R176). -/
def checkByte (body : List Byte) : Byte := 0 - byteSum body

/-- First byte, tag, length, content and check: the shape of command frames and response frames (R173, R176). -/
def layFrame (first tag : Byte) (content : List Byte) : List Byte :=
  let body := first :: tag :: BitVec.ofNat 8 content.length :: content
  body ++ [checkByte body]

/-- A command transfer is bad in any of the five cases of R174. -/
def frameIsBad (bytes : List Byte) (stray : Bool) : Bool :=
  let length := (bytes.getD 2 0).toNat
  decide (bytes.length < 4) || stray || decide (60 < length) || decide (bytes.length ≠ 4 + length)
    || decide (byteSum bytes ≠ 0)

/-- A command transfer that is bad: it has a whole byte, the first is not 0x00 (R172), and its frame is bad (R174). -/
def isBadTransfer (bytes : List Byte) (stray : Bool) : Bool :=
  decide (bytes ≠ []) && decide (bytes.head? ≠ some 0) && frameIsBad bytes stray

/-- The command of Table 11-1 with a code (R180). -/
def tableCommand (port : Port) (code tag : Byte) (params : List Byte) : Option Instr :=
  match code.toNat with
  | 0x10 => some (.join port tag params)
  | 0x11 => some (.keep port tag params)
  | 0x12 => some (.leave port tag params)
  | 0x20 => some (.attach port tag params)
  | 0x21 => some (.release port tag params)
  | 0x22 => some (.retrain port tag params)
  | 0x23 => some (.adopt port tag params)
  | 0x24 => some (.setPolicy port tag params)
  | 0x25 => some (.clearHolds port tag params)
  | 0x26 => some (.adapt port tag params)
  | 0x27 => some (.query port tag params)
  | 0x30 => some (.pauseProbe port tag params)
  | 0x31 => some (.resumeProbe port tag params)
  | 0x40 => some (.poolStatus port tag params)
  | 0x41 => some (.snapshot port tag params)
  | 0x42 => some (.restore port tag params)
  | 0x43 => some (.dropSnapshot port tag params)
  | 0x44 => some (.readTaps port tag params)
  | 0x50 => some (.move port tag params)
  | 0x51 => some (.cancelMove port tag params)
  | 0x52 => some (.moverStatus port tag params)
  | 0x60 => some (.cacheList port tag params)
  | 0x61 => some (.cachePurge port tag params)
  | 0x70 => some (.readNotices port tag params)
  | 0x71 => some (.maskNotices port tag params)
  | 0x72 => some (.discardNotices port tag params)
  | 0x80 => some (.claim port tag params)
  | 0x81 => some (.yieldClaim port tag params)
  | 0x82 => some (.setConfig port tag params)
  | 0x83 => some (.getConfig port tag params)
  | 0x84 => some (.resetPart port tag params)
  | _ => none

/-- A code that Table 11-1 gives to a command (R177 step 1, R180). -/
def codeInTable (code : Byte) : Bool := (tableCommand 0 code 0 []).isSome

/-- The command that a whole transfer is (R172, R174, R177): no whole byte, no command; first byte 0x00, a read
transfer; otherwise a command transfer, bad or good. -/
def transferCommand (port : Port) (bytes : List Byte) (stray : Bool) : Option Instr :=
  match bytes with
  | [] => none
  | first :: rest =>
    if first = 0 then some (.readTransfer port bytes.length)
    else if frameIsBad bytes stray then some (.badFrame port bytes stray)
    else
      let tag := rest.getD 0 0
      let params := (rest.drop 2).dropLast
      some ((tableCommand port first tag params).getD (.unknownCommand port first tag params))

/-- The link and the bytes of the transfer that a link command is, and whether a part of a byte follows them. The
pins, the highways, the timebase and the part's own events are no transfers. -/
def transferBytes : Instr → Option (Port × List Byte × Bool)
  | .join p t ps => some (p, layFrame 0x10 t ps, false)
  | .keep p t ps => some (p, layFrame 0x11 t ps, false)
  | .leave p t ps => some (p, layFrame 0x12 t ps, false)
  | .attach p t ps => some (p, layFrame 0x20 t ps, false)
  | .release p t ps => some (p, layFrame 0x21 t ps, false)
  | .retrain p t ps => some (p, layFrame 0x22 t ps, false)
  | .adopt p t ps => some (p, layFrame 0x23 t ps, false)
  | .setPolicy p t ps => some (p, layFrame 0x24 t ps, false)
  | .clearHolds p t ps => some (p, layFrame 0x25 t ps, false)
  | .adapt p t ps => some (p, layFrame 0x26 t ps, false)
  | .query p t ps => some (p, layFrame 0x27 t ps, false)
  | .pauseProbe p t ps => some (p, layFrame 0x30 t ps, false)
  | .resumeProbe p t ps => some (p, layFrame 0x31 t ps, false)
  | .poolStatus p t ps => some (p, layFrame 0x40 t ps, false)
  | .snapshot p t ps => some (p, layFrame 0x41 t ps, false)
  | .restore p t ps => some (p, layFrame 0x42 t ps, false)
  | .dropSnapshot p t ps => some (p, layFrame 0x43 t ps, false)
  | .readTaps p t ps => some (p, layFrame 0x44 t ps, false)
  | .move p t ps => some (p, layFrame 0x50 t ps, false)
  | .cancelMove p t ps => some (p, layFrame 0x51 t ps, false)
  | .moverStatus p t ps => some (p, layFrame 0x52 t ps, false)
  | .cacheList p t ps => some (p, layFrame 0x60 t ps, false)
  | .cachePurge p t ps => some (p, layFrame 0x61 t ps, false)
  | .readNotices p t ps => some (p, layFrame 0x70 t ps, false)
  | .maskNotices p t ps => some (p, layFrame 0x71 t ps, false)
  | .discardNotices p t ps => some (p, layFrame 0x72 t ps, false)
  | .claim p t ps => some (p, layFrame 0x80 t ps, false)
  | .yieldClaim p t ps => some (p, layFrame 0x81 t ps, false)
  | .setConfig p t ps => some (p, layFrame 0x82 t ps, false)
  | .getConfig p t ps => some (p, layFrame 0x83 t ps, false)
  | .resetPart p t ps => some (p, layFrame 0x84 t ps, false)
  | .unknownCommand p code t ps => some (p, layFrame code t ps, false)
  | .badFrame p bytes stray => some (p, bytes, stray)
  | .readTransfer p clocked => some (p, List.replicate clocked 0, false)
  | .reset | .lockedFrame .. | .endOfPlay .. | .frameBoundary .. | .huntPulse .. | .noClock | .epochEnd
  | .orderComplete | .drainExpiry .. | .leaseExpiry .. | .holdExpiry .. | .strandExpiry .. | .cacheAged
  | .timebaseTick => none

end Sys2Proof
end

