-- ==== Sys2Proof/Config.lean ====
section
/-! DEFINITION. What is fixed for one part: the mask-programmed Sequence Store and its factory directory, and the
free values, which the manual leaves open. -/

namespace Sys2Proof

/-- One entry of the Sequence Store's directory: a start position and a length in codes (R89). -/
structure SequenceEntry where
  start : Nat
  length : Nat
deriving DecidableEq, Repr

namespace Config

/-- The factory directory of R89. An entry of length 0 is unpopulated; ids 12..15 are (log 3). -/
def directory : Nat → SequenceEntry
  | 0 => ⟨0, 2400⟩
  | 1 => ⟨2400, 4800⟩
  | 2 => ⟨7200, 9600⟩
  | 3 => ⟨16800, 4800⟩
  | 4 => ⟨21600, 4800⟩
  | 5 => ⟨26400, 3200⟩
  | 6 => ⟨29600, 8000⟩
  | 7 => ⟨37600, 16000⟩
  | 8 => ⟨53600, 4800⟩
  | 9 => ⟨58400, 2000⟩
  | 10 => ⟨60400, 8000⟩
  | 11 => ⟨68400, 6400⟩
  | _ => ⟨0, 0⟩

/-- The delta code at a position of the Sequence Store (R89): a 4-bit two's complement value. The contents are fixed
at manufacture and the manual does not print them: a FREE VALUE, one per position (log 2). -/
opaque storeCode : Nat → BitVec 4

/-- A FREE VALUE: the rank of the work item `item` in the `n`-th choice of an order that the manual leaves open: the
order of the blocks' work at an epoch end (R36, R165) and of the completions of step 3 of R140 (log 1). -/
opaque freeRank : (n : Nat) → (item : Nat) → Nat

end Config
end Sys2Proof
end

