-- ==== Sys2Proof/Machine/State.lean ====
section
/-! DEFINITION. Everything the manual says the part holds, as plain data, with the queue of commands that wait, the
reasons a step could stop, and the machine right after reset. -/

namespace Sys2Proof.Machine

/-! ### Ports (spec/08, spec/10, spec/11) -/

/-- The link state of a port (R135). -/
inductive LinkState where
  | absent
  | grace
  | live
deriving DecidableEq, Repr

/-- The status codes of Table 11-2 (R181), in the order of their codes. -/
inductive Status where
  | ok
  | empty
  | badFrame
  | unknownCommand
  | notJoined
  | wrongState
  | badChannel
  | badParam
  | badSequence
  | notLessee
  | noSpace
  | busy
  | notFound
  | claimed
  | noClaim
  | othersPresent
deriving DecidableEq, Repr

/-- One response frame (R176); its length and check byte follow from these fields. -/
structure Response where
  status : Status
  tag : Byte
  payload : List Byte
deriving DecidableEq, Repr

/-- The 19 notice kinds of R163, in the order of their codes in Table 11-3. -/
inductive NoticeKind where
  | portLost
  | channelOrphaned
  | channelStranded
  | channelDropped
  | diverged
  | syncLost
  | poolLow
  | channelAdopted
  | syncRestored
  | poolRecovered
  | converged
  | trainStalled
  | proving
  | moveDone
  | level
  | contention
  | budgetSpent
  | released
  | cacheEvicted
deriving DecidableEq, Repr

/-- A notice record (R164). The class follows from the kind (`NoticeKind.urgent`). The detail items stand in the
order of the table of R164; an enumeration is its number in the list R164 gives, a state with a phase is the state
code in the upper byte and the phase code in the lower, an absent item is 65535 (R182). -/
structure Notice where
  kind : NoticeKind
  channel : Option ChannelNo
  detail : List Int
deriving DecidableEq, Repr

/-- What the part keeps for one port: link state and lease timer (R135), notice queue, mask, overflow flag and ATTN
(R166), held response (R175), and the bytes driven on LINK DO in the last transfer taken (R172, R176; log 10). -/
structure PortRecord where
  link : LinkState
  lease : Option Nat
  queue : List Notice
  mask : List NoticeKind
  overflow : Bool
  attn : Bool
  held : Option Response
  linkOut : List Byte
deriving DecidableEq, Repr

/-- The thirteen parameters of Table 8-2 (R151). -/
structure SharedConfig where
  leasePeriod : Nat
  joinGrace : Nat
  convergence : Int
  trainingLimit : Nat
  contentionMargin : Int
  fastStep : Nat
  trackingStep : Nat
  farFloor : Int
  cacheLifetime : Nat
  poolLowWater : Nat
  levelWarn : Int
  levelFade : Int
  levelLoss : Int
deriving DecidableEq, Repr

/-! ### Channel records (spec/01 Table 1-1) -/

inductive Phase where
  | queued
  | probing
  | settling
  | stalled
deriving DecidableEq, Repr

/-- The state of a channel, with its phase in TRAINING (R8, R9). -/
inductive CallState where
  | vacant
  | training (phase : Phase)
  | tracking
  | releasing
  | orphaned
  | stranded
deriving DecidableEq, Repr

/-- The prior state of an ORPHANED channel (Table 1-1, R142). -/
inductive PriorState where
  | training (phase : Phase)
  | tracking
deriving DecidableEq, Repr

inductive Origin where
  | fresh
  | resumed
  | adopted
deriving DecidableEq, Repr

/-- The recovery policy: NONE, RETRAIN, ROLLBACK (R82 to R84). -/
inductive Recovery where
  | stay
  | retrain
  | rollback
deriving DecidableEq, Repr

inductive ContentionMode where
  | auto
  | manual
deriving DecidableEq, Repr

/-- The profile (R3); the sequence id is absent in VACANT (Table 1-2). -/
structure Profile where
  near : Nat
  far : Nat
  eq : Nat
  sequence : Option Nat
deriving DecidableEq, Repr

/-- The eight policy fields of Table 1-3 (R5); the hold time is absent in VACANT (Table 1-2). -/
structure Policy where
  routeTag : Nat
  retain : Bool
  recovery : Recovery
  mode : ContentionMode
  lossCode : Nat
  holdLimit : Nat
  holdTime : Option Nat
  strandTime : Nat
deriving DecidableEq, Repr

/-- The far window: start delay 0..4800, active or not (R4). -/
structure FarWindow where
  start : Nat
  active : Bool
deriving DecidableEq, Repr

/-- A snapshot record (Table 3-1, R51). `ready` is the state READY; FILLING otherwise. -/
structure Snapshot where
  id : Nat
  ready : Bool
  segments : List Nat
  window : FarWindow
  figure : Int
  pins : Nat
deriving DecidableEq, Repr

/-- The measurements of the last measuring epoch end (R37, R62). -/
structure Measurements where
  figure : Int
  receive : Int
  estimate : Int
deriving DecidableEq, Repr

/-- The set of freeze reasons of the last epoch end (R64). -/
structure FreezeSet where
  contention : Bool
  budget : Bool
  mover : Bool
  loss : Bool
  pause : Bool
deriving DecidableEq, Repr

inductive LevelStatus where
  | normal
  | low
  | fade
  | loss
deriving DecidableEq, Repr

/-- The level status and the counters the Level Supervisor keeps with it (R155). -/
structure LevelRecord where
  status : LevelStatus
  belowWarn : Nat
  belowLoss : Nat
  recovery : Nat
  last : Option Int
deriving DecidableEq, Repr

/-- The per-epoch sums of R37: the energies of Line-in, echo estimate and residual, and the number of frames of the
epoch they cover. -/
structure EpochSums where
  line : Nat
  estimate : Nat
  residual : Nat
  frames : Nat
deriving DecidableEq, Repr

/-- What the frames and orders of the current epoch have shown of a channel: how many frames found it in an adapting
state (R63), whether one found its player PAUSED (R64), whether an order in flight touched its live taps (R65). A channel
that becomes VACANT loses them, and a call attached anew within the epoch starts with none (logs 21, 33). -/
structure EpochMarks where
  adapting : Nat
  paused : Bool
  mover : Bool
deriving DecidableEq, Repr

/-- A channel record (Table 1-1) with the histories and sums the Highway Interface keeps for the channel (R28, R37). -/
structure Channel where
  state : CallState
  lessee : Option Port
  origin : Option Origin
  prior : Option PriorState
  parkEligible : Option Bool
  profile : Profile
  policy : Policy
  holdCount : Nat
  window : FarWindow
  live : List Nat
  ring : List Snapshot
  nextSnapshot : Nat
  measured : Option Measurements
  goodRun : Nat
  badRun : Nat
  trainingEpochs : Nat
  proving : Option Nat
  guard : Option Nat
  /-- The record of the channel's rollback order: present while that order is in the mover queue, and true while the
  channel has stayed in TRACKING since the enqueue (R85). -/
  rollback : Option Bool
  contentionLive : Bool
  hangover : Nat
  budget : Nat
  freeze : FreezeSet
  level : LevelRecord
  player : Option PlayerNo
  drainTimer : Option Nat
  holdTimer : Option Nat
  strandTimer : Option Nat
  /-- Reference history, newest first, at most 5440 samples; samples beyond the list are 0 (R28; log 25). -/
  reference : List Sample
  /-- Residuals, newest first, at most 144: the newest 64 are the residual history of R28, the older ones serve
  R67's sums over the epoch (log 13). Samples beyond the list are 0. -/
  residuals : List Sample
  sums : EpochSums
  marks : EpochMarks
deriving DecidableEq, Repr

/-! ### Tap pool, players, mover, cache (spec/03, spec/05, spec/06, spec/07) -/

/-- The taps of the pool: (32 × segment + position, value) in strictly rising order, no value 0; a tap that is not
listed is 0 (R42, R43; log 14). -/
abbrev Memory := List (Nat × Tap)

inductive PoolFlag where
  | normal
  | low
deriving DecidableEq, Repr

/-- The tap pool: the taps, the free set in ascending order, the pool flag (R42, R43, R48). -/
structure Pool where
  taps : Memory
  free : List Nat
  flag : PoolFlag
deriving DecidableEq, Repr

/-- Locator sums (R96, R97): per candidate delay, from the near tap count up, the correlation and the energy of the
reference; and the energies of Line-in and of the probe samples. -/
structure LocatorSums where
  correlation : List Int
  reference : List Nat
  line : Nat
  probe : Nat
deriving DecidableEq, Repr

structure Locator where
  running : LocatorSums
  epoch : LocatorSums
deriving DecidableEq, Repr

/-- What a PLAYING or PAUSED player holds (R91). -/
structure Play where
  channel : ChannelNo
  sequence : Nat
  pointer : Nat
  remaining : Nat
  previous : Sample
  step : Nat
  paused : Bool
  locator : Option Locator
deriving DecidableEq, Repr

/-- The copy of a region: LIVE, or a snapshot by its id (R105). -/
inductive Copy where
  | live
  | snapshot (id : Nat)
deriving DecidableEq, Repr

/-- The banks, and SET, the whole coefficient set (R105). -/
inductive Bank where
  | near
  | far
  | equal
  | set
deriving DecidableEq, Repr

/-- A region (R105). -/
structure Region where
  channel : ChannelNo
  copy : Copy
  bank : Bank
  first : Nat
  count : Nat
deriving DecidableEq, Repr

inductive OrderOrigin where
  | command
  | internal
deriving DecidableEq, Repr

/-- The kind of an order with the fields of that kind (Table 6-1). -/
inductive Work where
  | copy (source dest : Region) (keyed : Bool)
  | fill (dest : Region) (value : Tap)
  | expand (dest : Region) (mask : Word32) (fore back : Tap) (transparent : Bool)
  | blend (source dest : Region) (weight : Nat)
  | capture (channel : ChannelNo) (id : Nat)
  | restore (channel : ChannelNo) (id : Nat)
deriving DecidableEq, Repr

/-- An order of the mover queue (R104). `rollback` marks the rollback order of its channel (R85). -/
structure Order where
  tag : Byte
  port : Port
  origin : OrderOrigin
  rollback : Bool
  work : Work
  total : Nat
  progress : Nat
deriving DecidableEq, Repr

/-- An entry of the route cache (Table 7-1, R123). -/
structure CacheEntry where
  routeTag : Nat
  near : Nat
  far : Nat
  eq : Nat
  window : FarWindow
  segments : List Nat
  figure : Int
  parkNumber : Word32
  parkTime : Word32
deriving DecidableEq, Repr

/-! ### Highway Interface (spec/02) -/

inductive SyncState where
  | locked
  | hunting
deriving DecidableEq, Repr

/-- The sync items of section 2.3 and the samples that the output slots carry in the next frame (R30). `runReference`
says whether a pulse is the run reference (log 12). -/
structure Highway where
  sync : SyncState
  faultCount : Nat
  runCount : Nat
  runReference : Bool
  huntStart : Word32
  epochFrames : Nat
  epochCounter : Word32
  lineOut : Vector Sample 48
  pumpOut : Vector Sample 48
deriving DecidableEq, Repr

/-- The whole part, with the queue of commands that wait and the counter that picks free values (log 1). -/
structure State where
  pending : List Instr
  freeIndex : Nat
  ports : Vector PortRecord 4
  claim : Option Port
  config : SharedConfig
  channels : Vector Channel 48
  pool : Pool
  players : Vector (Option Play) 4
  probeQueue : List ChannelNo
  mover : List Order
  cache : List CacheEntry
  parkCounter : Word32
  highway : Highway
  timebase : Word32
deriving DecidableEq, Repr

/-- Reasons to stop with a fault: the manual gives the part none (INVENTORY.md, Faults), so there is none. -/
inductive Fault where
deriving DecidableEq, Repr

/-- Reasons to refuse a command. -/
inductive Refusal where
  /-- Raised by an arm of `exec` for a command that has no meaning yet; no arm does. Safe: the run stops. -/
  | notModelled (mnemonic : String)
deriving DecidableEq, Repr

/-! ### Reset (R2, R26, R40, R42, R88, R91, R103, R113, R122, R123, R124, R135, R150, R151, R154, R155, R166, R175) -/

/-- A port after reset (R135, R154, R166, R175). -/
def PortRecord.reset : PortRecord where
  link := .absent
  lease := none
  queue := []
  mask := []
  overflow := false
  attn := false
  held := none
  linkOut := []

/-- The defaults of Table 8-2 (R151). -/
def SharedConfig.default : SharedConfig where
  leasePeriod := 250
  joinGrace := 2000
  convergence := 24
  trainingLimit := 600
  contentionMargin := 6
  fastStep := 5
  trackingStep := 9
  farFloor := -40
  cacheLifetime := 30
  poolLowWater := 32
  levelWarn := -33
  levelFade := -38
  levelLoss := -43

def FreezeSet.empty : FreezeSet := ⟨false, false, false, false, false⟩

/-- NORMAL, all runs 0, no last level (R155). -/
def LevelRecord.start : LevelRecord := ⟨.normal, 0, 0, 0, none⟩

def EpochSums.zero : EpochSums := ⟨0, 0, 0, 0⟩

def EpochMarks.clear : EpochMarks := ⟨0, false, false⟩

/-- The far window start 0, inactive (R4). -/
def FarWindow.inactive : FarWindow := ⟨0, false⟩

/-- The policy fields of a VACANT record (Table 1-2). -/
def Policy.vacant : Policy := ⟨0, false, .stay, .auto, 0, 0, none, 0⟩

/-- A VACANT record: the values of Table 1-2 (R2), histories and sums zero (R28, R37). -/
def Channel.vacant : Channel where
  state := .vacant
  lessee := none
  origin := none
  prior := none
  parkEligible := none
  profile := ⟨0, 0, 0, none⟩
  policy := .vacant
  holdCount := 0
  window := .inactive
  live := []
  ring := []
  nextSnapshot := 1
  measured := none
  goodRun := 0
  badRun := 0
  trainingEpochs := 0
  proving := none
  guard := none
  rollback := none
  contentionLive := false
  hangover := 0
  budget := 0
  freeze := .empty
  level := .start
  player := none
  drainTimer := none
  holdTimer := none
  strandTimer := none
  reference := []
  residuals := []
  sums := .zero
  marks := .clear

/-- All 768 segments free, every tap 0, flag NORMAL (R42, R49). -/
def Pool.reset : Pool := ⟨[], List.range 768, .normal⟩

/-- HUNTING, all counts 0, every output slot zero (R40). -/
def Highway.reset : Highway where
  sync := .hunting
  faultCount := 0
  runCount := 0
  runReference := false
  huntStart := 0
  epochFrames := 0
  epochCounter := 0
  lineOut := Vector.replicate 48 0
  pumpOut := Vector.replicate 48 0

/-- The part right after reset, nothing waiting in the queue. -/
def State.reset : State where
  pending := []
  freeIndex := 0
  ports := Vector.replicate 4 .reset
  claim := none
  config := .default
  channels := Vector.replicate 48 .vacant
  pool := .reset
  players := Vector.replicate 4 none
  probeQueue := []
  mover := []
  cache := []
  parkCounter := 0
  highway := .reset
  timebase := 0

end Sys2Proof.Machine
end

