-- ==== Sys2Proof/Machine/Flags.lean ====
section
/-! DEFINITION. The arithmetic of the part, and the judgments made on it: rounding and clamping, levels in dB, the
correction of a tap, the run counters, the contention detector, the level status, the decoding of a probe code. -/

namespace Sys2Proof.Machine

/-! ### Rounding and clamping -/

/-- `v` clamped to `lo..hi`. -/
def clamp (lo hi v : Int) : Int := max lo (min hi v)

/-- A computed sample outside the sample range is clamped to the nearest end (spec/00_scope.md, Samples). -/
def clampSample (v : Int) : Sample := clamp (-32768) 32767 v

/-- `a / b` rounded to the nearest integer, ties away from zero (R29, R67, R108). -/
def roundDiv (a : Int) (b : Nat) : Int :=
  let q : Int := ((2 * a.natAbs + b) / (2 * b) : Nat)
  if a < 0 then -q else q

/-! ### Levels (R37, R97) -/

/-- Whether `10 × log10 (a / b)` rounds to at least `k`, that is, whether it is at or above `k - 1/2`: as
`a / b ≥ 10 ^ ((2k - 1) / 20)`, raised to the 20th power. No rational `a / b` lies on the edge, so ties do not arise. -/
def dbAtLeast (a b : Nat) (k : Int) : Bool :=
  decide (b ^ 20 * 10 ^ (2 * k - 1).toNat ≤ a ^ 20 * 10 ^ (1 - 2 * k).toNat)

/-- `10 × log10 (a / b)` rounded to the nearest integer and clamped to `lo .. lo + span`; `lo` when `a` is 0. -/
def dbLevel (lo : Int) (span : Nat) (a b : Nat) : Int :=
  if a = 0 then lo
  else lo + ((List.range span).countP fun (i : Nat) => dbAtLeast a b (lo + i + 1) : Nat)

/-- The level of an energy over the 80 samples of an epoch: -70..+3 dBm0, a mean square of 2^28 being 0 (R37). -/
def levelOfEnergy (energy : Nat) : Int := dbLevel (-70) 73 energy (80 * 2 ^ 28)

/-- The measurements a channel's sums give at an epoch end: none unless they cover all 80 frames (R37). -/
def EpochSums.measurements (sums : EpochSums) : Option Measurements :=
  if sums.frames = 80 then
    let receive := levelOfEnergy sums.line
    some { figure := clamp 0 60 (receive - levelOfEnergy sums.residual), receive := receive,
           estimate := levelOfEnergy sums.estimate }
  else none

/-! ### The correction of a tap (R67) -/

/-- The largest `q` below `2 ^ bits` for which `ok q` holds, for an `ok` that holds up to some point and not beyond. -/
def largest (ok : Nat → Bool) : (bits : Nat) → Nat → Nat
  | 0, q => q
  | bits + 1, q => if ok (q + 2 ^ bits) then largest ok bits (q + 2 ^ bits) else largest ok bits q

/-- `32767 × C / sqrt (A × B)` rounded to the nearest integer, ties away from zero; 0 when `A` or `B` is 0. Its
magnitude is the largest `q` with `q - 1/2 ≤ 32767 × |C| / sqrt (A × B)`, both sides squared. -/
def correctionOf (c : Int) (a b : Nat) : Int :=
  if a * b = 0 then 0
  else
    let n := 32767 * c.natAbs
    let q : Int := largest (fun q => decide ((2 * q - 1) ^ 2 * (a * b) ≤ 4 * n ^ 2)) 15 0
    if c < 0 then -q else q

/-- The correction of pairs (residual, paired sample), one pair for each frame of the epoch. -/
def correctionOfPairs (pairs : List (Sample × Sample)) : Int :=
  correctionOf (pairs.foldl (fun acc p => acc + p.1 * p.2) 0)
    (pairs.foldl (fun acc p => acc + p.1.natAbs ^ 2) 0)
    (pairs.foldl (fun acc p => acc + p.2.natAbs ^ 2) 0)

/-- The new value of a tap: the old one plus the correction divided by 2 to the step exponent, rounded, clamped
(R67). -/
def stepTap (old : Tap) (correction : Int) (exponent : Nat) : Tap :=
  clamp (-32768) 32767 (old + roundDiv correction (2 ^ exponent))

/-! ### Run counters (R74) and the contention detector (R69) -/

/-- Good run and bad run after an update epoch with a convergence figure, both saturating at 255 (R74). -/
def moveRuns (threshold figure : Int) (good bad : Nat) : Nat × Nat :=
  if threshold ≤ figure then (min 255 (good + 1), 0)
  else if threshold - 9 ≤ figure then (0, 0)
  else (0, min 255 (bad + 1))

/-- The detector's result: the receive level exceeds the echo estimate level by more than the margin (R69). -/
def contentionResult (margin : Int) (m : Measurements) : Bool := decide (margin < m.receive - m.estimate)

/-! ### Level status (R156 to R159) -/

/-- The debounce count of a loss debounce code (R5, R155). -/
def debounceCount : Nat → Nat
  | 0 => 1
  | 1 => 3
  | 2 => 15
  | _ => 75

/-- The order of depth: NORMAL, LOW, FADE, LOSS (R155). -/
def LevelStatus.depth : LevelStatus → Nat
  | .normal => 0
  | .low => 1
  | .fade => 2
  | .loss => 3

/-- The target status of the epoch: the deepest whose entry condition holds (R158). -/
def levelTarget (cfg : SharedConfig) (lossCode : Nat) (level : Int) (belowWarn belowLoss : Nat) : LevelStatus :=
  if debounceCount lossCode ≤ belowLoss then .loss
  else if level < cfg.levelFade then .fade
  else if belowWarn = 3 then .low
  else .normal

/-- The exit level of a status: its own threshold plus 2 dB (R159). NORMAL has none. -/
def exitLevel (cfg : SharedConfig) : LevelStatus → Option Int
  | .normal => none
  | .low => some (cfg.levelWarn + 2)
  | .fade => some (cfg.levelFade + 2)
  | .loss => some (cfg.levelLoss + 2)

/-- The status that the level of one epoch alone places a channel in when it leaves its status (R159). -/
def levelPlace (cfg : SharedConfig) (level : Int) : LevelStatus :=
  if level < cfg.levelFade then .fade else if level < cfg.levelWarn then .low else .normal

/-- The judgment of the Level Supervisor on the receive level of an epoch: last level, entry runs, entry, and where
no entry is made, exit (R156 to R159). -/
def LevelRecord.judge (cfg : SharedConfig) (lossCode : Nat) (level : Int) (r : LevelRecord) : LevelRecord :=
  let belowWarn := if level < cfg.levelWarn then min 3 (r.belowWarn + 1) else 0
  let belowLoss := if level < cfg.levelLoss then min 75 (r.belowLoss + 1) else 0
  let target := levelTarget cfg lossCode level belowWarn belowLoss
  let moved : LevelRecord := { r with belowWarn, belowLoss, last := some level }
  if r.status.depth < target.depth then { moved with status := target, recovery := 0 }
  else
    match exitLevel cfg r.status with
    | none => moved
    | some exit =>
      if exit ≤ level then
        if r.recovery + 1 = 3 then { moved with status := levelPlace cfg level, recovery := 0 }
        else { moved with recovery := r.recovery + 1 }
      else { moved with recovery := 0 }

/-! ### Decoding of a probe code (R90) -/

/-- The sample and the step that follow a code: from the previous sample and the step before it (R90). -/
def decodeCode (code : Int) (previous : Sample) (step : Nat) : Sample × Nat :=
  (clampSample (previous + code * step),
   if 6 ≤ code.natAbs then min 2048 (step * 2) else if code.natAbs ≤ 1 then max 16 (step / 2) else step)

end Sys2Proof.Machine
end

