-- ==== Sys2Proof/Machine/Operands.lean ====
section
/-! DEFINITION. The encoding of fields (R179): the codes of the enumerations, the bytes of payload items, and the
parameters of each command read from the parameter bytes of its frame.

A parameter list is read into numbers here; `none` means that the bytes are not as many as the parameters take (R177
step 3). Ranges are checked by the command's own rule (R177 step 4). -/

namespace Sys2Proof.Machine

/-! ### Codes of enumerations: the position of the value in its list (R179) -/

def LinkState.code : LinkState → Nat
  | .absent => 0
  | .grace => 1
  | .live => 2

/-- The codes of Table 11-2 (R181). -/
def Status.code : Status → Nat
  | .ok => 0x00
  | .empty => 0x01
  | .badFrame => 0x02
  | .unknownCommand => 0x03
  | .notJoined => 0x04
  | .wrongState => 0x05
  | .badChannel => 0x06
  | .badParam => 0x07
  | .badSequence => 0x08
  | .notLessee => 0x09
  | .noSpace => 0x0A
  | .busy => 0x0B
  | .notFound => 0x0C
  | .claimed => 0x0D
  | .noClaim => 0x0E
  | .othersPresent => 0x0F

/-- The codes of Table 11-3 (R182). -/
def NoticeKind.code : NoticeKind → Nat
  | .portLost => 0x01
  | .channelOrphaned => 0x02
  | .channelStranded => 0x03
  | .channelDropped => 0x04
  | .diverged => 0x05
  | .syncLost => 0x06
  | .poolLow => 0x07
  | .channelAdopted => 0x08
  | .syncRestored => 0x09
  | .poolRecovered => 0x0A
  | .converged => 0x0B
  | .trainStalled => 0x0C
  | .proving => 0x0D
  | .moveDone => 0x0E
  | .level => 0x0F
  | .contention => 0x10
  | .budgetSpent => 0x11
  | .released => 0x12
  | .cacheEvicted => 0x13

/-- The 19 kinds in the order of their codes. -/
def NoticeKind.all : List NoticeKind :=
  [.portLost, .channelOrphaned, .channelStranded, .channelDropped, .diverged, .syncLost, .poolLow, .channelAdopted,
   .syncRestored, .poolRecovered, .converged, .trainStalled, .proving, .moveDone, .level, .contention, .budgetSpent,
   .released, .cacheEvicted]

def NoticeKind.ofCode (code : Nat) : Option NoticeKind := NoticeKind.all.find? fun k => k.code == code

/-- Codes 0x01..0x07 are the urgent kinds (R163, R182). -/
def NoticeKind.urgent : NoticeKind → Bool
  | .portLost | .channelOrphaned | .channelStranded | .channelDropped | .diverged | .syncLost | .poolLow => true
  | .channelAdopted | .syncRestored | .poolRecovered | .converged | .trainStalled | .proving | .moveDone | .level
  | .contention | .budgetSpent | .released | .cacheEvicted => false

def Phase.code : Phase → Nat
  | .queued => 0
  | .probing => 1
  | .settling => 2
  | .stalled => 3

def CallState.code : CallState → Nat
  | .vacant => 0
  | .training _ => 1
  | .tracking => 2
  | .releasing => 3
  | .orphaned => 4
  | .stranded => 5

/-- The phase of a channel, present in TRAINING (R9). -/
def CallState.phase : CallState → Option Phase
  | .training ph => some ph
  | .vacant | .tracking | .releasing | .orphaned | .stranded => none

/-- The code of a phase, or 0xFF where no phase applies (R179). -/
def phaseCode : Option Phase → Nat
  | some ph => ph.code
  | none => 0xFF

/-- A state with its phase as one 16-bit item of a notice: state code above, phase code or 0xFF below (R182). -/
def CallState.item (st : CallState) : Int := st.code * 256 + phaseCode st.phase

def PriorState.toCallState : PriorState → CallState
  | .training ph => .training ph
  | .tracking => .tracking

def Origin.code : Origin → Nat
  | .fresh => 0
  | .resumed => 1
  | .adopted => 2

def Recovery.code : Recovery → Nat
  | .stay => 0
  | .retrain => 1
  | .rollback => 2

def Recovery.ofCode : Nat → Option Recovery
  | 0 => some .stay
  | 1 => some .retrain
  | 2 => some .rollback
  | _ => none

def ContentionMode.code : ContentionMode → Nat
  | .auto => 0
  | .manual => 1

def ContentionMode.ofCode : Nat → Option ContentionMode
  | 0 => some .auto
  | 1 => some .manual
  | _ => none

def LevelStatus.code : LevelStatus → Nat
  | .normal => 0
  | .low => 1
  | .fade => 2
  | .loss => 3

def PoolFlag.code : PoolFlag → Nat
  | .normal => 0
  | .low => 1

def SyncState.code : SyncState → Nat
  | .locked => 0
  | .hunting => 1

def OrderOrigin.code : OrderOrigin → Nat
  | .command => 0
  | .internal => 1

/-- COPY 0 to RESTORE 5 (R182). -/
def Work.code : Work → Nat
  | .copy .. => 0
  | .fill .. => 1
  | .expand .. => 2
  | .blend .. => 3
  | .capture .. => 4
  | .restore .. => 5

def Bank.ofCode : Nat → Option Bank
  | 0 => some .near
  | 1 => some .far
  | 2 => some .equal
  | 3 => some .set
  | _ => none

/-- yes / no: 1 yes, 0 no; any other value is out of range. -/
def yesNo : Nat → Option Bool
  | 0 => some false
  | 1 => some true
  | _ => none

def boolCode (b : Bool) : Nat := if b then 1 else 0

/-- The set of freeze reasons as one byte: CONTENTION bit 0 to PAUSE bit 4 (R179). -/
def FreezeSet.code (f : FreezeSet) : Nat :=
  boolCode f.contention + 2 * boolCode f.budget + 4 * boolCode f.mover + 8 * boolCode f.loss + 16 * boolCode f.pause

/-! ### Bytes of payload items (R179) -/

/-- One byte: a number within 0..255, or two's complement within -128..127. -/
def enc1 (v : Int) : List Byte := [BitVec.ofInt 8 v]

/-- Two bytes, more significant first; negative values in two's complement. -/
def enc2 (v : Int) : List Byte := [BitVec.ofInt 8 (v / 256), BitVec.ofInt 8 v]

/-- Four bytes, more significant first. -/
def enc4 (v : Word32) : List Byte := enc2 (v.toNat / 65536) ++ enc2 (v.toNat % 65536)

/-- An optional one-byte field: 0xFF when absent. -/
def enc1? : Option Int → List Byte
  | some v => enc1 v
  | none => [0xFF]

/-- An optional two-byte field: 0xFFFF when absent. -/
def enc2? : Option Int → List Byte
  | some v => enc2 v
  | none => [0xFF, 0xFF]

/-- A list: one byte giving the number of items, then the items. -/
def encList {α : Type} (item : α → List Byte) (items : List α) : List Byte :=
  enc1 items.length ++ items.flatMap item

/-- A state with phase: two bytes. -/
def encState (st : CallState) : List Byte := enc1 st.code ++ enc1 (phaseCode st.phase)

def FarWindow.bytes (w : FarWindow) : List Byte := enc2 w.start ++ enc1 (boolCode w.active)

/-- The eight policy fields in the order of Table 1-3; an absent hold time is 0xFF. -/
def Policy.bytes (p : Policy) : List Byte :=
  enc2 p.routeTag ++ enc1 (boolCode p.retain) ++ enc1 p.recovery.code ++ enc1 p.mode.code ++ enc1 p.lossCode
    ++ enc1 p.holdLimit ++ enc1? (p.holdTime.map (fun n => (n : Int))) ++ enc1 p.strandTime

/-- The thirteen parameters in the order of Table 8-2. -/
def SharedConfig.bytes (c : SharedConfig) : List Byte :=
  enc2 c.leasePeriod ++ enc2 c.joinGrace ++ enc1 c.convergence ++ enc2 c.trainingLimit ++ enc1 c.contentionMargin
    ++ enc1 c.fastStep ++ enc1 c.trackingStep ++ enc1 c.farFloor ++ enc1 c.cacheLifetime ++ enc2 c.poolLowWater
    ++ enc1 c.levelWarn ++ enc1 c.levelFade ++ enc1 c.levelLoss

/-- An optional port: the holder of the claim, a lessee. -/
def encPort? (p : Option Port) : List Byte := enc1? (p.map fun q => (q.val : Int))

/-- The detail items of a notice as the four 16-bit items of its record; items beyond the count are 0xFFFF (R182). -/
def detailBytes (detail : List Int) : List Byte :=
  (detail.take 4).flatMap enc2 ++ List.replicate (2 * (4 - detail.length)) 0xFF

/-- The 10 bytes of a notice record (R182). -/
def Notice.bytes (n : Notice) : List Byte :=
  enc1 n.kind.code ++ enc1? (n.channel.map fun c => (c.val : Int)) ++ detailBytes n.detail

/-! ### Numbers from parameter bytes -/

def dec1 (b : Byte) : Nat := b.toNat

def dec2 (hi lo : Byte) : Nat := hi.toNat * 256 + lo.toNat

def decTap (hi lo : Byte) : Tap := (hi ++ lo).toInt

def decMask (a b c d : Byte) : Word32 := a ++ b ++ c ++ d

/-- The channel a parameter names, where the number is at most 47 (R10 step 1). -/
def channelOf (n : Nat) : Option ChannelNo := if h : n < 48 then some ⟨n, h⟩ else none

/-! ### Parameters of each command -/

/-- No parameters. -/
def parseNone : List Byte → Option Unit
  | [] => some ()
  | _ => none

/-- One one-byte parameter: a channel, an order tag, a first position, a notice kind. -/
def parseByte : List Byte → Option Nat
  | [b] => some (dec1 b)
  | _ => none

/-- A channel and a one-byte parameter: RETRAIN, RESTORE, DROP_SNAPSHOT. -/
def parseChannelByte : List Byte → Option (Nat × Nat)
  | [c, b] => some (dec1 c, dec1 b)
  | _ => none

/-- A channel and a two-byte count: ADAPT. -/
def parseChannelWord : List Byte → Option (Nat × Nat)
  | [c, hi, lo] => some (dec1 c, dec2 hi lo)
  | _ => none

/-- A two-byte parameter: the route tag of CACHE_PURGE. -/
def parseWord : List Byte → Option Nat
  | [hi, lo] => some (dec2 hi lo)
  | _ => none

/-- The parameters of ATTACH as numbers, in the order of R11 and Table 1-4. -/
structure AttachParams where
  channel : Nat
  near : Nat
  far : Nat
  eq : Nat
  sequence : Nat
  routeTag : Nat
  retain : Nat
  recovery : Nat
  mode : Nat
  lossCode : Nat
  holdLimit : Nat
  holdTime : Nat
  strandTime : Nat
deriving DecidableEq, Repr

def parseAttach : List Byte → Option AttachParams
  | [c, n, fh, fl, e, q, rh, rl, rt, rc, m, lc, hl, ht, st] =>
    some ⟨dec1 c, dec1 n, dec2 fh fl, dec1 e, dec1 q, dec2 rh rl, dec1 rt, dec1 rc, dec1 m, dec1 lc, dec1 hl, dec1 ht,
      dec1 st⟩
  | _ => none

/-- The policy fields in the order of Table 1-3: the names of SET_POLICY's items (R22, R179). -/
inductive PolicyField where
  | routeTag
  | retain
  | recovery
  | mode
  | lossCode
  | holdLimit
  | holdTime
  | strandTime
deriving DecidableEq, Repr

def PolicyField.ofCode : Nat → Option PolicyField
  | 0 => some .routeTag
  | 1 => some .retain
  | 2 => some .recovery
  | 3 => some .mode
  | 4 => some .lossCode
  | 5 => some .holdLimit
  | 6 => some .holdTime
  | 7 => some .strandTime
  | _ => none

/-- Whether the field's value takes two bytes: its range reaches above 255. -/
def PolicyField.wide : PolicyField → Bool
  | .routeTag => true
  | .retain | .recovery | .mode | .lossCode | .holdLimit | .holdTime | .strandTime => false

/-- The parameters of Table 8-2 in its order: the names of SET_CONFIG's items (R151, R179). -/
inductive ConfigParam where
  | leasePeriod
  | joinGrace
  | convergence
  | trainingLimit
  | contentionMargin
  | fastStep
  | trackingStep
  | farFloor
  | cacheLifetime
  | poolLowWater
  | levelWarn
  | levelFade
  | levelLoss
deriving DecidableEq, Repr

def ConfigParam.ofCode : Nat → Option ConfigParam
  | 0 => some .leasePeriod
  | 1 => some .joinGrace
  | 2 => some .convergence
  | 3 => some .trainingLimit
  | 4 => some .contentionMargin
  | 5 => some .fastStep
  | 6 => some .trackingStep
  | 7 => some .farFloor
  | 8 => some .cacheLifetime
  | 9 => some .poolLowWater
  | 10 => some .levelWarn
  | 11 => some .levelFade
  | 12 => some .levelLoss
  | _ => none

def ConfigParam.wide : ConfigParam → Bool
  | .leasePeriod | .joinGrace | .trainingLimit | .poolLowWater => true
  | .convergence | .contentionMargin | .fastStep | .trackingStep | .farFloor | .cacheLifetime | .levelWarn
  | .levelFade | .levelLoss => false

/-- Whether the one-byte value of the parameter is two's complement (R179). -/
def ConfigParam.signed : ConfigParam → Bool
  | .farFloor | .levelWarn | .levelFade | .levelLoss => true
  | .leasePeriod | .joinGrace | .convergence | .trainingLimit | .contentionMargin | .fastStep | .trackingStep
  | .cacheLifetime | .poolLowWater => false

/-- A list of `count` items that name fields: each one byte naming the field, then the value in the field's own width.
An item that names no field leaves the rest unreadable: none (R179). -/
def parseItems {φ : Type} (field : Nat → Option φ) (wide : φ → Bool) (signed : φ → Bool) :
    Nat → List Byte → Option (List (φ × Int))
  | 0, [] => some []
  | 0, _ :: _ => none
  | count + 1, name :: rest =>
    match field (dec1 name) with
    | none => none
    | some f =>
      if wide f then
        match rest with
        | hi :: lo :: rest' => (parseItems field wide signed count rest').map ((f, (dec2 hi lo : Int)) :: ·)
        | _ => none
      else
        match rest with
        | b :: rest' =>
          (parseItems field wide signed count rest').map ((f, if signed f then b.toInt else (dec1 b : Int)) :: ·)
        | _ => none
  | _ + 1, [] => none

/-- No field is named twice (R22, R151). -/
def namedOnce {φ : Type} [BEq φ] : List (φ × Int) → Bool
  | [] => true
  | (f, _) :: rest => !rest.any (fun item => item.1 == f) && namedOnce rest

/-- The parameters of SET_POLICY: the channel, then the list of items with its count (R22, R179). That the channel stands
before the list's count is the model's choice (log 34). -/
def parseSetPolicy : List Byte → Option (Nat × List (PolicyField × Int))
  | c :: count :: items =>
    (parseItems PolicyField.ofCode PolicyField.wide (fun _ => false) (dec1 count) items).map (dec1 c, ·)
  | _ => none

/-- The parameters of SET_CONFIG: the list of items (R151). -/
def parseSetConfig : List Byte → Option (List (ConfigParam × Int))
  | count :: items => parseItems ConfigParam.ofCode ConfigParam.wide ConfigParam.signed (dec1 count) items
  | _ => none

/-- The parameters of MASK_NOTICES: a list of kind codes (R169, R179). -/
def parseMask : List Byte → Option (List Nat)
  | count :: kinds => if kinds.length = dec1 count then some (kinds.map dec1) else none
  | _ => none

/-- The parameters of READ_TAPS: channel, copy, bank, first tap, count (R60). -/
structure ReadTapsParams where
  channel : Nat
  copy : Nat
  bank : Nat
  first : Nat
  count : Nat
deriving DecidableEq, Repr

def parseReadTaps : List Byte → Option ReadTapsParams
  | [c, copy, bank, fh, fl, count] => some ⟨dec1 c, dec1 copy, dec1 bank, dec2 fh fl, dec1 count⟩
  | _ => none

/-- A region as a frame gives it: channel, copy, bank, first tap, count (R105, R179). -/
structure RawRegion where
  channel : Nat
  copy : Nat
  bank : Nat
  first : Nat
  count : Nat
deriving DecidableEq, Repr

def rawRegion (c copy bank fh fl nh nl : Byte) : RawRegion :=
  ⟨dec1 c, dec1 copy, dec1 bank, dec2 fh fl, dec2 nh nl⟩

/-- The parameters of MOVE for each kind (R111): the regions the kind uses, then the fields of Table 6-1 for it. -/
inductive MoveParams where
  | copy (source dest : RawRegion) (keyed : Nat)
  | fill (dest : RawRegion) (value : Tap)
  | expand (dest : RawRegion) (mask : Word32) (fore back : Tap) (transparent : Nat)
  | blend (source dest : RawRegion) (weight : Nat)
deriving DecidableEq, Repr

def parseMove : List Byte → Option MoveParams
  | [0, c, k, b, fh, fl, nh, nl, c', k', b', fh', fl', nh', nl', keyed] =>
    some (.copy (rawRegion c k b fh fl nh nl) (rawRegion c' k' b' fh' fl' nh' nl') (dec1 keyed))
  | [1, c, k, b, fh, fl, nh, nl, vh, vl] => some (.fill (rawRegion c k b fh fl nh nl) (decTap vh vl))
  | [2, c, k, b, fh, fl, nh, nl, m3, m2, m1, m0, gh, gl, hh, hl, t] =>
    some (.expand (rawRegion c k b fh fl nh nl) (decMask m3 m2 m1 m0) (decTap gh gl) (decTap hh hl) (dec1 t))
  | [3, c, k, b, fh, fl, nh, nl, c', k', b', fh', fl', nh', nl', w] =>
    some (.blend (rawRegion c k b fh fl nh nl) (rawRegion c' k' b' fh' fl' nh' nl') (dec1 w))
  | _ => none

end Sys2Proof.Machine
end

