-- ==== Sys2Proof/Machine/Ops.lean ====
section
/-! DEFINITION. The named operations over the state that several commands share: the records of ports, channels and
players; the taps; notices; the held response and the lease; the tap pool; the probe queue; the ends of mover orders;
the route cache; and what becoming VACANT does. -/

namespace Sys2Proof.Machine

/-! ### Records by number -/

def allPorts : List Port := [0, 1, 2, 3]
def allPlayers : List PlayerNo := [0, 1, 2, 3]
def allChannels : List ChannelNo := List.finRange 48

def State.port (s : State) (p : Port) : PortRecord := s.ports.get p
def State.modPort (s : State) (p : Port) (f : PortRecord → PortRecord) : State :=
  { s with ports := s.ports.set p (f (s.port p)) }

def State.chan (s : State) (n : ChannelNo) : Channel := s.channels.get n
def State.modChan (s : State) (n : ChannelNo) (f : Channel → Channel) : State :=
  { s with channels := s.channels.set n (f (s.chan n)) }

def State.play (s : State) (k : PlayerNo) : Option Play := s.players.get k
def State.setPlay (s : State) (k : PlayerNo) (x : Option Play) : State :=
  { s with players := s.players.set k x }

/-- Every channel record, VACANT ones included, is changed by `f`. -/
def State.modAllChannels (s : State) (f : Channel → Channel) : State :=
  allChannels.foldl (fun s n => s.modChan n f) s

/-- What every PLAYING or PAUSED player holds is changed by `f`. -/
def State.modAllPlays (s : State) (f : Play → Play) : State :=
  allPlayers.foldl (fun s k => s.setPlay k ((s.play k).map f)) s

/-! ### Fields of the state and of the pool -/

def State.setMover (s : State) (orders : List Order) : State := { s with mover := orders }
def State.setProbeQueue (s : State) (queue : List ChannelNo) : State := { s with probeQueue := queue }
def State.setCache (s : State) (entries : List CacheEntry) : State := { s with cache := entries }
def State.setClaim (s : State) (holder : Option Port) : State := { s with claim := holder }
def State.setConfig (s : State) (cfg : SharedConfig) : State := { s with config := cfg }
def State.setTaps (s : State) (taps : Memory) : State := { s with pool := { s.pool with taps } }
def State.setFree (s : State) (free : List Nat) : State := { s with pool := { s.pool with free } }
def State.setFlag (s : State) (flag : PoolFlag) : State := { s with pool := { s.pool with flag } }
def State.modHighway (s : State) (f : Highway → Highway) : State := { s with highway := f s.highway }
/-- The next free value is taken from the next place (log 1). -/
def State.spendFree (s : State) : State := { s with freeIndex := s.freeIndex + 1 }

/-! ### The taps (R42) -/

/-- The tap at an address, 32 × segment + position. An address that is not listed reads 0 (R42, R43). -/
def Memory.read : Memory → Nat → Tap
  | [], _ => 0
  | (k, v) :: rest, a => if k = a then v else Memory.read rest a

/-- Write one tap. The canonical form is kept: rising addresses, no value 0. -/
def Memory.write : Memory → Nat → Tap → Memory
  | [], a, v => if v = 0 then [] else [(a, v)]
  | (k, x) :: rest, a, v =>
    if a < k then (if v = 0 then (k, x) :: rest else (a, v) :: (k, x) :: rest)
    else if a = k then (if v = 0 then rest else (a, v) :: rest)
    else (k, x) :: Memory.write rest a v

/-- Every tap of the segments becomes 0 (R43). -/
def Memory.clearSegments (m : Memory) (segments : List Nat) : Memory :=
  m.filter fun cell => !segments.contains (cell.1 / 32)

/-- The canonical form: addresses strictly rising, no listed value 0. -/
def Memory.wf : Memory → Bool
  | [] => true
  | [(_, v)] => decide (v ≠ 0)
  | (k, v) :: (k', v') :: rest => decide (v ≠ 0) && decide (k < k') && Memory.wf ((k', v') :: rest)

/-! ### Banks and segments (R3, R42) -/

/-- The segments a bank of `taps` taps needs. -/
def bankSegments (taps : Nat) : Nat := (taps + 31) / 32

/-- The segments a profile needs (R3). -/
def Profile.segments (p : Profile) : Nat := bankSegments p.near + bankSegments p.far + bankSegments p.eq

/-- The taps of a whole coefficient set (R105). -/
def Profile.setTaps (p : Profile) : Nat := p.near + p.far + p.eq

/-- The tap count of a bank, or of the set (R105). -/
def Profile.bankTaps (p : Profile) : Bank → Nat
  | .near => p.near
  | .far => p.far
  | .equal => p.eq
  | .set => p.setTaps

/-- Where a bank begins in a list of segments laid out near, far, equalizer (R3). -/
def Profile.bankStart (p : Profile) : Bank → Nat
  | .near | .set => 0
  | .far => bankSegments p.near
  | .equal => bankSegments p.near + bankSegments p.far

/-- The address of the tap at position `i mod 32` of segment number `i div 32` from segment `start` of the list (R3);
none where the list has no such segment. -/
def segmentTap (segments : List Nat) (start i : Nat) : Option Nat :=
  segments[start + i / 32]?.map fun seg => 32 * seg + i % 32

/-- The address of tap `i` of a bank; within SET, offset `i` names a near tap, then a far tap, then an equalizer tap
(R105). -/
def tapAddress (p : Profile) (segments : List Nat) : Bank → Nat → Option Nat
  | .near, i => segmentTap segments (p.bankStart .near) i
  | .far, i => segmentTap segments (p.bankStart .far) i
  | .equal, i => segmentTap segments (p.bankStart .equal) i
  | .set, i =>
    if i < p.near then segmentTap segments (p.bankStart .near) i
    else if i < p.near + p.far then segmentTap segments (p.bankStart .far) (i - p.near)
    else segmentTap segments (p.bankStart .equal) (i - p.near - p.far)

/-- The segments of a copy: the live list, or the segments of the snapshot with that id (R105). -/
def Channel.copySegments (c : Channel) : Copy → List Nat
  | .live => c.live
  | .snapshot id => ((c.ring.find? fun r => r.id == id).map (·.segments)).getD []

def Memory.readAt (m : Memory) : Option Nat → Tap
  | some a => m.read a
  | none => 0

def Memory.writeAt (m : Memory) : Option Nat → Tap → Memory
  | some a, v => m.write a v
  | none, _ => m

/-- Tap `i` of a bank of a copy of a channel. -/
def State.tap (s : State) (n : ChannelNo) (copy : Copy) (bank : Bank) (i : Nat) : Tap :=
  let c := s.chan n
  s.pool.taps.readAt (tapAddress c.profile (c.copySegments copy) bank i)

/-- Tap `i` of a bank of a channel's live set takes the value `f i`, for each `i` of the list. -/
def State.writeLive (s : State) (n : ChannelNo) (bank : Bank) (indices : List Nat) (f : Nat → Tap) : State :=
  let c := s.chan n
  s.setTaps (indices.foldl (fun m i => m.writeAt (tapAddress c.profile c.live bank i) (f i)) s.pool.taps)

/-- The initial values of R13: every near and far tap 0, every equalizer tap 0 but tap eq/2, which is 32767. -/
def State.writeInitialTaps (s : State) (n : ChannelNo) : State :=
  let p := (s.chan n).profile
  let s := s.writeLive n .near (List.range p.near) fun _ => 0
  let s := s.writeLive n .far (List.range p.far) fun _ => 0
  s.writeLive n .equal (List.range p.eq) fun j => if j = p.eq / 2 then 32767 else 0

/-! ### Notices (R163 to R169) -/

/-- A port in GRACE or LIVE. -/
def PortRecord.joined (r : PortRecord) : Bool := decide (r.link ≠ .absent)

/-- ATTN follows whether the queue holds a notice whose kind is not masked (R169). -/
def PortRecord.judgeAttn (r : PortRecord) : PortRecord :=
  { r with attn := r.queue.any fun n => !r.mask.contains n.kind }

/-- The merge key: kind and channel, but kind and order tag for MOVE_DONE (R166). The order tag is item 2 of the
detail (R164). -/
def Notice.key (n : Notice) : NoticeKind × Option ChannelNo × Option Int :=
  if n.kind = .moveDone then (n.kind, none, n.detail[1]?) else (n.kind, n.channel, none)

/-- The new notice takes the place of the queued one with its key (R167 case 1). -/
def mergeNotice (n : Notice) (queue : List Notice) : List Notice :=
  queue.map fun q => if q.key = n.key then n else q

/-- A notice arrives at a port's queue: merge, place, or overflow (R167). -/
def PortRecord.arrive (r : PortRecord) (n : Notice) : PortRecord :=
  if r.queue.any (fun q => q.key == n.key) then ({ r with queue := mergeNotice n r.queue }).judgeAttn
  else if r.queue.length < 32 then ({ r with queue := r.queue ++ [n] }).judgeAttn
  else { r with overflow := true }

/-- A notice to one port; a recipient counts only in GRACE or LIVE (R163). -/
def State.notify (s : State) (p : Port) (n : Notice) : State :=
  if (s.port p).joined then s.modPort p fun r => r.arrive n else s

/-- A notice to the lessee of a channel, if it has one. -/
def State.notifyLessee (s : State) (lessee : Option Port) (n : Notice) : State :=
  match lessee with
  | some p => s.notify p n
  | none => s

/-- A notice to every port in GRACE or LIVE (R165). -/
def State.broadcast (s : State) (n : Notice) : State := allPorts.foldl (fun s p => s.notify p n) s

/-- A notice to every port in GRACE or LIVE except one (R163, CHANNEL_ADOPTED). -/
def State.broadcastExcept (s : State) (but : Port) (n : Notice) : State :=
  allPorts.foldl (fun s p => if p = but then s else s.notify p n) s

/-- A 16-bit item for a value that does not apply. -/
def absentItem : Int := 0xFFFF

/-- The upper and the lower 16 bits of a 32-bit count, as two detail items (R33, R34). -/
def halves (w : Word32) : List Int := [(w.toNat / 65536 : Nat), (w.toNat % 65536 : Nat)]

/-! ### Held response, LINK DO and renewal (R172, R175, R178) -/

/-- The bytes of a response frame (R176). -/
def Response.bytes (r : Response) : List Byte := layFrame (BitVec.ofNat 8 r.status.code) r.tag r.payload

/-- The EMPTY frame: status EMPTY, tag 0, length 0, check 0xFF (R176). -/
def emptyFrame : List Byte := Response.bytes ⟨.empty, 0, []⟩

/-- The response formed for a command replaces any held response (R175). -/
def State.hold (s : State) (p : Port) (r : Response) : State := s.modPort p fun q => { q with held := some r }

/-- What the part drove on LINK DO in the transfer taken (R172). -/
def State.driveLink (s : State) (p : Port) (bytes : List Byte) : State := s.modPort p fun q => { q with linkOut := bytes }

/-- A command taken from a joined port reloads its lease timer with the lease period and takes GRACE to LIVE (R137). -/
def State.renew (s : State) (p : Port) : State :=
  if (s.port p).joined then s.modPort p fun r => { r with link := .live, lease := some s.config.leasePeriod } else s

/-- What a command's block answers: the state it leaves, the status and the payload (R175, R176). -/
structure Reply where
  state : State
  status : Status
  payload : List Byte
deriving DecidableEq, Repr

/-- A refusal: nothing changes in any block, no payload (R177, R176). -/
def State.refuse (s : State) (status : Status) : Reply := ⟨s, status, []⟩

/-- An accepted command. -/
def State.answer (s : State) (payload : List Byte) : Reply := ⟨s, .ok, payload⟩

/-! ### Free orders (log 1) -/

def insertRanked {α : Type} (rank : α → Nat) (x : α) : List α → List α
  | [] => [x]
  | y :: rest => if rank x < rank y then x :: y :: rest else y :: insertRanked rank x rest

/-- The items in the order of their ranks. -/
def rankSort {α : Type} (rank : α → Nat) : List α → List α
  | [] => []
  | x :: rest => insertRanked rank x (rankSort rank rest)

/-! ### The tap pool (R43, R48, R49) -/

/-- Put a segment number into an ascending list. -/
def insertSegment (x : Nat) : List Nat → List Nat
  | [] => [x]
  | y :: rest => if x < y then x :: y :: rest else if x = y then y :: rest else y :: insertSegment x rest

/-- The `n` lowest-numbered free segments leave the free set (R43). -/
def State.takeSegments (s : State) (n : Nat) : List Nat × State :=
  (s.pool.free.take n, s.setFree (s.pool.free.drop n))

/-- Segments return to the free set, every tap of them 0 (R43). -/
def State.returnSegments (s : State) (segments : List Nat) : State :=
  (s.setFree (segments.foldl (fun f x => insertSegment x f) s.pool.free)).setTaps (s.pool.taps.clearSegments segments)

/-- The comparison of the free count with the low-water mark (R48, R49). -/
def State.comparePool (s : State) : State :=
  let free := s.pool.free.length
  let mark := s.config.poolLowWater
  if free < mark ∧ s.pool.flag = .normal then
    (s.setFlag .low).broadcast ⟨.poolLow, none, [(free : Int), (mark : Int)]⟩
  else if mark + 16 ≤ free ∧ s.pool.flag = .low then
    (s.setFlag .normal).broadcast ⟨.poolRecovered, none, [(free : Int), (mark : Int)]⟩
  else s

/-! ### Calls -/

/-- TRAINING or TRACKING: the states in which a lessee opens and reconfigures its call. -/
def CallState.inCall : CallState → Bool
  | .training _ | .tracking => true
  | .vacant | .releasing | .orphaned | .stranded => false

/-- The channel is a call of the port, in TRAINING or TRACKING (R140 step 4). -/
def Channel.isCallOf (c : Channel) (p : Port) : Bool := c.lessee == some p && c.state.inCall

/-! ### The probe queue and the players (R9, R92, R93, R100, R101) -/

/-- Enter a state: the run counters clear at every change of state or phase (R75). -/
def Channel.enter (c : Channel) (st : CallState) : Channel := { c with state := st, goodRun := 0, badRun := 0 }

/-- The effects of every entry to QUEUED (R9): the channel joins the back of the probe queue, its training epochs are
0, proving and the rollback guard are removed. The grant follows at the end of the event (`State.grants`). A rollback
order of the channel is from now on one whose channel has left TRACKING (R85). -/
def State.enterQueued (s : State) (n : ChannelNo) : State :=
  (s.setProbeQueue (s.probeQueue ++ [n])).modChan n fun c =>
    { c.enter (.training .queued) with
      trainingEpochs := 0, proving := none, guard := none, player := none, rollback := c.rollback.map fun _ => false }

def State.leaveQueue (s : State) (n : ChannelNo) : State :=
  s.setProbeQueue (s.probeQueue.filter fun m => m ≠ n)

/-- A channel that holds a player frees it: the player goes IDLE and loses its fields (R91, R100). -/
def State.freePlayer (s : State) (n : ChannelNo) : State :=
  match (s.chan n).player with
  | some k => (s.setPlay k none).modChan n fun c => { c with player := none }
  | none => s

/-- The lowest-numbered IDLE player (R93). -/
def State.idlePlayer (s : State) : Option PlayerNo := allPlayers.find? fun k => decide (s.play k = none)

/-- How many candidate delays the locator keeps: from the near tap count to 4800 + far - 1 (R96). -/
def Profile.candidates (p : Profile) : Nat := 4800 + p.far - p.near

def LocatorSums.zero (candidates : Nat) : LocatorSums :=
  ⟨List.replicate candidates 0, List.replicate candidates 0, 0, 0⟩

/-- The fields of a player at the grant that starts a play (R93): pointer 0, previous sample 0, step 16, locator sums
zero if the channel has far taps. -/
def startPlay (n : ChannelNo) (p : Profile) : Play where
  channel := n
  sequence := p.sequence.getD 0
  pointer := 0
  remaining := (Config.directory (p.sequence.getD 0)).length
  previous := 0
  step := 16
  paused := false
  locator := if p.far = 0 then none else some ⟨.zero p.candidates, .zero p.candidates⟩

/-- One grant: the oldest queued channel takes the lowest-numbered IDLE player, if there are both (R93). -/
def State.grantOne (s : State) : State :=
  match s.probeQueue, s.idlePlayer with
  | n :: rest, some k =>
    ((s.setProbeQueue rest).setPlay k (some (startPlay n (s.chan n).profile))).modChan n fun c =>
      { c.enter (.training .probing) with player := some k }
  | _, _ => s

/-- Grants until no player is IDLE or the queue is empty (R93); there are four players. -/
def State.grants (s : State) : State := s.grantOne.grantOne.grantOne.grantOne

/-- What the end of every event does that may have changed the probe queue, the players or the free set since `s₀`:
grants (R93), and the comparison of the pool if the free count has changed (R48, R49). -/
def State.closeEvent (s₀ s : State) : State :=
  let s := s.grants
  if s.pool.free.length = s₀.pool.free.length then s else s.comparePool

/-! ### Snapshot records (R51 to R54) -/

def Channel.snapshot? (c : Channel) (id : Nat) : Option Snapshot := c.ring.find? fun r => r.id == id

def Channel.modSnapshot (c : Channel) (id : Nat) (f : Snapshot → Snapshot) : Channel :=
  { c with ring := c.ring.map fun r => if r.id = id then f r else r }

def Channel.dropSnapshot (c : Channel) (id : Nat) : Channel := { c with ring := c.ring.filter fun r => r.id ≠ id }

/-- A record leaves the ring and its segments return to the free set (R54, R59). -/
def State.removeSnapshot (s : State) (n : ChannelNo) (id : Nat) : State :=
  let segments := ((s.chan n).ring.filter fun r => r.id = id).flatMap (·.segments)
  (s.modChan n fun c => c.dropSnapshot id).returnSegments segments

/-! ### Mover orders: what they name, and how they end (R104, R105, R114, R116, R117, R119) -/

/-- The regions of an order; a CAPTURE and a RESTORE cover the whole set of their channel (R105, R109). -/
def Work.regions : Work → List Region
  | .copy source dest _ | .blend source dest _ => [source, dest]
  | .fill dest _ | .expand dest _ _ _ _ => [dest]
  | .capture n id => [⟨n, .live, .set, 0, 0⟩, ⟨n, .snapshot id, .set, 0, 0⟩]
  | .restore n id => [⟨n, .snapshot id, .set, 0, 0⟩, ⟨n, .live, .set, 0, 0⟩]

/-- The channel of the destination, or of a CAPTURE or RESTORE (R120). -/
def Work.channel : Work → ChannelNo
  | .copy _ dest _ | .blend _ dest _ | .fill dest _ | .expand dest _ _ _ _ => dest.channel
  | .capture n _ | .restore n _ => n

/-- The order touches the channel: a region names it, LIVE or snapshot (R119). -/
def Work.touches (w : Work) (n : ChannelNo) : Bool := w.regions.any fun r => r.channel == n

/-- The order reads or writes the channel's live taps (R65, R114). -/
def Work.touchesLive (w : Work) (n : ChannelNo) : Bool := w.regions.any fun r => r.channel == n && r.copy == .live

/-- The snapshot records the order names, each once (R53). -/
def Work.snapshots (w : Work) : List (ChannelNo × Nat) :=
  let named := w.regions.filterMap fun r =>
    match r.copy with
    | .snapshot id => some (r.channel, id)
    | .live => none
  match named with
  | [a, b] => if a = b then [a] else [a, b]
  | other => other

/-- The pin count of each record the order names goes up by one (R53). -/
def State.pin (s : State) (w : Work) : State :=
  w.snapshots.foldl (fun s r => s.modChan r.1 fun c => c.modSnapshot r.2 fun x => { x with pins := x.pins + 1 }) s

/-- The pin count of each record the order names falls by one (R53). -/
def State.unpin (s : State) (w : Work) : State :=
  w.snapshots.foldl (fun s r => s.modChan r.1 fun c => c.modSnapshot r.2 fun x => { x with pins := x.pins - 1 }) s

/-- The order in flight marks the channels whose live taps it reads or writes for the epoch it overlaps (R65, R114).
There is an epoch only while LOCKED (log 21). -/
def State.markHead (s : State) : State :=
  match s.mover with
  | [] => s
  | o :: _ =>
    if s.highway.sync = .locked then
      o.work.regions.foldl (fun s r =>
        if r.copy = .live then s.modChan r.channel fun c => { c with marks := { c.marks with mover := true } } else s) s
    else s

/-- An order joins the back of the mover queue and pins the records it names; into an empty queue, it is head at once
(R112, R113, R114). -/
def State.enqueue (s : State) (o : Order) : State :=
  let s := (s.setMover (s.mover ++ [o])).pin o.work
  if s.mover.length = 1 then s.markHead else s

inductive OrderEnd where
  | complete
  | cancelled
  | aborted
deriving DecidableEq, Repr

def OrderEnd.code : OrderEnd → Nat
  | .complete => 0
  | .cancelled => 1
  | .aborted => 2

/-- MOVE_DONE: status, order tag, kind, taps processed (R120). -/
def moveDone (o : Order) (how : OrderEnd) (taps : Nat) : Notice :=
  ⟨.moveDone, some o.work.channel, [(how.code : Int), (o.tag.toNat : Int), (o.work.code : Int), (taps : Int)]⟩

/-- The engine drops its record of a rollback order that ends (R85). -/
def State.dropRollback (s : State) (o : Order) : State :=
  if o.rollback then s.modChan o.work.channel fun c => { c with rollback := none } else s

/-- The records an order names when it ends before completion (R117 steps 1 and 2): a CAPTURE's record is discarded,
other records are unpinned. -/
def State.giveUp (s : State) (w : Work) : State :=
  match w with
  | .capture n id => s.removeSnapshot n id
  | .copy .. | .fill .. | .expand .. | .blend .. | .restore .. => s.unpin w

/-- What the cancel or the abort of an order does, the order having left the queue (R117 steps 1 to 4): the records it
names, a rollback order forgotten, MOVE_DONE raised. The comparison of the pool that a discarded CAPTURE calls for
comes at the end of the event, after MOVE_DONE: the model's choice (log 31). -/
def State.endEarly (how : OrderEnd) (s : State) (o : Order) : State :=
  ((s.giveUp o.work).dropRollback o).notify o.port (moveDone o how o.progress)

/-- Every order that `which` names is aborted, from the head backward (R119); the head is then the first order left
(R114). -/
def State.abortOrders (s : State) (which : Order → Bool) : State :=
  ((s.mover.filter which).foldl (State.endEarly .aborted) (s.setMover (s.mover.filter fun o => !which o))).markHead

/-- What the completion of an order writes (R109, R116 step 1): a CAPTURE's record takes the far window and becomes
READY, a RESTORE writes the far window. -/
def State.finishWork (s : State) (w : Work) : State :=
  match w with
  | .capture n id =>
    s.modChan n fun c => c.modSnapshot id fun r => { r with window := c.window, ready := true }
  | .restore n id =>
    s.modChan n fun c => { c with window := ((c.snapshot? id).map Snapshot.window).getD c.window }
  | .copy .. | .fill .. | .expand .. | .blend .. => s

/-- The completion of a rollback order sets the guard if its channel has stayed in TRACKING since the enqueue (R85). -/
def State.setGuard (s : State) (o : Order) : State :=
  let c := s.chan o.work.channel
  if o.rollback ∧ c.rollback = some true ∧ c.state = .tracking then
    s.modChan o.work.channel fun c => { c with guard := some 100 }
  else s

/-- The completion of an order that has left the queue (R116 steps 1 to 4). -/
def State.endComplete (s : State) (o : Order) : State :=
  ((((s.finishWork o.work).unpin o.work).setGuard o).dropRollback o).notify o.port (moveDone o .complete o.total)

/-- The order at the head completes and leaves the queue, and the next order becomes head (R116). -/
def State.completeHead (s : State) : State :=
  match s.mover with
  | [] => s
  | o :: rest => ((s.setMover rest).endComplete o).markHead

/-! ### The route cache (R123 to R125, R131, R132) -/

inductive EvictReason where
  | claimed
  | replaced
  | full
  | aged
  | purged
deriving DecidableEq, Repr

def EvictReason.code : EvictReason → Nat
  | .claimed => 0
  | .replaced => 1
  | .full => 2
  | .aged => 3
  | .purged => 4

/-- The entry under a route tag. -/
def State.cacheEntry? (s : State) (tag : Nat) : Option CacheEntry := s.cache.find? fun e => e.routeTag == tag

/-- Every entry's segments together. -/
def State.cacheSegments (s : State) : Nat := (s.cache.map fun e => e.segments.length).sum

/-- An entry leaves the cache, its segments return to the free set, CACHE_EVICTED is raised (R132). -/
def State.evict (reason : EvictReason) (s : State) (e : CacheEntry) : State :=
  let s := (s.setCache (s.cache.filter fun x => x.routeTag ≠ e.routeTag)).returnSegments e.segments
  s.broadcast ⟨.cacheEvicted, none,
    [(reason.code : Int), (e.routeTag : Int), (e.segments.length : Int), (s.cache.length : Int)]⟩

/-- The park counter goes up by one, wrapping from its largest value to 0 and then to 1 (R124; log 18). -/
def nextParkNumber (counter : Word32) : Word32 := if counter + 1 = 0 then 1 else counter + 1

/-- Replacement: an entry with the tag leaves the cache (R125 step 1). -/
def State.evictSame (s : State) (tag : Nat) : State :=
  match s.cacheEntry? tag with
  | some old => s.evict .replaced old
  | none => s

/-- Room: in a full cache the oldest-parked entry leaves (R125 step 2). -/
def State.makeRoom (s : State) : State :=
  match s.cache with
  | oldest :: _ => if 16 ≤ s.cache.length then s.evict .full oldest else s
  | [] => s

/-- The entry that a parking channel becomes (R125 step 3). -/
def Channel.cacheEntry (c : Channel) (number now : Word32) : CacheEntry where
  routeTag := c.policy.routeTag
  near := c.profile.near
  far := c.profile.far
  eq := c.profile.eq
  window := c.window
  segments := c.live
  figure := (c.measured.map Measurements.figure).getD 0
  parkNumber := number
  parkTime := now

/-- New entry, at the newest end, with the next park number (R124, R125 step 3). -/
def State.addEntry (s : State) (c : Channel) : State :=
  let number := nextParkNumber s.parkCounter
  { s with parkCounter := number, cache := s.cache ++ [c.cacheEntry number s.timebase] }

/-- The live set of a channel becomes a cache entry: replacement, room, new entry (R125). -/
def State.park (s : State) (n : ChannelNo) : State :=
  ((s.evictSame (s.chan n).policy.routeTag).makeRoom).addEntry (s.chan n)

/-! ### Becoming VACANT (R25) -/

/-- Steps 1 to 4 of R25: every order that touches the channel is aborted; it leaves the probe queue or frees its
player; it parks, or its live segments return to the free set, and so do those of every snapshot record; the record
takes the values of Table 1-2. The notice of step 5 is the cause's. -/
def State.vacate (s : State) (n : ChannelNo) (park : Bool) : State :=
  let s := ((s.abortOrders fun o => o.work.touches n).leaveQueue n).freePlayer n
  let c := s.chan n
  let s := if park then s.park n else s.returnSegments c.live
  (s.returnSegments (c.ring.flatMap (·.segments))).modChan n fun _ => .vacant

/-- The release of a channel completes: it becomes VACANT, parked or freed as decided at RELEASE (R18, R19). -/
def State.completeRelease (s : State) (n : ChannelNo) : State :=
  s.vacate n ((s.chan n).parkEligible == some true)

/-! ### Loss of sync (R33) -/

inductive SyncCause where
  | missing
  | misplaced
  | noClock
deriving DecidableEq, Repr

def SyncCause.code : SyncCause → Nat
  | .missing => 0
  | .misplaced => 1
  | .noClock => 2

/-- What a channel's part of the Highway Interface loses at an entry to HUNTING: histories, sums and what the partial
epoch had shown (R28, R33, R37). That the marks go with the partial epoch is the model's choice (log 21). -/
def Channel.loseSync (c : Channel) : Channel :=
  { c with reference := [], residuals := [], sums := .zero, marks := .clear }

/-- The current epoch's locator sums are set to zero without being added (R96). -/
def Play.dropEpochSums (p : Play) : Play :=
  { p with locator := p.locator.map fun l => { l with epoch := .zero l.epoch.correlation.length } }

/-- The highway goes from LOCKED to HUNTING (R33). The fault count, to which R32 gives a meaning only while LOCKED, is
0 in HUNTING: the model's choice (log 30). -/
def State.loseSync (s : State) (cause : SyncCause) : State :=
  let discarded := s.highway.epochFrames
  let s := s.modAllChannels Channel.loseSync
  let s := s.modAllPlays Play.dropEpochSums
  let s := s.modHighway fun h =>
    { h with sync := .hunting, faultCount := 0, runCount := 0, runReference := false, huntStart := s.timebase,
             epochFrames := 0, lineOut := Vector.replicate 48 0, pumpOut := Vector.replicate 48 0 }
  s.broadcast ⟨.syncLost, none, [(discarded : Int), (cause.code : Int)] ++ halves s.highway.epochCounter⟩

end Sys2Proof.Machine
end

