-- ==== Sys2Proof/Machine/Engine.lean ====
section
/-! DEFINITION. The Adaptation Engine's work for one channel at an epoch end (R61 to R86), and the Level Supervisor's
(R156 to R161).

`s₀` is the state at the beginning of the epoch end: it holds the sums and the marks of the epoch that ends, and the
level status and the guard as they stood before any block's work at it, so that the outcome does not depend on which
block's work is taken first (R65, R66, R85). -/

namespace Sys2Proof.Machine

/-- What a channel is handed at the epoch end (R37, R62): in STRANDED the receive level, echo estimate level -70 and
figure 0 (log 19). -/
def Channel.handed (c : Channel) : Option Measurements :=
  c.sums.measurements.map fun m => if c.state = .stranded then { m with estimate := -70, figure := 0 } else m

/-- The measurements handed replace the measurements field (R62). -/
def Channel.record (handed : Option Measurements) (c : Channel) : Channel :=
  { c with measured := if handed.isSome then handed else c.measured }

/-- The channel is in an adapting state now (R63). -/
def State.adaptingNow (s : State) (n : ChannelNo) : Bool :=
  let c := s.chan n
  match c.state with
  | .training .probing => (c.player.bind s.play).any fun p => !p.paused
  | .training .settling | .training .stalled | .tracking => true
  | .training .queued | .vacant | .releasing | .orphaned | .stranded => false

/-- The contention detector (R69) with the notice of a rise (R70). -/
def State.detect (s : State) (n : ChannelNo) (handed : Option Measurements) : State :=
  let c := s.chan n
  if c.state = .tracking then
    match handed with
    | none => s
    | some m =>
      if contentionResult s.config.contentionMargin m then
        let s' := s.modChan n fun c => { c with contentionLive := true, hangover := 4 }
        if c.contentionLive then s'
        else s'.notifyLessee c.lessee ⟨.contention, some n, [m.receive, m.estimate]⟩
      else s.modChan n fun c => { c with contentionLive := false, hangover := c.hangover - 1 }
  else s.modChan n fun c => { c with contentionLive := false, hangover := 0 }

/-- The level status the Level Supervisor's judgment at this epoch end leaves (R66, R156). -/
def Channel.levelAfter (cfg : SharedConfig) (c : Channel) : LevelRecord :=
  match c.handed with
  | some m => c.level.judge cfg c.policy.lossCode m.receive
  | none => c.level

/-- The freeze reasons of the epoch (R64 to R66). The level status at the start of the epoch (LOSS) and the mark that a
frame found the player PAUSED (PAUSE) are read from the channel as the epoch end finds it, and becoming VACANT clears both;
that a call attached within the epoch so shows neither LOSS nor PAUSE of the call before it is the model's choice (log 33).
MOVER is likewise read from a mark that becoming VACANT clears (log 21). -/
def Channel.freezeReasons (cfg : SharedConfig) (c : Channel) : FreezeSet where
  contention := c.policy.mode == .auto && c.state == .tracking
    && (c.handed.any (contentionResult cfg.contentionMargin) || decide (0 < c.hangover))
  budget := c.policy.mode == .manual && c.budget == 0
  mover := c.marks.mover
  loss := c.level.status == .loss || (c.levelAfter cfg).status == .loss
  pause := c.marks.paused

/-- The step exponent of an update: fast in PROBING and SETTLING, tracking in STALLED and TRACKING (R68). -/
def stepExponent (cfg : SharedConfig) : CallState → Nat
  | .training .probing | .training .settling => cfg.fastStep
  | .training .queued | .training .stalled | .tracking | .vacant | .releasing | .orphaned | .stranded => cfg.trackingStep

/-- The pairs of R67 for a reference `d` samples old: frame by frame of the epoch, newest first, the residual and the
reference `d` samples older than the frame's own. -/
def Channel.referencePairs (c : Channel) (d : Nat) : List (Sample × Sample) :=
  (List.range 80).map fun f => (c.residuals.getD f 0, c.reference.getD (f + d) 0)

/-- The pairs of R67 for a residual `d` samples old. -/
def Channel.residualPairs (c : Channel) (d : Nat) : List (Sample × Sample) :=
  (List.range 80).map fun f => (c.residuals.getD f 0, c.residuals.getD (f + d) 0)

/-- The update of a channel's live taps (R67): near taps, far taps while the window is active, equalizer taps but the
centre tap eq/2. -/
def State.updateTaps (s : State) (n : ChannelNo) : State :=
  let c := s.chan n
  let exponent := stepExponent s.config c.state
  let s₁ := s.writeLive n .near (List.range c.profile.near) fun i =>
    stepTap (s.tap n .live .near i) (correctionOfPairs (c.referencePairs i)) exponent
  let s₂ := if c.window.active then
      s₁.writeLive n .far (List.range c.profile.far) fun i =>
        stepTap (s.tap n .live .far i) (correctionOfPairs (c.referencePairs (c.window.start + i))) exponent
    else s₁
  let centre := c.profile.eq / 2
  s₂.writeLive n .equal ((List.range c.profile.eq).filter fun j => j ≠ centre) fun j =>
    stepTap (s.tap n .live .equal j) (-(correctionOfPairs (c.residualPairs ((j : Int) - centre).natAbs))) exponent

/-- A MANUAL channel spends one of its budget at the end of an update epoch; BUDGET_SPENT when that brings it to 0
(R73). -/
def State.spendBudget (s : State) (n : ChannelNo) : State :=
  let c := s.chan n
  if c.policy.mode = .manual then
    let s' := s.modChan n fun c => { c with budget := c.budget - 1 }
    if c.budget = 1 then s'.notifyLessee c.lessee ⟨.budgetSpent, some n, []⟩ else s'
  else s

/-- The run counters move on the figure of an update epoch (R74). -/
def Channel.countRuns (threshold figure : Int) (c : Channel) : Channel :=
  { c with goodRun := (moveRuns threshold figure c.goodRun c.badRun).1
           badRun := (moveRuns threshold figure c.goodRun c.badRun).2 }

/-- The rollback guard goes down by one and is removed at 0 (R86). -/
def countGuard : Option Nat → Option Nat
  | some g => if g ≤ 1 then none else some (g - 1)
  | none => none

/-- Step 6 of R61: training epochs (R76), proving (R79), the guard, unless it has been set at this epoch end (R85,
R86). `guard₀` is the guard at the beginning of the epoch end. -/
def Channel.countEpoch (guard₀ : Option Nat) (c : Channel) : Channel :=
  match c.state with
  | .training .probing | .training .settling => { c with trainingEpochs := min 3000 (c.trainingEpochs + 1) }
  | .tracking =>
    { c with proving := c.proving.map fun p => p - 1, guard := if c.guard = guard₀ then countGuard c.guard else c.guard }
  | .training .queued | .training .stalled | .vacant | .releasing | .orphaned | .stranded => c

inductive Divergence where
  | stayed
  | retrained
  | rolledBack
deriving DecidableEq, Repr

def Divergence.code : Divergence → Nat
  | .stayed => 0
  | .retrained => 1
  | .rolledBack => 2

/-- The convergence figure of the channel's measurements, or 0 if it was never measured. -/
def Channel.figure (c : Channel) : Int := (c.measured.map Measurements.figure).getD 0

/-- The newest READY record of the ring (R51). -/
def Channel.newestReady (c : Channel) : Option Snapshot := c.ring.reverse.find? Snapshot.ready

/-- A divergence's retraining: to QUEUED with taps and far window kept (R83). -/
def State.retrainDiverged (s : State) (n : ChannelNo) : State :=
  let c := s.chan n
  (s.enterQueued n).notifyLessee c.lessee ⟨.diverged, some n, [(Divergence.retrained.code : Int), c.figure, 0]⟩

/-- The rollback order: an internal RESTORE from a READY record, its tag the channel number (R84 case 3, R85). -/
def rollbackOrder (n : ChannelNo) (p : Port) (c : Channel) (r : Snapshot) : Order where
  tag := BitVec.ofNat 8 n.val
  port := p
  origin := .internal
  rollback := true
  work := .restore n r.id
  total := c.profile.setTaps
  progress := 0

/-- A channel in TRACKING has diverged: its recovery policy acts, and DIVERGED is raised (R82 to R84); the run counters
clear also where it stays in TRACKING (R75). -/
def State.diverge (s : State) (n : ChannelNo) : State :=
  let c := s.chan n
  match c.policy.recovery with
  | .stay =>
    (s.modChan n fun c => { c with goodRun := 0, badRun := 0 }).notifyLessee c.lessee
      ⟨.diverged, some n, [(Divergence.stayed.code : Int), c.figure, 0]⟩
  | .retrain => s.retrainDiverged n
  | .rollback =>
    if c.guard.isSome || c.rollback.isSome then s.retrainDiverged n
    else
      match c.newestReady, c.lessee with
      | some r, some p =>
        if s.mover.length < 16 then
          ((s.modChan n fun c => { c with goodRun := 0, badRun := 0, rollback := some true }).enqueue (rollbackOrder n p c r)).notifyLessee
            c.lessee ⟨.diverged, some n, [(Divergence.rolledBack.code : Int), c.figure, (r.id : Int)]⟩
        else s.retrainDiverged n
      | _, _ => s.retrainDiverged n

/-- A training channel whose good run has reached 8 converges (R77). -/
def State.converge (s : State) (n : ChannelNo) : State :=
  let c := s.chan n
  (s.modChan n fun c => c.enter .tracking).notifyLessee c.lessee
    ⟨.converged, some n, [c.figure, (c.trainingEpochs : Int)]⟩

/-- A SETTLING channel at the training limit stalls (R78). -/
def State.stall (s : State) (n : ChannelNo) : State :=
  let c := s.chan n
  (s.modChan n fun c => c.enter (.training .stalled)).notifyLessee c.lessee
    ⟨.trainStalled, some n, [(c.trainingEpochs : Int), c.figure]⟩

/-- The judgment of proving at an epoch end, proving remaining having gone down (R79, R80). -/
def State.judgeProving (s : State) (n : ChannelNo) : State :=
  let c := s.chan n
  if 8 ≤ c.goodRun then
    (s.modChan n fun c => { c with proving := none }).notifyLessee c.lessee ⟨.proving, some n, [0, c.figure]⟩
  else if c.proving = some 0 then
    (s.enterQueued n).notifyLessee c.lessee ⟨.proving, some n, [1, c.figure]⟩
  else s

/-- Step 7 of R61: convergence, stall, proving and divergence (R77 to R85). -/
def State.judgeChannel (s : State) (n : ChannelNo) : State :=
  let c := s.chan n
  match c.state with
  | .training .settling =>
    if 8 ≤ c.goodRun then s.converge n
    else if s.config.trainingLimit ≤ c.trainingEpochs then s.stall n
    else s
  | .training .stalled => if 8 ≤ c.goodRun then s.converge n else s
  | .tracking =>
    if c.proving.isSome then s.judgeProving n
    else if 16 ≤ c.badRun then s.diverge n
    else s
  | .training .queued | .training .probing | .vacant | .releasing | .orphaned | .stranded => s

/-- Whether the epoch is an update epoch of the channel (R63): measured, adapting throughout, no freeze reason, and in
an adapting state now. `c₀` is the channel at the beginning of the epoch end. -/
def State.updateEpoch (s : State) (c₀ : Channel) (n : ChannelNo) : Bool :=
  c₀.handed.isSome && c₀.marks.adapting == 80 && c₀.freezeReasons s.config == .empty && s.adaptingNow n

/-- Steps 4 and 5 of R61: in an update epoch the taps move, a MANUAL channel spends budget, the run counters move. -/
def State.adaptChannel (s : State) (c₀ : Channel) (n : ChannelNo) : State :=
  if s.updateEpoch c₀ n then
    ((s.updateTaps n).spendBudget n).modChan n fun c => c.countRuns s.config.convergence c.figure
  else s

/-- The Adaptation Engine's work for one channel at an epoch end (R61). -/
def State.engineWork (s₀ s : State) (n : ChannelNo) : State :=
  let c₀ := s₀.chan n
  match c₀.state with
  | .vacant => s
  | .stranded => s.modChan n (Channel.record c₀.handed)
  | .training _ | .tracking | .releasing | .orphaned =>
    let s := s.modChan n (Channel.record c₀.handed)
    let s := s.detect n c₀.handed
    let s := s.modChan n fun c => { c with freeze := c₀.freezeReasons s₀.config }
    let s := s.adaptChannel c₀ n
    let s := s.modChan n (Channel.countEpoch c₀.guard)
    s.judgeChannel n

/-- The Level Supervisor's work for one channel at an epoch end: the judgment, and LEVEL to the lessee when the status
changes (R156, R161). -/
def State.levelWork (s₀ s : State) (n : ChannelNo) : State :=
  let c₀ := s₀.chan n
  match c₀.state, c₀.handed with
  | .vacant, _ | _, none => s
  | _, some m =>
    let after := c₀.levelAfter s₀.config
    let s := s.modChan n fun c => { c with level := after }
    if after.status = c₀.level.status then s
    else s.notifyLessee (s.chan n).lessee
      ⟨.level, some n, [(after.status.code : Int), (c₀.level.status.code : Int), m.receive]⟩

end Sys2Proof.Machine
end

