-- ==== Sys2Proof/Machine/MoverWork.lean ====
section
/-! DEFINITION. The Tap Mover's work on taps: what each kind of order does for one offset (R106 to R110), and the
advance of the order in flight (R115). -/

namespace Sys2Proof.Machine

/-- The address of the tap at an offset of a region (R105). -/
def State.regionTap (s : State) (r : Region) (offset : Nat) : Option Nat :=
  let c := s.chan r.channel
  tapAddress c.profile (c.copySegments r.copy) r.bank (r.first + offset)

/-- What the order writes at an offset, none where the tap is not written: from the source tap and the destination
tap at that offset (R106 to R109). -/
def Work.value (w : Work) (offset : Nat) (source dest : Tap) : Option Tap :=
  match w with
  | .copy _ _ keyed => if keyed ∧ source = 0 then none else some source
  | .fill _ value => some value
  | .expand _ mask fore back transparent =>
    if mask.getLsbD (offset % 32) then some fore else if transparent then none else some back
  | .blend _ _ weight => some (roundDiv (weight * source + (8 - weight) * dest) 8)
  | .capture .. | .restore .. => some source

/-- The source and destination regions of an order; an order without a source has none. -/
def Work.source? (w : Work) : Option Region :=
  match w with
  | .copy source _ _ | .blend source _ _ => some source
  | .fill .. | .expand .. => none
  | .capture n _ => some ⟨n, .live, .set, 0, 0⟩
  | .restore n id => some ⟨n, .snapshot id, .set, 0, 0⟩

def Work.dest (w : Work) : Region :=
  match w with
  | .copy _ dest _ | .blend _ dest _ | .fill dest _ | .expand dest _ _ _ _ => dest
  | .capture n id => ⟨n, .snapshot id, .set, 0, 0⟩
  | .restore n _ => ⟨n, .live, .set, 0, 0⟩

/-- One offset of an order: the source tap and the destination tap are read, then the destination tap is written
(R110). -/
def State.moveOffset (w : Work) (s : State) (offset : Nat) : State :=
  let source := (w.source?.map fun r => s.pool.taps.readAt (s.regionTap r offset)).getD 0
  let at_ := s.regionTap w.dest offset
  match w.value offset source (s.pool.taps.readAt at_) with
  | some v => s.setTaps (s.pool.taps.writeAt at_ v)
  | none => s

/-- The Tap Mover's work at an epoch end (R115): the order in flight processes its next 256 offsets, or all that
remain; if its progress reaches its total it completes in the same event. -/
def State.advanceHead (s : State) : State :=
  match s.mover with
  | [] => s
  | o :: rest =>
    let count := min 256 (o.total - o.progress)
    let s := (List.range count).foldl (fun s i => s.moveOffset o.work (o.progress + i)) s
    let o := { o with progress := o.progress + count }
    let s := s.setMover (o :: rest)
    if o.total ≤ o.progress then s.completeHead else s

end Sys2Proof.Machine
end

