-- ==== Sys2Proof/Machine/Play.lean ====
section
/-! DEFINITION. The probe players' work: playing a code in a frame, the locator, and the end of play (R89 to R97). -/

namespace Sys2Proof.Machine

/-- Whether the player is PLAYING; it is PAUSED otherwise (R91). -/
def Play.playing (p : Play) : Bool := !p.paused

/-- The code at the play's pointer in its sequence (R89, R94): a 4-bit two's complement value. -/
def Play.code (p : Play) : Int := (Config.storeCode ((Config.directory p.sequence).start + p.pointer)).toInt

/-- A PLAYING player plays one code: the probe sample, and the player after it (R90, R94). -/
def Play.playCode (p : Play) : Sample × Play :=
  let (sample, step) := decodeCode p.code p.previous p.step
  (sample, { p with previous := sample, step, pointer := p.pointer + 1, remaining := p.remaining - 1 })

/-- The frame's share of the locator sums (R96, R97): for each candidate delay from the near tap count up, Line-in times
the reference that many samples old; the energies beside them. `reference` begins with the reference of the frame. -/
def LocatorSums.add (sums : LocatorSums) (near : Nat) (reference : List Sample) (lineIn probe : Sample) : LocatorSums where
  correlation := sums.correlation.zipIdx.map fun (c, i) => c + lineIn * reference.getD (near + i) 0
  reference := sums.reference.zipIdx.map fun (x, i) => x + (reference.getD (near + i) 0).natAbs ^ 2
  line := sums.line + lineIn.natAbs ^ 2
  probe := sums.probe + probe.natAbs ^ 2

/-- The locator takes a frame in which the player is PLAYING (R96). -/
def Play.locate (p : Play) (near : Nat) (reference : List Sample) (lineIn probe : Sample) : Play :=
  { p with locator := p.locator.map fun l => { l with epoch := l.epoch.add near reference lineIn probe } }

/-- The epoch's sums are added into the running sums and set to zero (R96). -/
def Locator.takeEpoch (l : Locator) : Locator where
  running := { correlation := List.zipWith (· + ·) l.running.correlation l.epoch.correlation
               reference := List.zipWith (· + ·) l.running.reference l.epoch.reference
               line := l.running.line + l.epoch.line
               probe := l.running.probe + l.epoch.probe }
  epoch := .zero l.epoch.correlation.length

/-- The Probe Players' work at an epoch end for one player (R96). -/
def Play.takeEpoch (p : Play) : Play := { p with locator := p.locator.map Locator.takeEpoch }

/-- The peak level of a candidate: `10 × log10 (C² / (X × P))`, rounded, in -70..0; -70 when C, X or P is 0 (R97). -/
def peakLevel (c : Int) (x p : Nat) : Int := if x * p = 0 then -70 else dbLevel (-70) 70 (c.natAbs ^ 2) (x * p)

/-- The candidate with the highest peak level, and of several with the same level the one with the shortest delay
(R97): its place among the candidates and its level. -/
def LocatorSums.peak (sums : LocatorSums) : Nat × Int :=
  (List.zip sums.correlation sums.reference).zipIdx.foldl
    (fun best ((c, x), i) =>
      let level := peakLevel c x sums.probe
      if best.2 < level then (i, level) else best)
    (0, -70)

/-- The locator's finding applied to the channel's far window and far taps (R97). -/
def State.applyFinding (s : State) (n : ChannelNo) (sums : LocatorSums) : State :=
  let c := s.chan n
  let (place, level) := sums.peak
  if s.config.farFloor ≤ level then
    let start := (clamp 0 4800 ((c.profile.near + place : Nat) - (c.profile.far / 4 : Nat))).toNat
    let s := if c.window.active ∧ c.window.start = start then s
      else s.writeLive n .far (List.range c.profile.far) fun _ => 0
    s.modChan n fun c => { c with window := ⟨start, true⟩ }
  else
    (s.writeLive n .far (List.range c.profile.far) fun _ => 0).modChan n fun c =>
      { c with window := { c.window with active := false } }

/-- Whether a player has played the last code of its sequence and its end of play is still to be taken (R95; log 6). -/
def Play.ended (p : Play) : Bool := p.remaining == 0

/-- The end of play of a player that has played its last code (R95): the finding, if the channel has far taps; the
player goes IDLE and the channel to SETTLING; the player is granted anew. It is nothing where no play has ended
(log 5). -/
def State.endOfPlay (s : State) (k : PlayerNo) : State :=
  match s.play k with
  | some play =>
    if play.ended then
      let n := play.channel
      let s := match play.locator with
        | some l => s.applyFinding n l.takeEpoch.running
        | none => s
      let s := (s.setPlay k none).modChan n fun c => { c.enter (.training .settling) with player := none }
      s.grants
    else s
  | none => s

end Sys2Proof.Machine
end

