-- ==== Sys2Proof/Machine/Epoch.lean ====
section
/-! DEFINITION. The epoch end as a whole (R36): every block's work, in an order the manual leaves open, and what is due
before any other command is taken. -/

namespace Sys2Proof.Machine

/-- A piece of a block's work at an epoch end. -/
inductive EpochWork where
  | engine (channel : ChannelNo)
  | level (channel : ChannelNo)
  | players
  | mover
deriving DecidableEq, Repr

def EpochWork.code : EpochWork → Nat
  | .engine n => n.val
  | .level n => 48 + n.val
  | .players => 96
  | .mover => 97

/-- The Probe Players' work at an epoch end: every player takes its epoch's locator sums (R96). -/
def State.playersWork (s : State) : State :=
  s.modAllPlays Play.takeEpoch

/-- The Tap Mover's work at an epoch end: the order in flight advances, unless it became head at this same epoch end
(R115). Only the engine enqueues orders at an epoch end, so the head is an older order where the queue of the epoch
end's beginning was not empty. -/
def State.moverWork (s₀ s : State) : State := if s₀.mover = [] then s else s.advanceHead

def State.runWork (s₀ s : State) : EpochWork → State
  | .engine n => s₀.engineWork s n
  | .level n => s₀.levelWork s n
  | .players => s.playersWork
  | .mover => s₀.moverWork s

/-- The work to be done at an epoch end: for every channel not VACANT the engine's and the supervisor's, the players',
the mover's. -/
def State.epochWorks (s : State) : List EpochWork :=
  let calls := allChannels.filter fun n => decide ((s.chan n).state ≠ .vacant)
  calls.map .engine ++ calls.map .level ++ [.players, .mover]

/-- The epoch end with the blocks' work done in a given order (R36): the counts move, the work is done on the sums of
the epoch, the sums and marks are cleared for the next epoch, and the order in flight overlaps that epoch (R114). -/
def State.epochEndIn (works : List EpochWork) (s : State) : State :=
  let opened := s.modHighway fun h => { h with epochFrames := 0, epochCounter := h.epochCounter + 1 }
  let cleared := (works.foldl s.runWork opened).modAllChannels fun c => { c with sums := .zero, marks := .clear }
  s.closeEvent cleared.markHead

/-- The epoch end, the order of the works a free value (log 1). -/
def State.epochEnd (s : State) : State :=
  State.epochEndIn (rankSort (fun w => Config.freeRank s.freeIndex w.code) s.epochWorks) s.spendFree

/-- 80 LOCKED frames have been formed since the last epoch end or lock, and their epoch end is still to be taken (R36;
log 6). -/
def State.epochDue (s : State) : Bool := s.highway.sync == .locked && decide (80 ≤ s.highway.epochFrames)

/-- What comes before every other command (log 6): the ends of play of the last frame, then the epoch end (R95). -/
def State.settle (s : State) : State :=
  let s := allPlayers.foldl State.endOfPlay s
  if s.epochDue then s.epochEnd else s

end Sys2Proof.Machine
end

