-- ==== Sys2Proof/Machine/Link.lean ====
section
/-! DEFINITION. The Command Link Interface: how a command is accepted, renewed and answered (R175 to R178), the checks
of a channel command (R10), and the commands that are no command of Table 11-1: UNKNOWN_COMMAND, BAD_FRAME,
READ_TRANSFER. -/

namespace Sys2Proof.Machine

/-- What LINK DO carries in a command transfer: 0xFF in every byte (R172); a frame with `params` parameter bytes has
four bytes more (R173). -/
def commandEcho (params : List Byte) : List Byte := List.replicate (params.length + 4) 0xFF

/-- What the part does with any transfer that is a command frame, before the command: what is due is taken first (log
6), and LINK DO has carried 0xFF. -/
def State.beginCommand (s : State) (p : Port) (params : List Byte) : State :=
  s.settle.driveLink p (commandEcho params)

/-- The end of a command taken from a joined port: the lease is renewed after the block has acted, and the response is
held (R175, R178). -/
def Reply.finish (r : Reply) (p : Port) (tag : Byte) : State :=
  (r.state.renew p).hold p ⟨r.status, tag, r.payload⟩

/-- A command other than JOIN, LEAVE and RESET_PART: refused NOT_JOINED from a port in ABSENT (R177 step 2), otherwise
carried out by its block, `act`. -/
def takeCommand (p : Port) (tag : Byte) (params : List Byte) (act : State → Reply) (s : State) : State :=
  let s := s.beginCommand p params
  if (s.port p).joined then (act s).finish p tag else s.hold p ⟨.notJoined, tag, []⟩

/-- A command whose parameters are read by `parse`: bytes of the wrong number are refused BAD_PARAM (R177 step 3). -/
def withParams {α : Type} (parse : List Byte → Option α) (params : List Byte) (act : α → State → Reply) (s : State) :
    Reply :=
  match parse params with
  | none => s.refuse .badParam
  | some a => act a s

/-- A command that names one channel: a number above 47 is refused BAD_CHANNEL (R10 step 1). -/
def withChannel (n : Nat) (act : ChannelNo → State → Reply) (s : State) : Reply :=
  match channelOf n with
  | none => s.refuse .badChannel
  | some c => act c s

/-- A lessee command: WRONG_STATE on a channel without a lessee, NOT_LESSEE where another port is the lessee (R10 step
5). -/
def withLessee (p : Port) (n : Nat) (act : ChannelNo → State → Reply) (s : State) : Reply :=
  withChannel n (fun c s =>
    match (s.chan c).lessee with
    | none => s.refuse .wrongState
    | some q => if q = p then act c s else s.refuse .notLessee) s

/-- UNKNOWN_COMMAND (R177 step 1): a code that is not in Table 11-1 is answered UNKNOWN_COMMAND from a port in any
state, and from a joined port the lease is renewed (R178). With a code of the table, or 0x00, there is no such event
(log 5). -/
def execUnknownCommand (p : Port) (code tag : Byte) (params : List Byte) (s : State) :
    Host.Outcome State Fault Refusal :=
  if codeInTable code ∨ code = 0 then .next s
  else .next ((s.beginCommand p params).refuse .unknownCommand |>.finish p tag)

/-- BAD_FRAME (R174): the frame is discarded, nothing is renewed, and a BAD_FRAME response with the tag echo of byte 1,
or 0, replaces the held response. A transfer that is no bad command transfer is no such event (log 5). -/
def execBadFrame (p : Port) (bytes : List Byte) (stray : Bool) (s : State) : Host.Outcome State Fault Refusal :=
  if isBadTransfer bytes stray then
    .next ((s.driveLink p (List.replicate bytes.length 0xFF)).hold p ⟨.badFrame, bytes.getD 1 0, []⟩)
  else .next s

/-- READ_TRANSFER (R176): LINK DO carries the held response, or the EMPTY frame, and 0x00 beyond its end; when the
whole frame was clocked out the held response becomes none. A transfer with no whole byte is ignored (R172). -/
def execReadTransfer (p : Port) (clocked : Nat) (s : State) : Host.Outcome State Fault Refusal :=
  if clocked = 0 then .next s
  else
    match (s.port p).held with
    | none => .next (s.driveLink p ((emptyFrame ++ List.replicate clocked 0).take clocked))
    | some r =>
      let s := s.driveLink p ((r.bytes ++ List.replicate clocked 0).take clocked)
      if r.bytes.length ≤ clocked then .next (s.modPort p fun q => { q with held := none }) else .next s

end Sys2Proof.Machine
end

