-- ==== Sys2Proof/Machine/Adaptation.lean ====
section
/-! DEFINITION. ADAPT, the manual budget's command (R72). The engine's own work stands in Engine.lean. -/

namespace Sys2Proof.Machine

/-- ADAPT on a channel by its lessee: the manual budget is set, the response gives what it was. It is taken in every
leased state, RELEASING included (R72); every 16-bit count is in range. -/
def adaptChannelBudget (count : Nat) (n : ChannelNo) (s : State) : Reply :=
  (s.modChan n fun c => { c with budget := count }).answer (enc2 (s.chan n).budget)

def adaptAct (p : Port) (params : List Byte) (s : State) : Reply :=
  withParams parseChannelWord params (fun a s => withLessee p a.1 (adaptChannelBudget a.2) s) s

def execAdapt (p : Port) (tag : Byte) (params : List Byte) (s : State) : Host.Outcome State Fault Refusal :=
  .next (takeCommand p tag params (adaptAct p params) s)

end Sys2Proof.Machine
end

