-- ==== Sys2Proof/Machine/Cache.lean ====
section
/-! DEFINITION. The Route Cache's own commands and events (spec/07): aging, CACHE_LIST, CACHE_PURGE. Parking, resuming
and eviction for an allocation stand with the events they belong to. -/

namespace Sys2Proof.Machine

/-! ### Aging (R129, R130) -/

/-- The age of an entry: the tick count less its park time, modulo 2^32, in milliseconds (R124). -/
def CacheEntry.age (e : CacheEntry) (now : Word32) : Nat := (now - e.parkTime).toNat

/-- The entry's age has reached the cache lifetime in force (R129). -/
def State.aged (s : State) (e : CacheEntry) : Bool := decide (s.config.cacheLifetime * 60000 ≤ e.age s.timebase)

/-- Every aged entry is removed, oldest-parked first, with reason AGED (R129); the pool is compared once, by the
event. -/
def State.removeAged (s : State) : State := (s.cache.filter s.aged).foldl (State.evict .aged) s

/-- The lifetime judgment at a tick as an event of its own (R129). -/
def State.expireCache (s : State) : State := s.closeEvent s.removeAged

/-- CACHE_AGED (R129). Where no entry has reached the lifetime there is no such event (log 5). -/
def execCacheAged (s : State) : Host.Outcome State Fault Refusal := .next s.settle.expireCache

/-! ### CACHE_LIST (R133) -/

/-- One item of CACHE_LIST: list position, route tag, tap counts, figure at park, age in whole minutes (R133). -/
def CacheEntry.item (e : CacheEntry) (position : Nat) (now : Word32) : List Byte :=
  enc1 position ++ enc2 e.routeTag ++ enc1 e.near ++ enc2 e.far ++ enc1 e.eq ++ enc1 e.figure
    ++ enc1 (e.age now / 60000 : Nat)

/-- Entries that have reached the lifetime and whose expiry is still to be taken leave, as an event of their own (R129). -/
def State.takeAged (s : State) : State := if s.cache.any s.aged then s.expireCache else s

/-- CACHE_LIST from position `first` (R133). An expiry that the last tick has brought about is taken before the list is
read, so that every age given is below the lifetime (log 32). -/
def listCache (first : Nat) (s : State) : Reply :=
  if 15 < first then s.refuse .badParam
  else
    let s := s.takeAged
    let items := (s.cache.zipIdx.drop first).take 6
    s.answer (enc1 s.cache.length ++ enc2 s.cacheSegments ++ enc1 s.config.cacheLifetime
      ++ encList (fun (e, i) => e.item i s.timebase) items)

def cacheListAct (params : List Byte) (s : State) : Reply := withParams parseByte params listCache s

def execCacheList (p : Port) (tag : Byte) (params : List Byte) (s : State) : Host.Outcome State Fault Refusal :=
  .next (takeCommand p tag params (cacheListAct params) s)

/-! ### CACHE_PURGE (R134) -/

/-- CACHE_PURGE of a route tag: the entry that holds it is removed with reason PURGED (R134). -/
def purgeCache (tag : Nat) (s : State) : Reply :=
  if tag = 0 ∨ 65535 < tag then s.refuse .badParam
  else
    match s.cacheEntry? tag with
    | none => s.refuse .notFound
    | some e => (s.closeEvent (s.evict .purged e)).answer (enc1 e.segments.length)

def cachePurgeAct (params : List Byte) (s : State) : Reply := withParams parseWord params purgeCache s

def execCachePurge (p : Port) (tag : Byte) (params : List Byte) (s : State) : Host.Outcome State Fault Refusal :=
  .next (takeCommand p tag params (cachePurgeAct params) s)

end Sys2Proof.Machine
end

