-- ==== Sys2Proof/Machine/ChannelTable.lean ====
section
/-! DEFINITION. The Channel Table (spec/01): ATTACH, RELEASE and the drain, RETRAIN, SET_POLICY, CLEAR_HOLDS, QUERY. -/

namespace Sys2Proof.Machine

/-! ### ATTACH (R11 to R15, R44 to R46, R127, R131) -/

/-- A count within `lo..hi` and a multiple of `step` (R11). -/
def inSteps (lo hi step n : Nat) : Bool := decide (lo ≤ n) && decide (n ≤ hi) && n % step == 0

/-- The parameters of ATTACH within the ranges of Table 1-4, as the profile and the policy they set (R11, R15). -/
def AttachParams.check (a : AttachParams) : Option (Profile × Policy) :=
  if inSteps 16 128 16 a.near ∧ inSteps 0 512 32 a.far ∧ inSteps 16 64 16 a.eq ∧ a.sequence ≤ 15
      ∧ a.routeTag ≤ 65535 ∧ a.lossCode ≤ 3 ∧ a.holdLimit ≤ 7 ∧ 1 ≤ a.holdTime ∧ a.holdTime ≤ 255
      ∧ a.strandTime ≤ 15 then
    match yesNo a.retain, Recovery.ofCode a.recovery, ContentionMode.ofCode a.mode with
    | some retain, some recovery, some mode =>
      some (⟨a.near, a.far, a.eq, some a.sequence⟩,
            ⟨a.routeTag, retain, recovery, mode, a.lossCode, a.holdLimit, some a.holdTime, a.strandTime⟩)
    | _, _, _ => none
  else none

/-- The record of a newly attached channel, but for what the two ways of ATTACH set: R15's values, which for every
other field are those of Table 1-2. -/
def Channel.attached (p : Port) (profile : Profile) (policy : Policy) : Channel :=
  { Channel.vacant with lessee := some p, profile, policy }

/-- The entry's bank sizes all equal those of the profile (R12, R127). -/
def CacheEntry.fits (e : CacheEntry) (profile : Profile) : Bool :=
  e.near == profile.near && e.far == profile.far && e.eq == profile.eq

/-- The entry an ATTACH resumes from: under its route tag, not 0, with equal sizes (R12). -/
def State.resumable (s : State) (profile : Profile) (policy : Policy) : Option CacheEntry :=
  if policy.routeTag = 0 then none else (s.cacheEntry? policy.routeTag).filter fun e => e.fits profile

/-- A resuming ATTACH (R14): the entry leaves the cache, its segments become the live segments, the channel goes to
TRACKING with proving. -/
def State.resume (s : State) (p : Port) (n : ChannelNo) (profile : Profile) (policy : Policy) (e : CacheEntry) : State :=
  (s.setCache (s.cache.filter fun x => x.routeTag ≠ e.routeTag)).modChan n fun _ =>
    { Channel.attached p profile policy with
      state := .tracking, origin := some .resumed, proving := some 50, live := e.segments, window := e.window }

/-- The order of eviction for an ATTACH: the entry with its route tag first, then the others oldest-parked first
(R46). -/
def evictionOrder (tag : Nat) (cache : List CacheEntry) : List CacheEntry :=
  cache.filter (fun e => e.routeTag == tag) ++ cache.filter (fun e => e.routeTag != tag)

/-- Cache entries are evicted until the free count is at least `need` (R46, R131). -/
def State.evictFor (s : State) (need tag : Nat) : State :=
  (evictionOrder tag s.cache).foldl (fun s e => if s.pool.free.length < need then s.evict .claimed e else s) s

/-- A fresh ATTACH that is supplied (R13, R44): the segments, the initial taps, origin FRESH, QUEUED. -/
def State.attachFresh (s : State) (p : Port) (n : ChannelNo) (profile : Profile) (policy : Policy) : State :=
  let (segments, s) := (s.evictFor profile.segments policy.routeTag).takeSegments profile.segments
  let s := s.modChan n fun _ => { Channel.attached p profile policy with origin := some .fresh, live := segments }
  s.writeInitialTaps n |>.enterQueued n

/-- ATTACH of a channel: WRONG_STATE, BAD_PARAM, BAD_SEQUENCE, then resume, fresh, or NOSPACE (R10 to R15, R45). -/
def attachChannel (p : Port) (a : AttachParams) (n : ChannelNo) (s : State) : Reply :=
  if (s.chan n).state ≠ .vacant then s.refuse .wrongState
  else
    match a.check with
    | none => s.refuse .badParam
    | some (profile, policy) =>
      if (Config.directory a.sequence).length = 0 then s.refuse .badSequence
      else
        match s.resumable profile policy with
        | some e =>
          (s.resume p n profile policy e).answer
            (enc1 Origin.resumed.code ++ enc1 e.segments.length ++ enc1? (some e.figure))
        | none =>
          let need := profile.segments
          let obtainable := s.pool.free.length + s.cacheSegments
          if need ≤ obtainable then
            (s.closeEvent (s.attachFresh p n profile policy)).answer
              (enc1 Origin.fresh.code ++ enc1 need ++ enc1? none)
          else ⟨s, .noSpace, enc1 need ++ enc2 obtainable⟩

def attachAct (p : Port) (params : List Byte) (s : State) : Reply :=
  withParams parseAttach params (fun a s => withChannel a.channel (attachChannel p a) s) s

def execAttach (p : Port) (tag : Byte) (params : List Byte) (s : State) : Host.Outcome State Fault Refusal :=
  .next (takeCommand p tag params (attachAct p params) s)

/-! ### RELEASE and the drain (R16, R18) -/

/-- The park decision (R16). -/
def Channel.mayPark (c : Channel) : Bool :=
  c.policy.retain && c.policy.routeTag != 0 && c.state == .tracking && c.proving.isNone

/-- What RELEASE does to the record: steps 2 to 4 of R16. -/
def Channel.startRelease (c : Channel) : Channel :=
  { c.enter .releasing with
    parkEligible := some c.mayPark, proving := none, guard := none, drainTimer := some 50 }

/-- RELEASE of a channel by its lessee (R16). The pool is compared after the MOVE_DONE of every aborted order (log 31). -/
def releaseChannel (n : ChannelNo) (s₀ : State) : Reply :=
  let c := s₀.chan n
  if c.state.inCall then
    let s := ((s₀.freePlayer n).leaveQueue n).modChan n Channel.startRelease
    let s := s.abortOrders fun o => o.work.touches n
    (s₀.closeEvent s).answer (enc1 (if c.mayPark then 0 else 1))
  else s₀.refuse .wrongState

def releaseAct (p : Port) (params : List Byte) (s : State) : Reply :=
  withParams parseByte params (fun n s => withLessee p n releaseChannel s) s

def execRelease (p : Port) (tag : Byte) (params : List Byte) (s : State) : Host.Outcome State Fault Refusal :=
  .next (takeCommand p tag params (releaseAct p params) s)

/-- The drain timer of the channel is at 0 (R18). -/
def State.drainDue (s : State) (n : ChannelNo) : Bool :=
  (s.chan n).state == .releasing && (s.chan n).drainTimer == some 0

/-- The expiry of a channel's release drain timer: the release completes, and RELEASED goes to the releasing port
(R18). -/
def State.expireDrain (s : State) (n : ChannelNo) : State :=
  if s.drainDue n then
    let c := s.chan n
    (s.closeEvent (s.completeRelease n)).notifyLessee c.lessee
      ⟨.released, some n, [if c.parkEligible = some true then 0 else 1]⟩
  else s

/-- DRAIN_EXPIRY (R18). Where the timer is not at 0 there is no such event (log 5). -/
def execDrainExpiry (n : ChannelNo) (s : State) : Host.Outcome State Fault Refusal := .next (s.settle.expireDrain n)

/-! ### RETRAIN (R20) -/

/-- RETRAIN of a channel by its lessee: the probe given up, the taps cleared if asked, QUEUED (R20). -/
def retrainChannel (clear : Nat) (n : ChannelNo) (s₀ : State) : Reply :=
  if (s₀.chan n).state.inCall then
    match yesNo clear with
    | none => s₀.refuse .badParam
    | some wipe =>
      let s := (s₀.freePlayer n).leaveQueue n
      let s := if wipe then (s.writeInitialTaps n).modChan n fun c => { c with window := .inactive } else s
      (s₀.closeEvent (s.enterQueued n)).answer []
  else s₀.refuse .wrongState

def retrainAct (p : Port) (params : List Byte) (s : State) : Reply :=
  withParams parseChannelByte params (fun a s => withLessee p a.1 (retrainChannel a.2) s) s

def execRetrain (p : Port) (tag : Byte) (params : List Byte) (s : State) : Host.Outcome State Fault Refusal :=
  .next (takeCommand p tag params (retrainAct p params) s)

/-! ### SET_POLICY and CLEAR_HOLDS (R22, R23) -/

/-- One item of SET_POLICY: the field takes the value, none where the value is outside the field's range (R5, R22). -/
def Policy.write (policy : Policy) (field : PolicyField) (v : Int) : Option Policy :=
  let n := v.toNat
  match field with
  | .routeTag => some { policy with routeTag := n }
  | .retain => (yesNo n).map fun b => { policy with retain := b }
  | .recovery => (Recovery.ofCode n).map fun r => { policy with recovery := r }
  | .mode => (ContentionMode.ofCode n).map fun m => { policy with mode := m }
  | .lossCode => if n ≤ 3 then some { policy with lossCode := n } else none
  | .holdLimit => if n ≤ 7 then some { policy with holdLimit := n } else none
  | .holdTime => if 1 ≤ n ∧ n ≤ 255 then some { policy with holdTime := some n } else none
  | .strandTime => if n ≤ 15 then some { policy with strandTime := n } else none

/-- Every item in one event: none where one is out of range. -/
def Policy.writeAll : Policy → List (PolicyField × Int) → Option Policy
  | policy, [] => some policy
  | policy, (field, v) :: rest => (policy.write field v).bind fun policy' => policy'.writeAll rest

/-- SET_POLICY on a channel by its lessee (R22); a hold limit below the hold count lowers the count (R7). -/
def setPolicyChannel (items : List (PolicyField × Int)) (n : ChannelNo) (s : State) : Reply :=
  let c := s.chan n
  if c.state.inCall then
    if 1 ≤ items.length ∧ items.length ≤ 8 ∧ namedOnce items then
      match c.policy.writeAll items with
      | none => s.refuse .badParam
      | some policy =>
        let count := min c.holdCount policy.holdLimit
        (s.modChan n fun c => { c with policy, holdCount := count }).answer (policy.bytes ++ enc1 count)
    else s.refuse .badParam
  else s.refuse .wrongState

def setPolicyAct (p : Port) (params : List Byte) (s : State) : Reply :=
  withParams parseSetPolicy params (fun a s => withLessee p a.1 (setPolicyChannel a.2) s) s

def execSetPolicy (p : Port) (tag : Byte) (params : List Byte) (s : State) : Host.Outcome State Fault Refusal :=
  .next (takeCommand p tag params (setPolicyAct p params) s)

/-- CLEAR_HOLDS on a channel by its lessee: the hold count becomes 0, the response gives what it was (R23). -/
def clearHoldsChannel (n : ChannelNo) (s : State) : Reply :=
  let c := s.chan n
  if c.state.inCall then (s.modChan n fun c => { c with holdCount := 0 }).answer (enc1 c.holdCount)
  else s.refuse .wrongState

def clearHoldsAct (p : Port) (params : List Byte) (s : State) : Reply :=
  withParams parseByte params (fun n s => withLessee p n clearHoldsChannel s) s

def execClearHolds (p : Port) (tag : Byte) (params : List Byte) (s : State) : Host.Outcome State Fault Refusal :=
  .next (takeCommand p tag params (clearHoldsAct p params) s)

/-! ### QUERY (R24) -/

def natItem (n : Option Nat) : Option Int := n.map fun k => (k : Int)

/-- The park decision as QUERY and RELEASE give it: PARK 0, FREE 1 (R16, R24; log 16). -/
def parkItem (eligible : Option Bool) : Option Int := eligible.map fun e => if e then 0 else 1

/-- The items of Table 1-5 (R24), absent ones filled with 0xFF (R179); `play` is what the channel's player holds. -/
def Channel.queryPayload (c : Channel) (play : Option Play) : List Byte :=
  encState c.state ++ encPort? c.lessee ++ enc1? (c.origin.map fun o => (o.code : Int))
    ++ (c.prior.map fun p => encState p.toCallState).getD [0xFF, 0xFF]
    ++ enc1? (parkItem c.parkEligible)
    ++ enc1 c.profile.near ++ enc2 c.profile.far ++ enc1 c.profile.eq ++ enc1? (natItem c.profile.sequence)
    ++ c.policy.bytes ++ enc1 c.holdCount ++ c.window.bytes ++ enc1 c.live.length
    ++ encList (fun r : Snapshot => enc1 r.id ++ enc1 (boolCode r.ready)) c.ring
    ++ enc1? (c.measured.map Measurements.figure) ++ enc1? (c.measured.map Measurements.receive)
    ++ enc1? (c.measured.map Measurements.estimate)
    ++ enc1 c.goodRun ++ enc1 c.badRun ++ enc2 c.trainingEpochs
    ++ enc1? (natItem c.proving) ++ enc1? (natItem c.guard)
    ++ enc1 (boolCode c.contentionLive) ++ enc1 c.hangover ++ enc2 c.budget
    ++ enc1 c.freeze.code ++ enc1 c.level.status.code ++ enc1? c.level.last
    ++ enc1? (c.player.map fun k => (k.val : Int)) ++ enc2? (play.map fun p => (p.pointer : Int))

/-- QUERY of a channel: open to any joined port, in any state; nothing changes (R24). -/
def queryChannel (n : ChannelNo) (s : State) : Reply :=
  let c := s.chan n
  s.answer (c.queryPayload (c.player.bind s.play))

def queryAct (params : List Byte) (s : State) : Reply :=
  withParams parseByte params (fun n s => withChannel n queryChannel s) s

def execQuery (p : Port) (tag : Byte) (params : List Byte) (s : State) : Host.Outcome State Fault Refusal :=
  .next (takeCommand p tag params (queryAct params) s)

end Sys2Proof.Machine
end

