-- ==== Sys2Proof/Machine/Leases.lean ====
section
/-! DEFINITION. Ports, leases and adoption (spec/08): JOIN, KEEP, LEAVE, ADOPT, the port loss cascade, orphaning,
stranding, dropping, and the expiries of the lease, hold and strand timers. -/

namespace Sys2Proof.Machine

/-! ### The port loss cascade (R140 to R143) -/

inductive LossReason where
  | lease
  | left
deriving DecidableEq, Repr

def LossReason.code : LossReason → Nat
  | .lease => 0
  | .left => 1

inductive DropReason where
  | holdLimit
  | holdExpired
  | strandExpired
deriving DecidableEq, Repr

def DropReason.code : DropReason → Nat
  | .holdLimit => 0
  | .holdExpired => 1
  | .strandExpired => 2

/-- CHANNEL_DROPPED: reason; state or phase at the loss, or prior state; hold count (R164). -/
def channelDropped (n : ChannelNo) (reason : DropReason) (was : Int) (holdCount : Nat) : Notice :=
  ⟨.channelDropped, some n, [(reason.code : Int), was, (holdCount : Int)]⟩

/-- A channel is dropped at the hold limit within the cascade (R143): VACANT by the steps of R25; the pool is compared
at the end of the whole cascade (R140). -/
def State.dropAtLimit (s : State) (n : ChannelNo) : State :=
  let c := s.chan n
  (s.vacate n false).broadcast (channelDropped n .holdLimit c.state.item c.holdCount)

/-- A channel is dropped by an expiry of its own (R145, R146): VACANT by the steps of R25, the pool compared at step 3,
CHANNEL_DROPPED broadcast at step 5 (log 27). -/
def State.dropExpired (s : State) (n : ChannelNo) (reason : DropReason) (was : Int) : State :=
  (s.closeEvent (s.vacate n false)).broadcast (channelDropped n reason was (s.chan n).holdCount)

/-- The prior state that an orphaning records (R142). -/
def CallState.toPrior : CallState → PriorState
  | .training ph => .training ph
  | .tracking | .vacant | .releasing | .orphaned | .stranded => .tracking

/-- A channel in TRAINING or TRACKING is orphaned in the loss of its lessee `p` (R142); an order that touches it is
aborted (R119). -/
def State.orphan (s : State) (p : Port) (n : ChannelNo) : State :=
  let c := s.chan n
  let s := ((s.abortOrders fun o => o.work.touches n).freePlayer n).leaveQueue n
  let s := s.modChan n fun c =>
    { c.enter .orphaned with
      prior := some c.state.toPrior, lessee := none, holdCount := c.holdCount + 1,
      holdTimer := some (c.policy.holdTime.getD 0 * 10) }
  s.broadcast ⟨.channelOrphaned, some n,
    [(p.val : Int), c.state.item, (c.holdCount + 1 : Nat), (c.policy.holdLimit : Int)]⟩

/-- What a loss has done to the port's channels: how many it orphaned, dropped, and whose release it completed
(R138, R140). -/
structure LossCounts where
  orphaned : Nat
  dropped : Nat
  released : Nat
deriving DecidableEq, Repr

/-- Step 4 of R140 for one channel: orphaned below the hold limit, dropped at it. -/
def State.loseCall (p : Port) (r : State × LossCounts) (n : ChannelNo) : State × LossCounts :=
  let (s, counts) := r
  let c := s.chan n
  if c.holdCount = c.policy.holdLimit then
    (s.dropAtLimit n, { counts with dropped := counts.dropped + 1 })
  else (s.orphan p n, { counts with orphaned := counts.orphaned + 1 })

/-- The seven steps of R140. The order of several completions at step 3 is a free value (log 1). -/
def State.losePort (s₀ : State) (p : Port) (reason : LossReason) : State × LossCounts :=
  let s := s₀.modPort p fun r => { r with link := .absent, lease := none }
  let s := s.abortOrders fun o => o.port == p
  let releasing := allChannels.filter fun n => (s.chan n).lessee == some p && (s.chan n).state == .releasing
  let releases := rankSort (fun n => Config.freeRank s.freeIndex n.val) releasing
  let s := releases.foldl State.completeRelease s.spendFree
  let calls := allChannels.filter fun n => (s.chan n).isCallOf p
  let (s, counts) := calls.foldl (State.loseCall p) (s, ⟨0, 0, releases.length⟩)
  let s := if s.claim = some p then s.setClaim none else s
  let s := s.modPort p fun r => { r with queue := [], mask := [], overflow := false, attn := false }
  let s := s.broadcast ⟨.portLost, none,
    [(p.val : Int), (reason.code : Int), (counts.orphaned : Int), (counts.dropped : Int)]⟩
  (s₀.closeEvent s, counts)

/-! ### Expiries (R139, R145, R146) -/

/-- The lease timer of the port has been brought to 0 by a tick, and its expiry is still to be taken (R38, R139; log 8). -/
def State.leaseDue (s : State) (p : Port) : Bool := (s.port p).joined && (s.port p).lease == some 0

/-- The expiry of a port's lease (R139). -/
def State.expireLease (s : State) (p : Port) : State :=
  if s.leaseDue p then (s.losePort p .lease).1 else s

/-- The hold timer of the channel is at 0 (R145). -/
def State.holdDue (s : State) (n : ChannelNo) : Bool :=
  (s.chan n).state == .orphaned && (s.chan n).holdTimer == some 0

/-- A channel goes to STRANDED (R145). -/
def Channel.strand (c : Channel) : Channel :=
  { c.enter .stranded with
    prior := none, proving := none, guard := none, holdTimer := none,
    strandTimer := if c.policy.strandTime = 15 then none else some (c.policy.strandTime * 1000) }

/-- The expiry of a channel's hold timer (R145). -/
def State.expireHold (s : State) (n : ChannelNo) : State :=
  if s.holdDue n then
    let c := s.chan n
    if c.policy.strandTime = 0 then
      s.dropExpired n .holdExpired ((c.prior.map fun p => p.toCallState.item).getD absentItem)
    else
      (s.modChan n Channel.strand).broadcast
        ⟨.channelStranded, some n, [(c.policy.strandTime : Int), (c.holdCount : Int)]⟩
  else s

/-- The strand timer of the channel is at 0 (R146). -/
def State.strandDue (s : State) (n : ChannelNo) : Bool :=
  (s.chan n).state == .stranded && (s.chan n).strandTimer == some 0

/-- The expiry of a channel's strand timer (R146). -/
def State.expireStrand (s : State) (n : ChannelNo) : State :=
  if s.strandDue n then s.dropExpired n .strandExpired absentItem else s

/-! ### JOIN, KEEP, LEAVE (R136, R138) -/

/-- The states of the four ports as payload bytes. -/
def State.portStates (s : State) : List Byte := allPorts.flatMap fun p => enc1 (s.port p).link.code

/-- How many channels are in a state. -/
def State.countChannels (s : State) (st : CallState) : Nat := allChannels.countP fun n => (s.chan n).state == st

/-- The payload of the JOIN response (R136, R41). -/
def State.joinPayload (s : State) (p : Port) : List Byte :=
  enc1 p.val ++ s.portStates ++ encPort? s.claim ++ enc2 s.config.leasePeriod ++ enc2 s.config.joinGrace
    ++ enc1 s.highway.sync.code ++ enc4 s.highway.epochCounter ++ enc1 (s.countChannels .orphaned)
    ++ enc1 (s.countChannels .stranded)

/-- JOIN (R136): an ABSENT port goes to GRACE with its lease timer at the join grace; from a joined port, refused
WRONG_STATE with the lease renewed (R137, R177 step 2). -/
def execJoin (p : Port) (tag : Byte) (params : List Byte) (s : State) : Host.Outcome State Fault Refusal :=
  let s := s.beginCommand p params
  if (s.port p).joined then .next ((s.refuse .wrongState).finish p tag)
  else
    match parseNone params with
    | none => .next (s.hold p ⟨.badParam, tag, []⟩)
    | some () =>
      let s := s.modPort p fun r => { r with link := .grace, lease := some s.config.joinGrace }
      .next (s.hold p ⟨.ok, tag, s.joinPayload p⟩)

/-- KEEP does nothing but renew (R138): the port's state after the command, and the lease period in force. -/
def keepAct (p : Port) (params : List Byte) (s : State) : Reply :=
  withParams parseNone params (fun () s =>
    s.answer (enc1 ((s.renew p).port p).link.code ++ enc2 s.config.leasePeriod)) s

def execKeep (p : Port) (tag : Byte) (params : List Byte) (s : State) : Host.Outcome State Fault Refusal :=
  .next (takeCommand p tag params (keepAct p params) s)

/-- LEAVE (R138): the port is lost with reason LEFT, nothing is renewed, and the response is held although the port is
ABSENT. -/
def execLeave (p : Port) (tag : Byte) (params : List Byte) (s : State) : Host.Outcome State Fault Refusal :=
  let s := s.beginCommand p params
  if (s.port p).joined then
    match parseNone params with
    | none => .next ((s.refuse .badParam).finish p tag)
    | some () =>
      let (s, counts) := s.losePort p .left
      .next (s.hold p ⟨.ok, tag, enc1 counts.orphaned ++ enc1 counts.dropped ++ enc1 counts.released⟩)
  else .next (s.hold p ⟨.notJoined, tag, []⟩)

/-! ### ADOPT (R147, R148) -/

/-- An adopted channel takes up its call: lessee, origin ADOPTED, timers and prior state removed, and the state its
prior state leads to; QUEUED is entered by `State.enterQueued` (R147, R148). TRACKING is entered with the contention
live flag clear and the hangover 0 (R69). -/
def State.adoptInto (s : State) (p : Port) (n : ChannelNo) : State :=
  let c := s.chan n
  let s := s.modChan n fun c =>
    { c with lessee := some p, origin := some .adopted, prior := none, holdTimer := none, strandTimer := none }
  match c.state, c.prior with
  | .orphaned, some .tracking => s.modChan n fun c => { c.enter .tracking with contentionLive := false, hangover := 0 }
  | .orphaned, some (.training .settling) => s.modChan n fun c => c.enter (.training .settling)
  | .orphaned, some (.training .stalled) => s.modChan n fun c => c.enter (.training .stalled)
  | _, _ => s.enterQueued n

/-- The payload of the ADOPT response: the state and phase entered, the prior state or STRANDED, hold count and hold
limit, proving and guard remaining (R148). -/
def Channel.adoptPayload (after before : Channel) : List Byte :=
  encState after.state
    ++ encState (((before.prior.map PriorState.toCallState)).getD .stranded)
    ++ enc1 after.holdCount ++ enc1 after.policy.holdLimit ++ enc1? (after.proving.map fun n => (n : Int))
    ++ enc1? (after.guard.map fun n => (n : Int))

/-- CHANNEL_ADOPTED: adopting port, state entered, phase entered or none (R148). -/
def channelAdopted (p : Port) (n : ChannelNo) (st : CallState) : Notice :=
  ⟨.channelAdopted, some n, [(p.val : Int), (st.code : Int), (st.phase.map fun ph => (ph.code : Int)).getD absentItem]⟩

/-- ADOPT of a channel (R147, R148): accepted in ORPHANED and STRANDED, refused WRONG_STATE elsewhere. The state
reported is the one the event leaves (log 17). -/
def adoptChannel (p : Port) (n : ChannelNo) (s₀ : State) : Reply :=
  let before := s₀.chan n
  if before.state = .orphaned ∨ before.state = .stranded then
    let s := s₀.closeEvent (s₀.adoptInto p n)
    let after := s.chan n
    (s.broadcastExcept p (channelAdopted p n after.state)).answer (after.adoptPayload before)
  else s₀.refuse .wrongState

def adoptAct (p : Port) (params : List Byte) (s : State) : Reply :=
  withParams parseByte params (fun n s => withChannel n (adoptChannel p) s) s

def execAdopt (p : Port) (tag : Byte) (params : List Byte) (s : State) : Host.Outcome State Fault Refusal :=
  .next (takeCommand p tag params (adoptAct p params) s)

/-! ### The expiries as events -/

/-- LEASE_EXPIRY (R139). Where the timer is not at 0 there is no such event (log 5). -/
def execLeaseExpiry (p : Port) (s : State) : Host.Outcome State Fault Refusal := .next (s.settle.expireLease p)

/-- HOLD_EXPIRY (R145). -/
def execHoldExpiry (n : ChannelNo) (s : State) : Host.Outcome State Fault Refusal := .next (s.settle.expireHold n)

/-- STRAND_EXPIRY (R146). -/
def execStrandExpiry (n : ChannelNo) (s : State) : Host.Outcome State Fault Refusal := .next (s.settle.expireStrand n)

end Sys2Proof.Machine
end

