-- ==== Sys2Proof/Machine/Config.lean ====
section
/-! DEFINITION. The claim and the shared configuration (spec/08 R150 to R153): CLAIM, YIELD, SET_CONFIG, GET_CONFIG,
RESET_PART; and the reset of the part. -/

namespace Sys2Proof.Machine

/-! ### CLAIM and YIELD (R150) -/

/-- CLAIM: granted when no port holds the claim; refused CLAIMED with the holder's number otherwise (R150). -/
def claimConfig (p : Port) (s : State) : Reply :=
  match s.claim with
  | none => (s.setClaim (some p)).answer []
  | some holder => ⟨s, .claimed, enc1 holder.val⟩

def claimAct (p : Port) (params : List Byte) (s : State) : Reply :=
  withParams parseNone params (fun () s => claimConfig p s) s

def execClaim (p : Port) (tag : Byte) (params : List Byte) (s : State) : Host.Outcome State Fault Refusal :=
  .next (takeCommand p tag params (claimAct p params) s)

/-- YIELD: the holder releases the claim; any other port is refused NO_CLAIM (R150). -/
def yieldConfig (p : Port) (s : State) : Reply :=
  if s.claim = some p then (s.setClaim none).answer [] else s.refuse .noClaim

def yieldAct (p : Port) (params : List Byte) (s : State) : Reply :=
  withParams parseNone params (fun () s => yieldConfig p s) s

def execYieldClaim (p : Port) (tag : Byte) (params : List Byte) (s : State) : Host.Outcome State Fault Refusal :=
  .next (takeCommand p tag params (yieldAct p params) s)

/-! ### SET_CONFIG (R151, R130, R49) -/

/-- A value within `lo..hi` and on a step counted from 0 (Table 8-2). -/
def onStep (lo hi step v : Int) : Bool := decide (lo ≤ v) && decide (v ≤ hi) && v % step == 0

/-- The range and the step of each parameter (Table 8-2). -/
def ConfigParam.allows : ConfigParam → Int → Bool
  | .leasePeriod => onStep 50 2000 10
  | .joinGrace => onStep 500 10000 100
  | .convergence => onStep 12 48 1
  | .trainingLimit => onStep 100 3000 1
  | .contentionMargin => onStep 3 12 1
  | .fastStep => onStep 3 8 1
  | .trackingStep => onStep 6 12 1
  | .farFloor => onStep (-60) (-20) 1
  | .cacheLifetime => onStep 1 240 1
  | .poolLowWater => onStep 0 256 1
  | .levelWarn => onStep (-45) (-20) 1
  | .levelFade => onStep (-50) (-25) 1
  | .levelLoss => onStep (-55) (-30) 1

def SharedConfig.write (c : SharedConfig) (param : ConfigParam) (v : Int) : SharedConfig :=
  match param with
  | .leasePeriod => { c with leasePeriod := v.toNat }
  | .joinGrace => { c with joinGrace := v.toNat }
  | .convergence => { c with convergence := v }
  | .trainingLimit => { c with trainingLimit := v.toNat }
  | .contentionMargin => { c with contentionMargin := v }
  | .fastStep => { c with fastStep := v.toNat }
  | .trackingStep => { c with trackingStep := v.toNat }
  | .farFloor => { c with farFloor := v }
  | .cacheLifetime => { c with cacheLifetime := v.toNat }
  | .poolLowWater => { c with poolLowWater := v.toNat }
  | .levelWarn => { c with levelWarn := v }
  | .levelFade => { c with levelFade := v }
  | .levelLoss => { c with levelLoss := v }

/-- The orderings the configuration always keeps: warn above fade, fade above loss, fast exponent below tracking
exponent (R151, R162). -/
def SharedConfig.ordered (c : SharedConfig) : Bool :=
  decide (c.levelFade < c.levelWarn) && decide (c.levelLoss < c.levelFade) && decide (c.fastStep < c.trackingStep)

/-- The configuration that a list of items would result in (R151). -/
def SharedConfig.writeAll (c : SharedConfig) (items : List (ConfigParam × Int)) : SharedConfig :=
  items.foldl (fun c item => c.write item.1 item.2) c

/-- Whether SET_CONFIG accepts a list of items from the claim holder (R151). -/
def SharedConfig.accepts (c : SharedConfig) (items : List (ConfigParam × Int)) : Bool :=
  decide (1 ≤ items.length) && decide (items.length ≤ 13) && namedOnce items
    && items.all (fun item => item.1.allows item.2) && (c.writeAll items).ordered

/-- The parameters are written in one event; a changed cache lifetime ages out older entries (R130), a changed
low-water mark is compared with the free count (R49), once. -/
def State.writeConfig (s₀ : State) (items : List (ConfigParam × Int)) : State :=
  let s := s₀.setConfig (s₀.config.writeAll items)
  let s := if s.config.cacheLifetime = s₀.config.cacheLifetime then s else s.removeAged
  if s.config.poolLowWater = s₀.config.poolLowWater then s₀.closeEvent s else s.comparePool

/-- SET_CONFIG by a joined port (R151). -/
def setConfig (p : Port) (items : List (ConfigParam × Int)) (s : State) : Reply :=
  if s.claim = some p then
    if s.config.accepts items then
      let s := s.writeConfig items
      s.answer s.config.bytes
    else s.refuse .badParam
  else s.refuse .noClaim

def setConfigAct (p : Port) (params : List Byte) (s : State) : Reply :=
  withParams parseSetConfig params (setConfig p) s

def execSetConfig (p : Port) (tag : Byte) (params : List Byte) (s : State) : Host.Outcome State Fault Refusal :=
  .next (takeCommand p tag params (setConfigAct p params) s)

/-! ### GET_CONFIG (R152) -/

/-- GET_CONFIG: own number, the thirteen parameters, the claim holder, the port states as the event leaves them, the
renewal made (R152, R175). -/
def getConfig (p : Port) (s : State) : Reply :=
  s.answer (enc1 p.val ++ s.config.bytes ++ encPort? s.claim ++ (s.renew p).portStates)

def getConfigAct (p : Port) (params : List Byte) (s : State) : Reply :=
  withParams parseNone params (fun () s => getConfig p s) s

def execGetConfig (p : Port) (tag : Byte) (params : List Byte) (s : State) : Host.Outcome State Fault Refusal :=
  .next (takeCommand p tag params (getConfigAct p params) s)

/-! ### Reset (R2, R26, R40, R42, R88, R103, R122, R123, R153, R154, R166, R175) -/

/-- Every block takes its reset values at once. The queue of waiting commands and the counter of free values are the
model's own and are kept (log 1, log 9). -/
def State.resetPart (s : State) : State := { State.reset with pending := s.pending, freeIndex := s.freeIndex }

/-- RESET: the RESET pin (R154; log 9). -/
def execReset (s : State) : Host.Outcome State Fault Refusal := .next s.resetPart

/-- Whether a port other than `p` is in GRACE or LIVE (R153). -/
def State.othersPresent (s : State) (p : Port) : Bool := allPorts.any fun q => q != p && (s.port q).joined

/-- RESET_PART (R153): NO_CLAIM, OTHERS_PRESENT with the states of the four ports, or the reset of the part, which the
held OK response of the issuing port survives. -/
def execResetPart (p : Port) (tag : Byte) (params : List Byte) (s : State) : Host.Outcome State Fault Refusal :=
  let s := s.beginCommand p params
  if (s.port p).joined then
    match parseNone params with
    | none => .next ((s.refuse .badParam).finish p tag)
    | some () =>
      if s.claim = some p then
        if s.othersPresent p then
          .next (Reply.finish ⟨s, .othersPresent, (s.renew p).portStates⟩ p tag)
        else .next ((s.resetPart.driveLink p (commandEcho params)).hold p ⟨.ok, tag, []⟩)
      else .next ((s.refuse .noClaim).finish p tag)
  else .next (s.hold p ⟨.notJoined, tag, []⟩)

end Sys2Proof.Machine
end

