-- ==== Sys2Proof/Machine/Events.lean ====
section
/-! DEFINITION. EPOCH_END, ORDER_COMPLETE and TIMEBASE_TICK as events (R36, R116, R38). -/

namespace Sys2Proof.Machine

/-- EPOCH_END (R36): the ends of play of the 80th frame come first (R95), then the epoch end. Where 80 frames have not
been formed there is no such event (log 5). -/
def execEpochEnd (s : State) : Host.Outcome State Fault Refusal := .next s.settle

/-- The order in flight has reached its total. -/
def State.orderEnded (s : State) : Bool := s.mover.head?.any fun o => decide (o.total ≤ o.progress)

/-- ORDER_COMPLETE (R116). The mover completes an order in the epoch end that brings it to its total (R115; log 7);
where no order has reached its total there is no such event (log 5). -/
def execOrderComplete (s : State) : Host.Outcome State Fault Refusal :=
  let s := s.settle
  if s.orderEnded then .next (s.closeEvent s.completeHead) else .next s

/-- Every expiry that the ticks so far have brought about and that is still to be taken (log 8). -/
def State.takeExpiries (s : State) : State :=
  let s := allPorts.foldl State.expireLease s
  let s := allChannels.foldl State.expireDrain s
  let s := allChannels.foldl State.expireHold s
  let s := allChannels.foldl State.expireStrand s
  s.expireCache

/-- A running timer goes down by one (R38). -/
def tickTimer : Option Nat → Option Nat
  | some n => some (n - 1)
  | none => none

def PortRecord.tick (r : PortRecord) : PortRecord := { r with lease := tickTimer r.lease }

def Channel.tick (c : Channel) : Channel :=
  { c with drainTimer := tickTimer c.drainTimer, holdTimer := tickTimer c.holdTimer,
           strandTimer := tickTimer c.strandTimer }

/-- The tick itself (R38): the count goes up by one, every running timer down by one. -/
def State.tick (s : State) : State :=
  let s := allPorts.foldl (fun s p => s.modPort p PortRecord.tick) s
  let s := s.modAllChannels Channel.tick
  { s with timebase := s.timebase + 1 }

/-- TIMEBASE_TICK (R38). -/
def execTimebaseTick (s : State) : Host.Outcome State Fault Refusal := .next s.settle.takeExpiries.tick

end Sys2Proof.Machine
end

