-- ==== Sys2Proof/Machine/Highway.lean ====
section
/-! DEFINITION. The Highway Interface's events (spec/02): the LOCKED frame with its sample path, the frame boundary, the
pulse of the hunt, the stopped bit clock. -/

namespace Sys2Proof.Machine

/-! ### The sample path (R28 to R31) -/

/-- A history without its oldest zeros (log 25). -/
def trimZeros : List Sample → List Sample
  | [] => []
  | x :: rest =>
    match trimZeros rest with
    | [] => if x = 0 then [] else [x]
    | y :: older => x :: y :: older

/-- A history takes a sample and keeps its newest `limit` (R28). -/
def pushSample (limit : Nat) (x : Sample) (history : List Sample) : List Sample :=
  trimZeros ((x :: history).take limit)

/-- The sum over taps 0..count-1 of a bank of a channel's live set of the tap times the sample of that age (R29). -/
def State.bankSum (s : State) (n : ChannelNo) (bank : Bank) (count : Nat) (aged : Nat → Sample) : Int :=
  ((List.range count).map fun i => s.tap n .live bank i * aged i).sum

/-- The echo estimate of a frame (R29; log 15): `reference` begins with the reference of the frame. -/
def State.echoEstimate (s : State) (n : ChannelNo) (reference : List Sample) : Sample :=
  let c := s.chan n
  let near := s.bankSum n .near c.profile.near fun i => reference.getD i 0
  let far := if c.window.active then
      s.bankSum n .far c.profile.far fun i => reference.getD (c.window.start + i) 0
    else 0
  clampSample (roundDiv (near + far) 32767)

/-- The conditioned sample of a frame (R29): `residuals` begins with the residual of the frame. -/
def State.conditioned (s : State) (n : ChannelNo) (residuals : List Sample) : Sample :=
  clampSample (roundDiv (s.bankSum n .equal (s.chan n).profile.eq fun j => residuals.getD j 0) 32767)

/-- The player that plays a code for the channel in this frame, with the probe sample and the player after it (R30,
R94). -/
def State.probeOf (s : State) (n : ChannelNo) : Option (PlayerNo × Sample × Play) :=
  if (s.chan n).state = .training .probing then
    match (s.chan n).player with
    | some k =>
      match s.play k with
      | some play => if play.playing then some (k, play.playCode) else none
      | none => none
    | none => none
  else none

/-- The frame finds the channel's player PAUSED (R64). -/
def State.foundPaused (s : State) (n : ChannelNo) : Bool :=
  (s.chan n).state == .training .probing && ((s.chan n).player.bind s.play).any Play.paused

/-- The output slots of a channel in the next frame. -/
def State.putSlots (s : State) (n : ChannelNo) (lineOut pumpOut : Sample) : State :=
  s.modHighway fun h => { h with lineOut := h.lineOut.set n lineOut, pumpOut := h.pumpOut.set n pumpOut }

/-- The sums of the epoch take a frame (R37). -/
def EpochSums.add (sums : EpochSums) (lineIn estimate residual : Sample) : EpochSums where
  line := sums.line + lineIn.natAbs ^ 2
  estimate := sums.estimate + estimate.natAbs ^ 2
  residual := sums.residual + residual.natAbs ^ 2
  frames := sums.frames + 1

/-- What a frame forms for a channel: the two samples for the next frame's slots, and the echo estimate and the residual
for the sums; in STRANDED the estimate counts 0 and the residual is the Line-in sample (R28 to R30, R37). -/
structure Formed where
  pumpOut : Sample
  estimate : Sample
  residual : Sample
  residuals : List Sample
deriving DecidableEq, Repr

/-- Table 2-1's Pump-out and the residual path, by whether the echo is cancelled (R29, R30). -/
def State.form (s : State) (n : ChannelNo) (reference : List Sample) (lineIn : Sample) : Formed :=
  let c := s.chan n
  if c.state = .stranded then
    { pumpOut := lineIn, estimate := 0, residual := lineIn, residuals := pushSample 144 lineIn c.residuals }
  else
    let estimate := s.echoEstimate n reference
    let residual := clampSample (lineIn - estimate)
    let residuals := pushSample 144 residual c.residuals
    { pumpOut := s.conditioned n residuals, estimate, residual, residuals }

/-- The frame for a channel not VACANT, the probe sample given where its player plays (Table 2-1). -/
def State.frameCall (s : State) (n : ChannelNo) (lineIn pumpIn : Sample) : State :=
  let probe := s.probeOf n
  let source := (probe.map fun x => x.2.1).getD pumpIn
  let reference := pushSample 5440 source (s.chan n).reference
  let formed := s.form n reference lineIn
  let adapting := s.adaptingNow n
  let paused := s.foundPaused n
  let s := match probe with
    | some (k, sample, play) =>
      s.setPlay k (some (play.locate (s.chan n).profile.near reference lineIn sample))
    | none => s
  (s.modChan n fun c =>
    { c with
      reference, residuals := formed.residuals
      sums := c.sums.add lineIn formed.estimate formed.residual
      marks := { c.marks with adapting := c.marks.adapting + boolCode adapting
                              paused := c.marks.paused || paused } }).putSlots n source formed.pumpOut

/-- The frame for one channel: zeros in both output slots of a VACANT one (Table 2-1). -/
def State.frameChannel (lineIn pumpIn : Vector Slot 48) (s : State) (n : ChannelNo) : State :=
  if (s.chan n).state = .vacant then s.putSlots n 0 0
  else s.frameCall n (lineIn.get n).toInt (pumpIn.get n).toInt

/-- One LOCKED frame (R28, R36). -/
def State.frame (s : State) (lineIn pumpIn : Vector Slot 48) : State :=
  (allChannels.foldl (State.frameChannel lineIn pumpIn) s).modHighway fun h => { h with epochFrames := h.epochFrames + 1 }

/-- LOCKED_FRAME (R28). While HUNTING no frame is formed (R34; log 5). -/
def execLockedFrame (lineIn pumpIn : Vector Slot 48) (s : State) : Host.Outcome State Fault Refusal :=
  let s := s.settle
  if s.highway.sync = .locked then .next (s.frame lineIn pumpIn) else .next s

/-! ### Frame boundaries (R32, R33) -/

/-- The judgment of an expected boundary while LOCKED (R32). -/
def State.judgeBoundary (s : State) (pulseAt pulseElsewhere : Bool) : State :=
  if pulseAt && !pulseElsewhere then s.modHighway fun h => { h with faultCount := 0 }
  else if s.highway.faultCount = 0 then s.modHighway fun h => { h with faultCount := 1 }
  else s.loseSync (if pulseElsewhere then .misplaced else .missing)

/-- FRAME_BOUNDARY (R32). While HUNTING no boundary is expected (log 5). -/
def execFrameBoundary (pulseAt pulseElsewhere : Bool) (s : State) : Host.Outcome State Fault Refusal :=
  let s := s.settle
  if s.highway.sync = .locked then .next (s.judgeBoundary pulseAt pulseElsewhere) else .next s

/-! ### The hunt (R34, R35) -/

/-- The highway goes to LOCKED (R34): the order in flight overlaps the epoch that begins (R114), SYNC_RESTORED is
broadcast with the duration of the hunt and the epoch counter. The duration is the difference of the two counts modulo
2^32, then saturated: the model's choice for a hunt in which the count wraps (log 35). -/
def State.lock (s : State) : State :=
  let s := s.modHighway fun h =>
    { h with sync := .locked, faultCount := 0, runCount := 0, runReference := false, epochFrames := 0 }
  s.markHead.broadcast ⟨.syncRestored, none,
    (min 65535 (s.timebase - s.highway.huntStart).toNat : Nat) :: halves s.highway.epochCounter⟩

/-- The judgment of a pulse against the run reference while HUNTING (R34); a pulse without a bit clock is not judged
(R35). -/
def State.judgePulse (s : State) (spacing : Option Nat) : State :=
  match spacing with
  | none => s
  | some clocks =>
    let count := if s.highway.runReference ∧ clocks = 768 then s.highway.runCount + 1 else 0
    if count = 16 then s.lock
    else s.modHighway fun h => { h with runCount := count, runReference := true }

/-- HUNT_PULSE (R34). While LOCKED a pulse is judged at the next boundary (R32; log 5). -/
def execHuntPulse (spacing : Option Nat) (s : State) : Host.Outcome State Fault Refusal :=
  let s := s.settle
  if s.highway.sync = .hunting then .next (s.judgePulse spacing) else .next s

/-- NO_CLOCK (R35): LOCKED goes to HUNTING; in HUNTING the hunt starts again. -/
def execNoClock (s : State) : Host.Outcome State Fault Refusal :=
  let s := s.settle
  match s.highway.sync with
  | .locked => .next (s.loseSync .noClock)
  | .hunting => .next (s.modHighway fun h => { h with runCount := 0, runReference := false })

end Sys2Proof.Machine
end

