-- ==== Sys2Proof/Machine/Mover.lean ====
section
/-! DEFINITION. The Tap Mover's commands (spec/06): MOVE, CANCEL_MOVE, MOVER_STATUS. What an order does to taps stands
in MoverWork.lean, how it ends in Ops.lean. -/

namespace Sys2Proof.Machine

/-! ### MOVE (R111 to R113) -/

/-- The fields of a region are in range (R111 step 1); copy byte 0 is LIVE and 1..255 are snapshot ids, so every copy
byte is. The count of a SET region is judged by its fit. -/
def RawRegion.inRange (r : RawRegion) : Bool :=
  decide (r.first ≤ 511) &&
    match Bank.ofCode r.bank with
    | none => false
    | some .set => true
    | some .near | some .far | some .equal => decide (1 ≤ r.count) && decide (r.count ≤ 512)

def RawRegion.isSet (r : RawRegion) : Bool := Bank.ofCode r.bank == some .set

/-- The parameter ranges of MOVE (R111 step 1). -/
def MoveParams.inRange : MoveParams → Bool
  | .copy source dest keyed =>
    source.inRange && dest.inRange && source.isSet == dest.isSet && (yesNo keyed).isSome
  | .fill dest _ => dest.inRange && !dest.isSet
  | .expand dest _ _ _ transparent => dest.inRange && !dest.isSet && (yesNo transparent).isSome
  | .blend source dest weight =>
    source.inRange && dest.inRange && !source.isSet && !dest.isSet && decide (weight ≤ 8)

/-- The region a frame gives, where its channel number is at most 47 and its bank one of R105. -/
def RawRegion.region? (r : RawRegion) : Option Region :=
  match channelOf r.channel, Bank.ofCode r.bank with
  | some n, some bank =>
    some ⟨n, if r.copy = 0 then .live else .snapshot r.copy, bank, r.first, r.count⟩
  | _, _ => none

/-- The order's kind and fields; for parameters in range, none where a channel number is above 47 (R111 step 2). -/
def MoveParams.work? : MoveParams → Option Work
  | .copy source dest keyed =>
    match source.region?, dest.region?, yesNo keyed with
    | some a, some b, some k => some (.copy a b k)
    | _, _, _ => none
  | .fill dest value => dest.region?.map fun b => .fill b value
  | .expand dest mask fore back transparent =>
    match dest.region?, yesNo transparent with
    | some b, some t => some (.expand b mask fore back t)
    | _, _ => none
  | .blend source dest weight =>
    match source.region?, dest.region? with
    | some a, some b => some (.blend a b weight)
    | _, _ => none

/-- The standing of a channel for an order of port `p` (R111 step 3): the status of the refusal, none where it is a
call of `p` outside RELEASING. -/
def Channel.standing (c : Channel) (p : Port) : Option Status :=
  match c.lessee with
  | none => some .wrongState
  | some q => if q ≠ p then some .notLessee else if c.state = .releasing then some .wrongState else none

/-- The record that a region of a snapshot names is in its ring. -/
def State.regionFound (s : State) (r : Region) : Bool :=
  match r.copy with
  | .live => true
  | .snapshot id => ((s.chan r.channel).snapshot? id).isSome

/-- The record that a region of a snapshot names is READY. -/
def State.regionReady (s : State) (r : Region) : Bool :=
  match r.copy with
  | .live => true
  | .snapshot id => ((s.chan r.channel).snapshot? id).any Snapshot.ready

/-- A region within its bank, or a SET region that is the whole set (R105, R111 step 5). -/
def Region.fits (r : Region) (p : Profile) : Bool :=
  match r.bank with
  | .set => r.first == 0 && r.count == p.setTaps
  | .near | .far | .equal => decide (r.first + r.count ≤ p.bankTaps r.bank)

/-- Two sets with the same bank sizes (R111 step 5). -/
def Profile.sameSizes (p q : Profile) : Bool := p.near == q.near && p.far == q.far && p.eq == q.eq

/-- Source and destination agree (R111 step 5): equal counts, and for two SET regions equal bank sizes. -/
def State.regionsAgree (s : State) (a b : Region) : Bool :=
  a.count == b.count
    && (a.bank != .set || (s.chan a.channel).profile.sameSizes (s.chan b.channel).profile)

/-- The regions of an order fit (R111 step 5). -/
def State.workFits (s : State) (w : Work) : Bool :=
  w.regions.all (fun r => r.fits (s.chan r.channel).profile) &&
    match w with
    | .copy a b _ | .blend a b _ => s.regionsAgree a b
    | .fill .. | .expand .. | .capture .. | .restore .. => true

/-- How many orders of origin COMMAND a port has in the queue (R113). -/
def State.commandOrders (s : State) (p : Port) : Nat := s.mover.countP fun o => o.origin == .command && o.port == p

/-- The status with which an order of port `p` is refused: checks 3 to 6 of R111, in their order. -/
def State.moveRefusal (s : State) (p : Port) (w : Work) : Option Status :=
  match w.regions.findSome? fun r => (s.chan r.channel).standing p with
  | some status => some status
  | none =>
    if !w.regions.all s.regionFound then some .notFound
    else if !w.regions.all s.regionReady then some .wrongState
    else if !s.workFits w then some .badParam
    else if 16 ≤ s.mover.length ∨ 6 ≤ s.commandOrders p then some .busy
    else none

/-- The order that an accepted MOVE enqueues (R112). -/
def commandOrder (p : Port) (tag : Byte) (w : Work) : Order where
  tag := tag
  port := p
  origin := .command
  rollback := false
  work := w
  total := w.dest.count
  progress := 0

/-- MOVE (R111, R112). -/
def moveTaps (p : Port) (tag : Byte) (params : MoveParams) (s : State) : Reply :=
  if params.inRange then
    match params.work? with
    | none => s.refuse .badChannel
    | some w =>
      match s.moveRefusal p w with
      | some status => s.refuse status
      | none =>
        (s.enqueue (commandOrder p tag w)).answer
          (enc1 tag.toNat ++ enc2 w.dest.count ++ enc1 s.mover.length)
  else s.refuse .badParam

def moveAct (p : Port) (tag : Byte) (params : List Byte) (s : State) : Reply :=
  withParams parseMove params (moveTaps p tag) s

def execMove (p : Port) (tag : Byte) (params : List Byte) (s : State) : Host.Outcome State Fault Refusal :=
  .next (takeCommand p tag params (moveAct p tag params) s)

/-! ### CANCEL_MOVE (R117, R118) -/

/-- The place in the queue of the oldest order of a port with a tag (R118). -/
def State.orderPlace (s : State) (p : Port) (tag : Nat) : Option Nat :=
  s.mover.findIdx? fun o => o.port == p && o.tag.toNat == tag

/-- The order at a place is cancelled (R117): it leaves the queue, ends, and the first order left is head. -/
def State.cancelOrder (s : State) (place : Nat) (o : Order) : State :=
  (State.endEarly .cancelled (s.setMover (s.mover.eraseIdx place)) o).markHead

/-- CANCEL_MOVE of an order tag (R118): kind, QUEUED 0 or IN FLIGHT 1, progress (log 16). The pool is compared after
MOVE_DONE (log 31). -/
def cancelMove (p : Port) (tag : Nat) (s : State) : Reply :=
  match s.orderPlace p tag with
  | none => s.refuse .notFound
  | some place =>
    match s.mover[place]? with
    | none => s.refuse .notFound
    | some o =>
      (s.closeEvent (s.cancelOrder place o)).answer
        (enc1 o.work.code ++ enc1 (boolCode (place == 0)) ++ enc2 o.progress)

def cancelMoveAct (p : Port) (params : List Byte) (s : State) : Reply := withParams parseByte params (cancelMove p) s

def execCancelMove (p : Port) (tag : Byte) (params : List Byte) (s : State) : Host.Outcome State Fault Refusal :=
  .next (takeCommand p tag params (cancelMoveAct p params) s)

/-! ### MOVER_STATUS (R121) -/

/-- One entry of MOVER_STATUS (R121). -/
def Order.item (o : Order) (position : Nat) : List Byte :=
  enc1 position ++ enc1 o.tag.toNat ++ enc1 o.port.val ++ enc1 o.origin.code ++ enc1 o.work.code
    ++ enc1 o.work.channel.val ++ enc2 o.progress ++ enc2 o.total

/-- MOVER_STATUS from position `first`; nothing changes (R121). -/
def listOrders (first : Nat) (s : State) : Reply :=
  if 15 < first then s.refuse .badParam
  else
    let entries := (s.mover.zipIdx.drop first).take 5
    s.answer (enc1 s.mover.length ++ (allPorts.flatMap fun q => enc1 (s.commandOrders q))
      ++ encList (fun (o, i) => o.item i) entries)

def moverStatusAct (params : List Byte) (s : State) : Reply := withParams parseByte params listOrders s

def execMoverStatus (p : Port) (tag : Byte) (params : List Byte) (s : State) : Host.Outcome State Fault Refusal :=
  .next (takeCommand p tag params (moverStatusAct params) s)

end Sys2Proof.Machine
end

