-- ==== Sys2Proof/Machine/Notices.lean ====
section
/-! DEFINITION. The Notice Unit's commands (R168 to R171): READ_NOTICES, MASK_NOTICES, DISCARD_NOTICES. How a notice
arrives at a queue stands in Ops.lean. -/

namespace Sys2Proof.Machine

/-! ### READ_NOTICES (R168) -/

/-- The first `k` elements that `which` names, in order, and the list without them. -/
def takeFirst {α : Type} (which : α → Bool) : Nat → List α → List α × List α
  | _, [] => ([], [])
  | 0, rest => ([], rest)
  | k + 1, x :: rest =>
    if which x then
      let (taken, left) := takeFirst which k rest
      (x :: taken, left)
    else
      let (taken, left) := takeFirst which (k + 1) rest
      (taken, x :: left)

/-- What a read of a queue returns and what it leaves: up to 6 notices, the urgent ones first, oldest first, then the
routine ones, oldest first (R168). -/
def readQueue (queue : List Notice) : List Notice × List Notice :=
  let (urgent, left) := takeFirst (fun n : Notice => n.kind.urgent) 6 queue
  let (routine, left) := takeFirst (fun n : Notice => !n.kind.urgent) (6 - urgent.length) left
  (urgent ++ routine, left)

/-- READ_NOTICES: the notices are removed, the overflow flag is reported and cleared, ATTN is judged (R168, R169). -/
def readNotices (p : Port) (s : State) : Reply :=
  let r := s.port p
  let (taken, left) := readQueue r.queue
  (s.modPort p fun r => ({ r with queue := left, overflow := false }).judgeAttn).answer
    (enc1 taken.length ++ enc1 left.length ++ enc1 (boolCode r.overflow) ++ taken.flatMap Notice.bytes)

def readNoticesAct (p : Port) (params : List Byte) (s : State) : Reply :=
  withParams parseNone params (fun () s => readNotices p s) s

def execReadNotices (p : Port) (tag : Byte) (params : List Byte) (s : State) : Host.Outcome State Fault Refusal :=
  .next (takeCommand p tag params (readNoticesAct p params) s)

/-! ### MASK_NOTICES (R169) -/

/-- The set of kinds that a list of codes names, in the order of the codes; none where a code is none of the 19 or the
list has more than 19 items (R169; log 20). -/
def maskOf (codes : List Nat) : Option (List NoticeKind) :=
  if codes.length ≤ 19 ∧ codes.all (fun code => (NoticeKind.ofCode code).isSome) then
    some (NoticeKind.all.filter fun k => codes.contains k.code)
  else none

/-- MASK_NOTICES: the set replaces the mask and ATTN is judged; the response gives the old mask and how many queued
notices are unmasked under the new one (R169). -/
def maskNotices (p : Port) (codes : List Nat) (s : State) : Reply :=
  match maskOf codes with
  | none => s.refuse .badParam
  | some mask =>
    let r := s.port p
    (s.modPort p fun r => ({ r with mask }).judgeAttn).answer
      (encList (fun k : NoticeKind => enc1 k.code) r.mask
        ++ enc1 (r.queue.countP fun n => !mask.contains n.kind))

def maskNoticesAct (p : Port) (params : List Byte) (s : State) : Reply :=
  withParams parseMask params (maskNotices p) s

def execMaskNotices (p : Port) (tag : Byte) (params : List Byte) (s : State) : Host.Outcome State Fault Refusal :=
  .next (takeCommand p tag params (maskNoticesAct p params) s)

/-! ### DISCARD_NOTICES (R170) -/

/-- DISCARD_NOTICES of a kind: every queued notice of it is removed, ATTN is judged, the overflow flag stays (R170). -/
def discardNotices (p : Port) (code : Nat) (s : State) : Reply :=
  match NoticeKind.ofCode code with
  | none => s.refuse .badParam
  | some kind =>
    (s.modPort p fun r => ({ r with queue := r.queue.filter fun n => n.kind ≠ kind }).judgeAttn).answer
      (enc1 ((s.port p).queue.countP fun n => n.kind == kind))

def discardNoticesAct (p : Port) (params : List Byte) (s : State) : Reply :=
  withParams parseByte params (discardNotices p) s

def execDiscardNotices (p : Port) (tag : Byte) (params : List Byte) (s : State) : Host.Outcome State Fault Refusal :=
  .next (takeCommand p tag params (discardNoticesAct p params) s)

end Sys2Proof.Machine
end

