-- ==== Sys2Proof/Machine/Probe.lean ====
section
/-! DEFINITION. PAUSE_PROBE and RESUME_PROBE (R98, R99), and END_OF_PLAY as an event (R95). -/

namespace Sys2Proof.Machine

/-- The player of a channel in PROBING, with what it holds. -/
def State.playOf (s : State) (n : ChannelNo) : Option (PlayerNo × Play) :=
  if (s.chan n).state = .training .probing then
    (s.chan n).player.bind fun k => (s.play k).map fun play => (k, play)
  else none

/-- The payload of both responses: player number, pointer, remaining count (R98, R99). -/
def playPayload (k : PlayerNo) (play : Play) : List Byte := enc1 k.val ++ enc2 play.pointer ++ enc2 play.remaining

/-- PAUSE_PROBE: a PLAYING player goes to PAUSED and keeps its place (R98). -/
def pauseChannel (n : ChannelNo) (s : State) : Reply :=
  match s.playOf n with
  | some (k, play) =>
    if play.paused then s.refuse .wrongState
    else (s.setPlay k (some { play with paused := true })).answer (playPayload k play)
  | none => s.refuse .wrongState

def pauseProbeAct (p : Port) (params : List Byte) (s : State) : Reply :=
  withParams parseByte params (fun n s => withLessee p n pauseChannel s) s

def execPauseProbe (p : Port) (tag : Byte) (params : List Byte) (s : State) : Host.Outcome State Fault Refusal :=
  .next (takeCommand p tag params (pauseProbeAct p params) s)

/-- RESUME_PROBE: a PAUSED player goes back to PLAYING from its pointer (R99). -/
def resumeChannel (n : ChannelNo) (s : State) : Reply :=
  match s.playOf n with
  | some (k, play) =>
    if play.paused then (s.setPlay k (some { play with paused := false })).answer (playPayload k play)
    else s.refuse .wrongState
  | none => s.refuse .wrongState

def resumeProbeAct (p : Port) (params : List Byte) (s : State) : Reply :=
  withParams parseByte params (fun n s => withLessee p n resumeChannel s) s

def execResumeProbe (p : Port) (tag : Byte) (params : List Byte) (s : State) : Host.Outcome State Fault Refusal :=
  .next (takeCommand p tag params (resumeProbeAct p params) s)

/-- END_OF_PLAY of a player (R95). Where its last code has not been played there is no such event (log 5). -/
def execEndOfPlay (k : PlayerNo) (s : State) : Host.Outcome State Fault Refusal := .next (s.endOfPlay k)

end Sys2Proof.Machine
end

