-- ==== Sys2Proof/Machine/Rings.lean ====
section
/-! DEFINITION. The pool and ring commands (spec/03): POOL_STATUS, SNAPSHOT, RESTORE, DROP_SNAPSHOT, READ_TAPS. -/

namespace Sys2Proof.Machine

/-! ### POOL_STATUS (R50) -/

def State.liveSegments (s : State) : Nat := (allChannels.map fun n => (s.chan n).live.length).sum

def State.snapshotSegments (s : State) : Nat :=
  (allChannels.map fun n => ((s.chan n).ring.map fun r => r.segments.length).sum).sum

/-- POOL_STATUS: the counts of the pool, the flag, the mark; nothing changes (R50). -/
def poolStatus (s : State) : Reply :=
  s.answer (enc2 s.pool.free.length ++ enc2 s.liveSegments ++ enc2 s.snapshotSegments ++ enc2 s.cacheSegments
    ++ enc1 s.cache.length ++ enc1 s.pool.flag.code ++ enc2 s.config.poolLowWater)

def poolStatusAct (params : List Byte) (s : State) : Reply := withParams parseNone params (fun () s => poolStatus s) s

def execPoolStatus (p : Port) (tag : Byte) (params : List Byte) (s : State) : Host.Outcome State Fault Refusal :=
  .next (takeCommand p tag params (poolStatusAct params) s)

/-! ### SNAPSHOT (R55 to R57) -/

/-- The ids from `next` upward, wrapping from 255 to 1. -/
def idsFrom (next : Nat) : List Nat := (List.range 255).map fun i => (next + i - 1) % 255 + 1

/-- The first id, from the next snapshot id upward, that no record of the ring has (R52). -/
def Channel.newId (c : Channel) : Nat :=
  ((idsFrom c.nextSnapshot).find? fun id => !c.ring.any fun r => r.id == id).getD c.nextSnapshot

/-- The oldest READY record with pin count 0 (R56). -/
def Channel.recyclable (c : Channel) : Option Snapshot := c.ring.find? fun r => r.ready && r.pins == 0

/-- Where SNAPSHOT found its room: segments of the free set, or a record that is retired (R56). -/
structure SnapshotRoom where
  segments : List Nat
  retired : Nat
  taken : Nat
  state : State
deriving DecidableEq, Repr

/-- Room for a snapshot record of a channel, or the status of the refusal (R56). -/
def State.snapshotRoom (s : State) (n : ChannelNo) : Except Status SnapshotRoom :=
  let c := s.chan n
  let need := c.live.length
  if c.ring.length < 3 ∧ need ≤ s.pool.free.length then
    let (segments, s) := s.takeSegments need
    .ok ⟨segments, 0, need, s⟩
  else
    match c.recyclable with
    | some r => .ok ⟨r.segments, r.id, 0, s.modChan n fun c => c.dropSnapshot r.id⟩
    | none => .error (if c.ring.length < 3 then .noSpace else .busy)

/-- The record that SNAPSHOT creates: FILLING, window start 0 inactive, the channel's figure (R51, R57). -/
def Channel.addSnapshot (c : Channel) (segments : List Nat) : Channel :=
  let id := c.newId
  { c with
    ring := c.ring ++ [{ id, ready := false, segments, window := .inactive,
                         figure := (c.measured.map Measurements.figure).getD 0, pins := 0 }]
    nextSnapshot := id % 255 + 1 }

/-- An internal order on a whole set of a channel, issued in the lessee's name (R104, R105). -/
def internalOrder (p : Port) (tag : Byte) (work : Work) (total : Nat) : Order where
  tag := tag
  port := p
  origin := .internal
  rollback := false
  work := work
  total := total
  progress := 0

/-- SNAPSHOT on a channel by its lessee (R55 to R57). The CAPTURE's enqueue pins the record (R53). -/
def snapshotChannel (p : Port) (tag : Byte) (n : ChannelNo) (s : State) : Reply :=
  if (s.chan n).state = .releasing then s.refuse .wrongState
  else
    match s.snapshotRoom n with
    | .error status => s.refuse status
    | .ok room =>
      if 16 ≤ s.mover.length then s.refuse .busy
      else
        let id := (room.state.chan n).newId
        let made := room.state.modChan n fun c => c.addSnapshot room.segments
        let c := made.chan n
        (s.closeEvent (made.enqueue (internalOrder p tag (.capture n id) c.profile.setTaps))).answer
          (enc1 id ++ enc1 room.retired ++ enc1 room.taken ++ enc1 ((c.measured.map Measurements.figure).getD 0))

def snapshotAct (p : Port) (tag : Byte) (params : List Byte) (s : State) : Reply :=
  withParams parseByte params (fun n s => withLessee p n (snapshotChannel p tag) s) s

def execSnapshot (p : Port) (tag : Byte) (params : List Byte) (s : State) : Host.Outcome State Fault Refusal :=
  .next (takeCommand p tag params (snapshotAct p tag params) s)

/-! ### RESTORE (R58) -/

/-- RESTORE of a snapshot into the live set of a channel by its lessee: an internal RESTORE order is enqueued (R58). -/
def restoreChannel (p : Port) (tag : Byte) (id : Nat) (n : ChannelNo) (s : State) : Reply :=
  let c := s.chan n
  if c.state = .releasing then s.refuse .wrongState
  else if id = 0 ∨ 255 < id then s.refuse .badParam
  else
    match c.snapshot? id with
    | none => s.refuse .notFound
    | some r =>
      if r.ready then
        if 16 ≤ s.mover.length then s.refuse .busy
        else (s.enqueue (internalOrder p tag (.restore n id) c.profile.setTaps)).answer
          (enc1 r.figure ++ r.window.bytes)
      else s.refuse .wrongState

def restoreAct (p : Port) (tag : Byte) (params : List Byte) (s : State) : Reply :=
  withParams parseChannelByte params (fun a s => withLessee p a.1 (restoreChannel p tag a.2) s) s

def execRestore (p : Port) (tag : Byte) (params : List Byte) (s : State) : Host.Outcome State Fault Refusal :=
  .next (takeCommand p tag params (restoreAct p tag params) s)

/-! ### DROP_SNAPSHOT (R59) -/

/-- DROP_SNAPSHOT of a channel's record by its lessee, RELEASING included (R59). -/
def dropChannelSnapshot (id : Nat) (n : ChannelNo) (s : State) : Reply :=
  if id = 0 ∨ 255 < id then s.refuse .badParam
  else
    match (s.chan n).snapshot? id with
    | none => s.refuse .notFound
    | some r =>
      if 0 < r.pins then s.refuse .busy
      else (s.closeEvent (s.removeSnapshot n id)).answer (enc1 r.segments.length)

def dropSnapshotAct (p : Port) (params : List Byte) (s : State) : Reply :=
  withParams parseChannelByte params (fun a s => withLessee p a.1 (dropChannelSnapshot a.2) s) s

def execDropSnapshot (p : Port) (tag : Byte) (params : List Byte) (s : State) : Host.Outcome State Fault Refusal :=
  .next (takeCommand p tag params (dropSnapshotAct p params) s)

/-! ### READ_TAPS (R60) -/

/-- The copy a byte names: 0 LIVE, or a snapshot id (R179). -/
def copyOf (code : Nat) : Copy := if code = 0 then .live else .snapshot code

/-- Whether the copy exists: LIVE, or a record in the ring. -/
def Channel.hasCopy (c : Channel) : Copy → Bool
  | .live => true
  | .snapshot id => (c.snapshot? id).isSome

/-- READ_TAPS of a channel not VACANT, by any joined port; nothing changes (R60). -/
def readTapsChannel (a : ReadTapsParams) (n : ChannelNo) (s : State) : Reply :=
  let c := s.chan n
  if c.state = .vacant then s.refuse .wrongState
  else
    match Bank.ofCode a.bank with
    | none | some .set => s.refuse .badParam
    | some bank =>
      if 511 < a.first ∨ a.count = 0 ∨ 32 < a.count ∨ c.profile.bankTaps bank < a.first + a.count then
        s.refuse .badParam
      else if c.hasCopy (copyOf a.copy) then
        s.answer ((List.range a.count).flatMap fun i => enc2 (s.tap n (copyOf a.copy) bank (a.first + i)))
      else s.refuse .notFound

def readTapsAct (params : List Byte) (s : State) : Reply :=
  withParams parseReadTaps params (fun a s => withChannel a.channel (readTapsChannel a) s) s

def execReadTaps (p : Port) (tag : Byte) (params : List Byte) (s : State) : Host.Outcome State Fault Refusal :=
  .next (takeCommand p tag params (readTapsAct params) s)

end Sys2Proof.Machine
end

