-- ==== Sys2Proof/Machine/Dispatch.lean ====
section
/-! DEFINITION. One arm per command: the command's meaning. -/

namespace Sys2Proof.Machine

def exec (i : Instr) (s : State) : Host.Outcome State Fault Refusal :=
  match i with
  | .join port tag params => Sys2Proof.Machine.execJoin port tag params s
  | .keep port tag params => Sys2Proof.Machine.execKeep port tag params s
  | .leave port tag params => Sys2Proof.Machine.execLeave port tag params s
  | .attach port tag params => Sys2Proof.Machine.execAttach port tag params s
  | .release port tag params => Sys2Proof.Machine.execRelease port tag params s
  | .retrain port tag params => Sys2Proof.Machine.execRetrain port tag params s
  | .adopt port tag params => Sys2Proof.Machine.execAdopt port tag params s
  | .setPolicy port tag params => Sys2Proof.Machine.execSetPolicy port tag params s
  | .clearHolds port tag params => Sys2Proof.Machine.execClearHolds port tag params s
  | .adapt port tag params => Sys2Proof.Machine.execAdapt port tag params s
  | .query port tag params => Sys2Proof.Machine.execQuery port tag params s
  | .pauseProbe port tag params => Sys2Proof.Machine.execPauseProbe port tag params s
  | .resumeProbe port tag params => Sys2Proof.Machine.execResumeProbe port tag params s
  | .poolStatus port tag params => Sys2Proof.Machine.execPoolStatus port tag params s
  | .snapshot port tag params => Sys2Proof.Machine.execSnapshot port tag params s
  | .restore port tag params => Sys2Proof.Machine.execRestore port tag params s
  | .dropSnapshot port tag params => Sys2Proof.Machine.execDropSnapshot port tag params s
  | .readTaps port tag params => Sys2Proof.Machine.execReadTaps port tag params s
  | .move port tag params => Sys2Proof.Machine.execMove port tag params s
  | .cancelMove port tag params => Sys2Proof.Machine.execCancelMove port tag params s
  | .moverStatus port tag params => Sys2Proof.Machine.execMoverStatus port tag params s
  | .cacheList port tag params => Sys2Proof.Machine.execCacheList port tag params s
  | .cachePurge port tag params => Sys2Proof.Machine.execCachePurge port tag params s
  | .readNotices port tag params => Sys2Proof.Machine.execReadNotices port tag params s
  | .maskNotices port tag params => Sys2Proof.Machine.execMaskNotices port tag params s
  | .discardNotices port tag params => Sys2Proof.Machine.execDiscardNotices port tag params s
  | .claim port tag params => Sys2Proof.Machine.execClaim port tag params s
  | .yieldClaim port tag params => Sys2Proof.Machine.execYieldClaim port tag params s
  | .setConfig port tag params => Sys2Proof.Machine.execSetConfig port tag params s
  | .getConfig port tag params => Sys2Proof.Machine.execGetConfig port tag params s
  | .resetPart port tag params => Sys2Proof.Machine.execResetPart port tag params s
  | .unknownCommand port code tag params => Sys2Proof.Machine.execUnknownCommand port code tag params s
  | .badFrame port bytes stray => Sys2Proof.Machine.execBadFrame port bytes stray s
  | .readTransfer port clocked => Sys2Proof.Machine.execReadTransfer port clocked s
  | .reset => Sys2Proof.Machine.execReset s
  | .lockedFrame lineIn pumpIn => Sys2Proof.Machine.execLockedFrame lineIn pumpIn s
  | .endOfPlay player => Sys2Proof.Machine.execEndOfPlay player s
  | .frameBoundary pulseAt pulseElsewhere => Sys2Proof.Machine.execFrameBoundary pulseAt pulseElsewhere s
  | .huntPulse spacing => Sys2Proof.Machine.execHuntPulse spacing s
  | .noClock => Sys2Proof.Machine.execNoClock s
  | .epochEnd => Sys2Proof.Machine.execEpochEnd s
  | .orderComplete => Sys2Proof.Machine.execOrderComplete s
  | .drainExpiry chan => Sys2Proof.Machine.execDrainExpiry chan s
  | .leaseExpiry port => Sys2Proof.Machine.execLeaseExpiry port s
  | .holdExpiry chan => Sys2Proof.Machine.execHoldExpiry chan s
  | .strandExpiry chan => Sys2Proof.Machine.execStrandExpiry chan s
  | .cacheAged => Sys2Proof.Machine.execCacheAged s
  | .timebaseTick => Sys2Proof.Machine.execTimebaseTick s

end Sys2Proof.Machine
end

