-- ==== Sys2Proof/Safety.lean ====
section
/-! DEFINITION. What the statements speak of: states in which nothing is due, what an answered command leaves at its
port, what an event can and cannot touch, and the invariants of the part. -/

namespace Sys2Proof.Machine

/-! ### States and answers -/

/-- Nothing comes before the next command (log 6): no play has ended, and no epoch end is due. -/
def State.quiet (s : State) : Bool := allPlayers.all (fun k => !(s.play k).any Play.ended) && !s.epochDue

/-- What a command taken from a joined port leaves at its port (R137, R172, R175): LIVE, the lease period in force
loaded, the response held, 0xFF driven in every byte of the transfer. -/
def State.answered (s : State) (p : Port) (params : List Byte) (r : Response) : State :=
  s.modPort p fun q =>
    { q with link := .live, lease := some s.config.leasePeriod, held := some r, linkOut := commandEcho params }

/-- What a command taken from a port in ABSENT leaves at it (R175, R178): nothing is renewed. -/
def State.answeredAbsent (s : State) (p : Port) (params : List Byte) (r : Response) : State :=
  s.modPort p fun q => { q with held := some r, linkOut := commandEcho params }

/-- Port `p` is in GRACE or LIVE and nothing is due: a command of the port is taken and carried out by its block. -/
structure State.Ready (s : State) (p : Port) : Prop where
  quiet : s.quiet = true
  joined : (s.port p).joined = true

/-- A channel number as the parameter byte that names it. -/
def chanByte (n : ChannelNo) : Byte := BitVec.ofNat 8 n.val

/-- The port, tag and parameter bytes of a command of Table 11-1. -/
def frameOf : Instr → Option (Port × Byte × List Byte)
  | .join p t ps | .keep p t ps | .leave p t ps | .attach p t ps | .release p t ps | .retrain p t ps
  | .adopt p t ps | .setPolicy p t ps | .clearHolds p t ps | .adapt p t ps | .query p t ps
  | .pauseProbe p t ps | .resumeProbe p t ps | .poolStatus p t ps | .snapshot p t ps | .restore p t ps
  | .dropSnapshot p t ps | .readTaps p t ps | .move p t ps | .cancelMove p t ps | .moverStatus p t ps
  | .cacheList p t ps | .cachePurge p t ps | .readNotices p t ps | .maskNotices p t ps
  | .discardNotices p t ps | .claim p t ps | .yieldClaim p t ps | .setConfig p t ps | .getConfig p t ps
  | .resetPart p t ps => some (p, t, ps)
  | _ => none

/-- The channel number that a lessee command (R10 step 5) names, where its parameter bytes are as many as it takes. -/
def lesseeChannelOf : Instr → Option Nat
  | .release _ _ ps | .clearHolds _ _ ps | .pauseProbe _ _ ps | .resumeProbe _ _ ps | .snapshot _ _ ps => parseByte ps
  | .retrain _ _ ps | .restore _ _ ps | .dropSnapshot _ _ ps => (parseChannelByte ps).map Prod.fst
  | .adapt _ _ ps => (parseChannelWord ps).map Prod.fst
  | .setPolicy _ _ ps => (parseSetPolicy ps).map Prod.fst
  | _ => none

/-- Whether the parameter bytes of a command are as many as its parameters take (R177 step 3). -/
def paramsReadable : Instr → Bool
  | .join _ _ ps | .keep _ _ ps | .leave _ _ ps | .poolStatus _ _ ps | .readNotices _ _ ps | .claim _ _ ps
  | .yieldClaim _ _ ps | .getConfig _ _ ps | .resetPart _ _ ps => (parseNone ps).isSome
  | .release _ _ ps | .adopt _ _ ps | .clearHolds _ _ ps | .query _ _ ps | .pauseProbe _ _ ps | .resumeProbe _ _ ps
  | .snapshot _ _ ps | .cancelMove _ _ ps | .moverStatus _ _ ps | .cacheList _ _ ps
  | .discardNotices _ _ ps => (parseByte ps).isSome
  | .retrain _ _ ps | .restore _ _ ps | .dropSnapshot _ _ ps => (parseChannelByte ps).isSome
  | .adapt _ _ ps => (parseChannelWord ps).isSome
  | .cachePurge _ _ ps => (parseWord ps).isSome
  | .attach _ _ ps => (parseAttach ps).isSome
  | .setPolicy _ _ ps => (parseSetPolicy ps).isSome
  | .setConfig _ _ ps => (parseSetConfig ps).isSome
  | .maskNotices _ _ ps => (parseMask ps).isSome
  | .readTaps _ _ ps => (parseReadTaps ps).isSome
  | .move _ _ ps => (parseMove ps).isSome
  | _ => true

/-! ### What an event can touch -/

/-- The notice stands in the port's queue, or was dropped at a full queue (R167). -/
def PortRecord.Told (r : PortRecord) (n : Notice) : Prop := n ∈ r.queue ∨ r.overflow = true

/-- What the cancel or the abort of orders does to the record of channel `n` (R117): the record of a CAPTURE leaves the
ring, other records lose a pin for each order that named them, a rollback order is forgotten. -/
def Channel.afterAborts (orders : List Order) (n : ChannelNo) (c : Channel) : Channel :=
  { c with
    ring := (c.ring.filter fun r => !orders.any fun o => o.work == .capture n r.id).map fun r =>
      { r with pins := r.pins - orders.countP fun o => decide ((n, r.id) ∈ o.work.snapshots) }
    rollback := if orders.any (fun o => o.rollback && o.work.channel == n) then none else c.rollback }

/-- `d` is channel `n`, that was `c`, after the orders have ended early; a new head may have marked it for the epoch
(R65, R114). -/
def Channel.OrdersEnded (orders : List Order) (n : ChannelNo) (c d : Channel) : Prop :=
  ∃ marks, d = { c.afterAborts orders n with marks := marks }

/-- What a grant leaves of any channel: as it was, or PROBING with a player and its run counters clear (R93). -/
def Channel.GrantedOr (c d : Channel) : Prop :=
  d = c ∨ ∃ k, d = { c.enter (.training .probing) with player := some k }

/-- What an event about other channels leaves of channel `n`: orders that touched it may have ended early, and it may
have been granted a player. -/
def Channel.Served (orders : List Order) (n : ChannelNo) (c d : Channel) : Prop :=
  ∃ e, c.OrdersEnded orders n e ∧ e.GrantedOr d

/-- The snapshot records of a ring but for their pin counts. -/
def Channel.records (c : Channel) : List Snapshot := c.ring.map fun r => { r with pins := 0 }

/-- `t` holds at every port what `s` holds, but for notices that have arrived at joined ports (R163, R167). -/
def State.Heard (s t : State) : Prop :=
  ∀ q, ∃ ns : List Notice,
    t.port q = if (s.port q).joined then ns.foldl PortRecord.arrive (s.port q) else s.port q

/-- What port `q`, joined, has heard between `s` and `t`: of MOVE_DONE exactly the notices `done`, of CACHE_EVICTED exactly
`evicted`, each in this order, and whatever of other kinds (R163, R167). -/
def State.Raised (s t : State) (q : Port) (done evicted : List Notice) : Prop :=
  ∃ all : List Notice, t.port q = all.foldl PortRecord.arrive (s.port q)
    ∧ (all.filter fun x => x.kind == .moveDone) = done ∧ (all.filter fun x => x.kind == .cacheEvicted) = evicted

/-- The notices of orders that are aborted, to port `q`, the one nearest the head first (R119, R120): status ABORTED,
order tag, kind, taps processed. -/
def abortNotices (orders : List Order) (q : Port) : List Notice :=
  (orders.filter fun o => o.port == q).map fun o => ⟨.moveDone, some o.work.channel,
    [2, (o.tag.toNat : Int), (o.work.code : Int), (o.progress : Int)]⟩

/-- The notices of entries that leave, one after the other, a cache that held `held` (R132): the place of the reason in
CLAIMED, REPLACED, FULL, AGED, PURGED, the route tag, the segments returned, the entries left. -/
def evictNotices (reason held : Nat) (gone : List CacheEntry) : List Notice :=
  gone.mapIdx fun i e => ⟨.cacheEvicted, none,
    [(reason : Int), (e.routeTag : Int), (e.segments.length : Int), (held - (i + 1) : Nat)]⟩

/-- The notices of a park under a route tag (R125): REPLACED for an entry with the tag, FULL for the oldest-parked entry
of a cache still full. -/
def parkNotices (entries : List CacheEntry) (tag : Nat) : List Notice :=
  let kept := entries.filter fun e => e.routeTag ≠ tag
  evictNotices 1 entries.length (entries.filter fun e => e.routeTag = tag)
    ++ evictNotices 2 kept.length (if 16 ≤ kept.length then kept.take 1 else [])

/-- `t` differs from `s` at most in the calls and their stores (channels, pool, players, probe queue, mover, cache, park
counter) and by notices that have arrived. -/
structure State.Within (s t : State) : Prop where
  pending : t.pending = s.pending
  freeIndex : t.freeIndex = s.freeIndex
  claim : t.claim = s.claim
  config : t.config = s.config
  highway : t.highway = s.highway
  timebase : t.timebase = s.timebase
  heard : s.Heard t

/-- The pool's comparison at the end of an event that leaves `t` (R48, R49): where the free count or the mark has changed,
the flag goes LOW below the mark and NORMAL at 16 above it or more, and a change of it is broadcast. -/
structure State.PoolJudged (s t : State) : Prop where
  flag : t.pool.flag =
    if t.pool.free.length = s.pool.free.length ∧ t.config.poolLowWater = s.config.poolLowWater then s.pool.flag
    else if t.pool.free.length < t.config.poolLowWater then .low
    else if t.config.poolLowWater + 16 ≤ t.pool.free.length then .normal else s.pool.flag
  low : s.pool.flag = .normal → t.pool.flag = .low → ∀ q, (t.port q).joined = true →
    (t.port q).Told ⟨.poolLow, none, [(t.pool.free.length : Int), (t.config.poolLowWater : Int)]⟩
  recovered : s.pool.flag = .low → t.pool.flag = .normal → ∀ q, (t.port q).joined = true →
    (t.port q).Told ⟨.poolRecovered, none, [(t.pool.free.length : Int), (t.config.poolLowWater : Int)]⟩

/-- How many players are IDLE, one that a channel frees counted with them (R93). -/
def State.idleCount (s : State) (freed : Option PlayerNo) : Nat :=
  allPlayers.countP fun k => (s.play k).isNone || freed == some k

/-- Channel `n` has entered QUEUED as the record `e` at the back of the probe queue, `waiting`, in an event that leaves `t`.
From the front of the queue as many channels have left as players were IDLE; `n` waits in it still, or was granted a
player in the same event and plays its sequence from the first code (R9, R92, R93). -/
def State.InProbe (t : State) (n : ChannelNo) (e : Channel) (waiting : List ChannelNo) (idle : Nat) : Prop :=
  t.probeQueue = waiting.drop idle
    ∧ ((t.chan n = e ∧ n ∈ t.probeQueue)
      ∨ ∃ k, t.chan n = { e.enter (.training .probing) with player := some k }
          ∧ t.play k = some (startPlay n e.profile))

/-- The segments a channel holds: its live list and its snapshot records. -/
def Channel.segments (c : Channel) : List Nat := c.live ++ c.ring.flatMap (·.segments)

/-- The orders that touch a channel (R119). -/
def State.ordersOn (s : State) (n : ChannelNo) : List Order := s.mover.filter fun o => o.work.touches n

/-- What an event leaves in which channel `n` became VACANT with nothing parked (R25): Table 1-2's record, every order
that touches it gone, all its segments free and zero, the pool compared, and nothing else of the stores changed. The
VACANT record's clear epoch marks are the model's choice (logs 21, 33). -/
structure State.Vacated (s t : State) (n : ChannelNo) : Prop where
  within : s.Within t
  chan : t.chan n = .vacant
  others : ∀ m, m ≠ n → (s.chan m).Served (s.ordersOn n) m (t.chan m)
  orders : t.mover = s.mover.filter fun o => !o.work.touches n
  unqueued : n ∉ t.probeQueue
  free : ∀ x, x ∈ t.pool.free ↔ x ∈ s.pool.free ∨ x ∈ (s.chan n).segments
  taps : ∀ a, t.pool.taps.read a = if a / 32 ∈ (s.chan n).segments then 0 else s.pool.taps.read a
  cache : t.cache = s.cache
  parkCounter : t.parkCounter = s.parkCounter
  judged : s.PoolJudged t
  told : ∀ q, (s.port q).joined = true → s.Raised t q (abortNotices (s.ordersOn n) q) []

/-- What a series of parks has done: the cache, the park counter, the segments of the entries that have left, and the
notices that told of them. -/
structure ParkLedger where
  cache : List CacheEntry
  counter : Word32
  freed : List Nat
  told : List Notice
deriving DecidableEq, Repr

/-- One park (R124, R125): an entry with the channel's tag leaves, in a cache still full the oldest-parked one too, and
the live list becomes the newest entry. The counter passes over 0 (log 18), and a figure never measured is 0 (log 29). -/
def ParkLedger.park (now : Word32) (l : ParkLedger) (c : Channel) : ParkLedger :=
  let kept := l.cache.filter fun e => e.routeTag ≠ c.policy.routeTag
  let room := if 16 ≤ kept.length then kept.tail else kept
  let number := if l.counter + 1 = 0 then 1 else l.counter + 1
  { cache := room ++ [⟨c.policy.routeTag, c.profile.near, c.profile.far, c.profile.eq, c.window, c.live,
      (c.measured.map Measurements.figure).getD 0, number, now⟩]
    counter := number
    freed := l.freed ++ (l.cache.filter fun e => !room.contains e).flatMap (·.segments)
    told := l.told ++ parkNotices l.cache c.policy.routeTag }

/-- The completion of order `o` in a state `s` that leaves `t`, `rest` being the orders behind it (R116): a CAPTURE's record
takes the far window and is READY, a RESTORE writes the far window; every record the order names loses a pin; a rollback
order is forgotten, and sets the guard to 100 where its channel has stayed in TRACKING (R85); the next order marks the
channels whose live taps it reads or writes (R114), only while LOCKED (log 21); the issuing port is told; no tap
changes. -/
structure State.Completed (s t : State) (o : Order) (rest : List Order) : Prop where
  within : s.Within t
  orders : t.mover = rest
  told : (s.port o.port).joined = true → (t.port o.port).Told ⟨.moveDone, some o.work.channel,
    [0, (o.tag.toNat : Int), (o.work.code : Int), (o.total : Int)]⟩
  raised : ∀ q, (s.port q).joined = true → s.Raised t q
    (if o.port = q then [⟨.moveDone, some o.work.channel,
      [0, (o.tag.toNat : Int), (o.work.code : Int), (o.total : Int)]⟩] else []) []
  pool : t.pool = s.pool
  players : t.players = s.players
  probeQueue : t.probeQueue = s.probeQueue
  cache : t.cache = s.cache
  parkCounter : t.parkCounter = s.parkCounter
  chan : ∀ m,
    let c := s.chan m
    let filled (r : Snapshot) : Snapshot :=
      if o.work = .capture m r.id then { r with window := c.window, ready := true } else r
    t.chan m = { c with
      ring := c.ring.map fun r =>
        if (m, r.id) ∈ o.work.snapshots then { filled r with pins := r.pins - 1 } else filled r
      window := match o.work with
        | .restore n id =>
          if m = n then ((c.ring.find? fun r => r.id == id).map Snapshot.window).getD c.window else c.window
        | _ => c.window
      guard := if o.rollback = true ∧ m = o.work.channel ∧ c.rollback = some true ∧ c.state = .tracking then some 100
        else c.guard
      rollback := if o.rollback = true ∧ m = o.work.channel then none else c.rollback
      marks := if s.highway.sync = .locked ∧ rest.head?.any (fun x => x.work.touchesLive m) = true then
        { c.marks with mover := true } else c.marks }

/-- The orders that the loss of port `p` aborts (R119): its own, and every order that touches a channel of its. -/
def State.lossAborts (s : State) (p : Port) : List Order :=
  s.mover.filter fun o => o.port == p || allChannels.any fun n =>
    o.work.touches n && (s.chan n).lessee == some p && ((s.chan n).state == .releasing || (s.chan n).state.inCall)

/-- The orders that the channels of a list abort one after the other, each those that touch it and are left, from the
head backward (R119). -/
def abortSequence : List Order → List ChannelNo → List Order
  | _, [] => []
  | orders, n :: rest =>
    (orders.filter fun o => o.work.touches n) ++ abortSequence (orders.filter fun o => !o.work.touches n) rest

/-- What the loss of port `p` frees of the segments of channel `n` (R25, R117, R143): of a release that parks the snapshot
records, of any other release and of a drop everything, of any other channel the records of aborted CAPTUREs. -/
def State.lossFrees (s : State) (p : Port) (n : ChannelNo) : List Nat :=
  let c := s.chan n
  if c.lessee = some p ∧ c.state = .releasing then
    if c.parkEligible = some true then c.ring.flatMap (·.segments) else c.segments
  else if c.isCallOf p ∧ c.holdCount = c.policy.holdLimit then c.segments
  else (c.ring.filter fun r => (s.lossAborts p).any fun o => o.work == .capture n r.id).flatMap (·.segments)

/-- What the loss of port `p` leaves (R140 to R143). The releases of step 3 complete in an order left open (log 1). The clear
epoch marks of a channel that becomes VACANT are the model's choice (logs 21, 33). -/
structure State.PortLost (s t : State) (p : Port) (reason : LossReason) : Prop where
  port : t.port p = { PortRecord.reset with held := (s.port p).held, linkOut := (s.port p).linkOut }
  heard : ∀ q, q ≠ p → ∃ ns : List Notice,
    t.port q = if (s.port q).joined then ns.foldl PortRecord.arrive (s.port q) else s.port q
  orders : t.mover = s.mover.filter fun o => o.port != p && !allChannels.any fun n =>
    o.work.touches n && (s.chan n).lessee == some p && ((s.chan n).state == .releasing || (s.chan n).state.inCall)
  released : ∀ n, (s.chan n).lessee = some p → (s.chan n).state = .releasing → t.chan n = .vacant
  dropped : ∀ n, (s.chan n).isCallOf p = true → (s.chan n).holdCount = (s.chan n).policy.holdLimit →
    t.chan n = .vacant
  orphaned : ∀ n, (s.chan n).isCallOf p = true → (s.chan n).holdCount ≠ (s.chan n).policy.holdLimit →
    ∃ c, (s.chan n).OrdersEnded (s.lossAborts p) n c ∧ t.chan n = { c with
      state := .orphaned, lessee := none, prior := some (s.chan n).state.toPrior, goodRun := 0, badRun := 0, player := none,
      holdCount := c.holdCount + 1, holdTimer := some (c.policy.holdTime.getD 0 * 10) }
  others : ∀ n, (s.chan n).lessee ≠ some p → (s.chan n).Served (s.lossAborts p) n (t.chan n)
  stores : (s.cache.map CacheEntry.routeTag).Nodup → ∃ releases : List ChannelNo,
    releases.Perm (allChannels.filter fun n => (s.chan n).lessee == some p && (s.chan n).state == .releasing) ∧
    let parks := releases.filter fun n => (s.chan n).parkEligible == some true
    let ledger : ParkLedger := parks.foldl (fun l n => l.park s.timebase (s.chan n)) ⟨s.cache, s.parkCounter, [], []⟩
    let aborted := abortSequence (s.mover.filter fun o => o.port != p)
      (releases ++ allChannels.filter fun n => (s.chan n).isCallOf p)
    let freed := ledger.freed ++ allChannels.flatMap (s.lossFrees p)
    t.cache = ledger.cache ∧ t.parkCounter = ledger.counter
      ∧ (∀ x, x ∈ t.pool.free ↔ x ∈ s.pool.free ∨ x ∈ freed)
      ∧ (∀ a, t.pool.taps.read a = if a / 32 ∈ freed then 0 else s.pool.taps.read a)
      ∧ ∀ q, q ≠ p → (s.port q).joined = true → s.Raised t q (abortNotices aborted q) ledger.told
  judged : s.PoolJudged t
  claim : t.claim = if s.claim = some p then none else s.claim
  told : ∀ q, q ≠ p → (s.port q).joined = true → (t.port q).Told ⟨.portLost, none,
    [(p.val : Int), (reason.code : Int),
     (allChannels.countP fun n => (s.chan n).isCallOf p && (s.chan n).holdCount != (s.chan n).policy.holdLimit : Nat),
     (allChannels.countP fun n => (s.chan n).isCallOf p && (s.chan n).holdCount == (s.chan n).policy.holdLimit : Nat)]⟩
  toldOrphaned : ∀ n q, (s.chan n).isCallOf p = true → (s.chan n).holdCount ≠ (s.chan n).policy.holdLimit →
    q ≠ p → (s.port q).joined = true → (t.port q).Told ⟨.channelOrphaned, some n,
      [(p.val : Int), (s.chan n).state.item, ((s.chan n).holdCount + 1 : Nat), ((s.chan n).policy.holdLimit : Int)]⟩
  toldDropped : ∀ n q, (s.chan n).isCallOf p = true → (s.chan n).holdCount = (s.chan n).policy.holdLimit →
    q ≠ p → (s.port q).joined = true → (t.port q).Told ⟨.channelDropped, some n,
      [0, (s.chan n).state.item, ((s.chan n).holdCount : Int)]⟩
  pending : t.pending = s.pending
  freeIndex : t.freeIndex = s.freeIndex + 1
  config : t.config = s.config
  highway : t.highway = s.highway
  timebase : t.timebase = s.timebase

/-- What an entry to HUNTING leaves (R33): the partial epoch discarded, histories and output slots zero, the hunt begun
now, SYNC_LOST broadcast with the frames discarded, the cause and the epoch counter; calls and stores untouched. The
fault count 0 (log 30) and the epoch marks cleared with the partial epoch (log 21) are the model's choice. -/
structure State.SyncLost (s t : State) (cause : SyncCause) : Prop where
  highway : t.highway = { s.highway with
    sync := .hunting, faultCount := 0, runCount := 0, runReference := false, huntStart := s.timebase, epochFrames := 0,
    lineOut := Vector.replicate 48 0, pumpOut := Vector.replicate 48 0 }
  channels : ∀ n, t.chan n = { s.chan n with reference := [], residuals := [], sums := .zero, marks := .clear }
  players : ∀ k, t.play k = (s.play k).map fun p => { p with
    locator := p.locator.map fun l => { l with epoch := .zero l.epoch.correlation.length } }
  heard : s.Heard t
  told : ∀ q, (s.port q).joined = true → (t.port q).Told ⟨.syncLost, none,
    [(s.highway.epochFrames : Int), (cause.code : Int), (s.highway.epochCounter.toNat / 65536 : Nat),
     (s.highway.epochCounter.toNat % 65536 : Nat)]⟩
  rest : t = { s with highway := t.highway, channels := t.channels, players := t.players, ports := t.ports }

/-! ### Invariants -/

/-- Either the probe queue is empty or every player is PLAYING or PAUSED (R93). -/
def State.Granted (s : State) : Prop := s.probeQueue = [] ∨ s.idlePlayer = none

/-- The player that a channel names holds that channel (R91): no two channels name one player. -/
def State.PlayersSound (s : State) : Prop :=
  ∀ n k, (s.chan n).player = some k → (s.play k).map Play.channel = some n

/-- A port record as R135, R166 and R169 give it: ATTN follows the unmasked notices, the queue holds at most 32 notices
and at most one per merge key, an ABSENT port holds no lease and no notice, and a joined one has a lease timer. -/
structure PortRecord.Sound (r : PortRecord) : Prop where
  attn : r.attn = r.queue.any fun n => !r.mask.contains n.kind
  length : r.queue.length ≤ 32
  keys : (r.queue.map Notice.key).Nodup
  absent : r.link = .absent → r.lease = none ∧ r.queue = [] ∧ r.mask = [] ∧ r.overflow = false
  joined : r.link ≠ .absent → r.lease.isSome

/-- Every parameter within its range and on its step, and the orderings kept (R151). -/
def SharedConfig.Legal (c : SharedConfig) : Prop :=
  c.ordered = true
    ∧ ConfigParam.leasePeriod.allows c.leasePeriod = true ∧ ConfigParam.joinGrace.allows c.joinGrace = true
    ∧ ConfigParam.convergence.allows c.convergence = true ∧ ConfigParam.trainingLimit.allows c.trainingLimit = true
    ∧ ConfigParam.contentionMargin.allows c.contentionMargin = true ∧ ConfigParam.fastStep.allows c.fastStep = true
    ∧ ConfigParam.trackingStep.allows c.trackingStep = true ∧ ConfigParam.farFloor.allows c.farFloor = true
    ∧ ConfigParam.cacheLifetime.allows c.cacheLifetime = true ∧ ConfigParam.poolLowWater.allows c.poolLowWater = true
    ∧ ConfigParam.levelWarn.allows c.levelWarn = true ∧ ConfigParam.levelFade.allows c.levelFade = true
    ∧ ConfigParam.levelLoss.allows c.levelLoss = true

/-- The stores that events share: the taps in the canonical form that is the model's (log 14), the free set in ascending
order, at most 16 orders with at most 6 COMMAND orders of a port (R113), at most 16 cache entries, no two with one tag
(R123). -/
structure StoresLegal (taps : Memory) (free : List Nat) (orders : List Order) (entries : List CacheEntry) : Prop where
  canonical : taps.wf = true
  ascending : free.Pairwise (· < ·)
  places : orders.length ≤ 16
  quotas : ∀ p : Port, orders.countP (fun o => o.origin == .command && o.port == p) ≤ 6
  size : entries.length ≤ 16
  tags : (entries.map CacheEntry.routeTag).Nodup

def State.StoresSound (s : State) : Prop := StoresLegal s.pool.taps s.pool.free s.mover s.cache

/-- The highway items within the ranges of section 2.3 and R33, R34: in HUNTING no frame of an epoch counts and every
output slot is zero. The model's choices: an epoch frame count of 80 between the 80th frame and its epoch end (log 6),
run count 0 and no run reference while LOCKED (log 12), fault count 0 in HUNTING (log 30). -/
structure Highway.Sound (h : Highway) : Prop where
  fault : h.faultCount ≤ 1
  run : h.runCount ≤ 15
  epoch : h.epochFrames ≤ 80
  hunting : h.sync = .hunting →
    h.faultCount = 0 ∧ h.epochFrames = 0 ∧ h.lineOut = Vector.replicate 48 0 ∧ h.pumpOut = Vector.replicate 48 0
  locked : h.sync = .locked → h.runCount = 0 ∧ h.runReference = false

/-- The invariant of the part. -/
structure State.Sound (s : State) : Prop where
  ports : ∀ p, (s.port p).Sound
  claim : ∀ p, s.claim = some p → (s.port p).joined = true
  config : s.config.Legal
  stores : s.StoresSound
  highway : s.highway.Sound

/-- The calls as R2, R3, R7, R8, R42, R51, R91 and R92 give them. -/
structure State.CallsSound (s : State) : Prop where
  /-- Every segment has exactly one holder: the free set, a live list, a snapshot record or a cache entry (R42). -/
  holders : ∀ x, (s.pool.free ++ (allChannels.flatMap fun n => (s.chan n).segments)
    ++ s.cache.flatMap (·.segments)).count x = if x < 768 then 1 else 0
  /-- Live lists, snapshot records and cache entries are as long as their profile needs (R3, R51, R123). -/
  sizes : (∀ n, (s.chan n).live.length = (s.chan n).profile.segments
      ∧ ∀ r ∈ (s.chan n).ring, r.segments.length = (s.chan n).profile.segments)
    ∧ ∀ e ∈ s.cache, e.segments.length = bankSegments e.near + bankSegments e.far + bankSegments e.eq
  /-- At most three records, no two with one id (R51). -/
  rings : ∀ n, (s.chan n).ring.length ≤ 3 ∧ ((s.chan n).ring.map Snapshot.id).Nodup
  /-- A VACANT channel holds nothing (R2). -/
  vacant : ∀ n, (s.chan n).state = .vacant → (s.chan n).live = [] ∧ (s.chan n).ring = []
  /-- A channel has a lessee exactly in TRAINING, TRACKING and RELEASING, and the lessee is a joined port (R8). -/
  lessees : ∀ n, ((s.chan n).lessee ≠ none ↔ (s.chan n).state.inCall = true ∨ (s.chan n).state = .releasing)
    ∧ ∀ p, (s.chan n).lessee = some p → (s.port p).joined = true
  /-- The hold count does not exceed the hold limit (R7). -/
  holds : ∀ n, (s.chan n).holdCount ≤ (s.chan n).policy.holdLimit
  /-- The probe queue holds exactly the QUEUED channels, each once (R92). -/
  queued : s.probeQueue.Nodup ∧ ∀ n, n ∈ s.probeQueue ↔ (s.chan n).state = .training .queued
  /-- A channel names a player exactly in PROBING, and a player that plays is the player of its channel (R91). -/
  probing : (∀ n, (s.chan n).player ≠ none ↔ (s.chan n).state = .training .probing)
    ∧ (∀ n k, (s.chan n).player = some k → (s.play k).map Play.channel = some n)
    ∧ ∀ k play, s.play k = some play → (s.chan play.channel).player = some k

end Sys2Proof.Machine
end

