-- ==== Sys2Proof/WellFormed.lean ====
section
/-! DEFINITION. Which terms of `Instr` are commands of the hardware: the operands a transfer can carry (R172 to R174,
R180) and a pulse spacing that can occur (R34). Every value of a parameter byte is a command of the hardware, a
value out of range included: the command's rule refuses it (R177). -/

namespace Sys2Proof

/-- A command frame carries 0..60 parameter bytes (R173). -/
def paramsFit (params : List Byte) : Bool := decide (params.length ≤ 60)

def Instr.wellFormed : Instr → Bool
  | .join _ _ ps | .keep _ _ ps | .leave _ _ ps | .attach _ _ ps | .release _ _ ps | .retrain _ _ ps
  | .adopt _ _ ps | .setPolicy _ _ ps | .clearHolds _ _ ps | .adapt _ _ ps | .query _ _ ps
  | .pauseProbe _ _ ps | .resumeProbe _ _ ps | .poolStatus _ _ ps | .snapshot _ _ ps | .restore _ _ ps
  | .dropSnapshot _ _ ps | .readTaps _ _ ps | .move _ _ ps | .cancelMove _ _ ps | .moverStatus _ _ ps
  | .cacheList _ _ ps | .cachePurge _ _ ps | .readNotices _ _ ps | .maskNotices _ _ ps
  | .discardNotices _ _ ps | .claim _ _ ps | .yieldClaim _ _ ps | .setConfig _ _ ps | .getConfig _ _ ps
  | .resetPart _ _ ps => paramsFit ps
  | .unknownCommand _ code _ ps => paramsFit ps && !codeInTable code && decide (code ≠ 0)
  | .badFrame _ bytes stray => isBadTransfer bytes stray
  | .readTransfer _ clocked => decide (0 < clocked)
  | .huntPulse (some spacing) => decide (0 < spacing)
  | .huntPulse none => true
  | .reset | .lockedFrame .. | .endOfPlay .. | .frameBoundary .. | .noClock | .epochEnd | .orderComplete
  | .drainExpiry .. | .leaseExpiry .. | .holdExpiry .. | .strandExpiry .. | .cacheAged | .timebaseTick => true

end Sys2Proof
end

