-- ==== Sys2Proof/Certificates/Slice0/Obligations.lean ====
section
/-! DEFINITION. The statements for the provers.

A statement about a command of a port is made for a state in which nothing is due (`State.Ready`, `State.quiet`);
`Obligations.DueComesFirst` says how every other state reduces to such a one. -/

open Sys2Proof Sys2Proof.Machine

/-! ### The machine -/

/-- The step of a block: the command at the front of the queue is carried out on the state with the queue's rest; on an
empty queue the part idles (log 4, the model's choice). -/
def Obligations.StepTakesFront : Prop :=
  (∀ (c : Instr) (rest : List Instr) (s : State), s.pending = c :: rest →
    step s = exec c { s with pending := rest }) ∧
  ∀ s : State, s.pending = [] → step s = .next s

/-- No command stops the part, and none touches the queue of waiting commands. That RESET and an accepted
RESET_PART keep that queue (log 9), that a command whose event does not come about completes with nothing of its own
changed (log 5), and that an ill-formed term completes as its fields give (log 22), is the model's choice. -/
def Obligations.EveryCommandCompletes : Prop :=
  ∀ (c : Instr) (s : State), ∃ t, exec c s = .next t ∧ t.pending = s.pending

/-- What is due, the end of a play or an epoch end, is taken before a command that reaches the part (log 6, the model's
choice). Reset, END_OF_PLAY itself, a bad frame and a read transfer take nothing before them. -/
def Obligations.DueComesFirst : Prop :=
  ∀ (c : Instr) (s : State), c.wellFormed = true → s.settle.quiet = true →
    match c with
    | .reset | .endOfPlay _ | .badFrame .. | .readTransfer .. => True
    | _ => exec c s = exec c s.settle

/-- The RESET pin leaves the values of every reset rule; the queue of waiting commands and the counter of free values
are the model's own and are kept (log 9). That the epoch marks of every channel are clear is the model's choice (log 24). -/
def Obligations.ResetPinResets : Prop :=
  ∀ s : State, ∃ t, exec .reset s = .next t
    ∧ (∀ n, t.chan n = Channel.vacant)
    ∧ (∀ p, (t.port p).link = .absent ∧ (t.port p).lease = none ∧ (t.port p).queue = [] ∧ (t.port p).mask = []
        ∧ (t.port p).overflow = false ∧ (t.port p).attn = false ∧ (t.port p).held = none)
    ∧ t.claim = none ∧ t.config = ⟨250, 2000, 24, 600, 6, 5, 9, -40, 30, 32, -33, -38, -43⟩
    ∧ (∀ x, x ∈ t.pool.free ↔ x < 768) ∧ (∀ a, t.pool.taps.read a = 0) ∧ t.pool.flag = .normal
    ∧ (∀ k, t.play k = none) ∧ t.probeQueue = [] ∧ t.mover = [] ∧ t.cache = [] ∧ t.parkCounter = 0
    ∧ t.highway.sync = .hunting ∧ t.highway.faultCount = 0 ∧ t.highway.runCount = 0
    ∧ t.highway.runReference = false ∧ t.highway.epochFrames = 0 ∧ t.highway.epochCounter = 0
    ∧ t.highway.huntStart = 0 ∧ t.timebase = 0
    ∧ (∀ n : ChannelNo, t.highway.lineOut.get n = 0 ∧ t.highway.pumpOut.get n = 0)
    ∧ t.pending = s.pending ∧ t.freeIndex = s.freeIndex

/-! ### The command link (spec/11) -/

/-- The transfer that a link command is reads back as that command, with every operand. -/
def Obligations.TransfersReadBack : Prop :=
  ∀ (i : Instr) (p : Port) (bytes : List Byte) (stray : Bool), i.wellFormed = true →
    transferBytes i = some (p, bytes, stray) → transferCommand p bytes stray = some i

/-- The layout of a command frame (R173): code, tag, length, parameters, check. -/
def Obligations.CommandFrameLayout : Prop :=
  ∀ (p : Port) (code tag : Byte) (params : List Byte), code ≠ 0 → params.length ≤ 60 →
    let frame := layFrame code tag params
    frame[0]? = some code ∧ frame[1]? = some tag ∧ frame[2]? = some (BitVec.ofNat 8 params.length)
      ∧ (frame.drop 3).take params.length = params
      ∧ frame.length = 4 + params.length ∧ 4 ≤ frame.length ∧ frame.length ≤ 64
      ∧ (frame.map BitVec.toNat).sum % 256 = 0
      ∧ transferCommand p frame false
          = some ((tableCommand p code tag params).getD (.unknownCommand p code tag params))

/-- A bad frame is no command (R174): nothing of any block changes and no lease is renewed, and a BAD_FRAME response
replaces the held one. A frame that is not bad is taken as a command, read as it stands. -/
def Obligations.BadFrameDiscarded : Prop :=
  ∀ (s : State) (p : Port) (bytes : List Byte) (stray : Bool), bytes ≠ [] → bytes.head? ≠ some 0 →
    if bytes.length < 4 ∨ stray = true ∨ 60 < (bytes.getD 2 0).toNat ∨ bytes.length ≠ 4 + (bytes.getD 2 0).toNat
        ∨ (bytes.map BitVec.toNat).sum % 256 ≠ 0 then
      transferCommand p bytes stray = some (.badFrame p bytes stray)
        ∧ exec (.badFrame p bytes stray) s = .next (s.modPort p fun q =>
            { q with held := some ⟨.badFrame, bytes.getD 1 0, []⟩, linkOut := List.replicate bytes.length 0xFF })
    else
      let code := bytes.getD 0 0
      let params := (bytes.drop 3).take (bytes.getD 2 0).toNat
      transferCommand p bytes stray = some ((tableCommand p code (bytes.getD 1 0) params).getD
        (.unknownCommand p code (bytes.getD 1 0) params))

/-- A read transfer delivers the held response from its first byte, or the EMPTY frame, and 0x00 beyond its end; the held
response becomes none when the whole frame was clocked out, and nothing else changes (R176). -/
def Obligations.ReadTransferDelivers : Prop :=
  ∀ (s : State) (p : Port) (clocked : Nat), 0 < clocked →
    match (s.port p).held with
    | none => exec (.readTransfer p clocked) s = .next (s.modPort p fun q =>
        { q with linkOut := (([0x01, 0x00, 0x00, 0xFF] : List Byte) ++ List.replicate clocked 0).take clocked })
    | some r =>
      if clocked < r.bytes.length then
        exec (.readTransfer p clocked) s = .next (s.modPort p fun q => { q with linkOut := r.bytes.take clocked })
      else
        exec (.readTransfer p clocked) s = .next (s.modPort p fun q =>
          { q with held := none, linkOut := r.bytes ++ List.replicate (clocked - r.bytes.length) 0 })

/-- Steps 1 to 3 of R177: a code not in Table 11-1 is answered UNKNOWN_COMMAND from any port, and renews a joined one;
from a port in ABSENT every command of the table but JOIN is refused NOT_JOINED; from a joined port parameter bytes
that are not as many as the command takes are refused BAD_PARAM, but for a JOIN, refused WRONG_STATE; a JOIN with
parameters from a port in ABSENT is refused BAD_PARAM. Nothing else changes. The ten lessee commands refuse, in this
order, a channel number above 47, a channel without a lessee, and a channel of another port; QUERY, ADOPT and READ_TAPS
refuse a channel number above 47 (R10 steps 1, 2, 4 and 5). That SET_POLICY's channel number is its first
byte (log 34), that the count of READ_TAPS is one byte and its parameters six (log 16), and that parameter bytes beyond a
frame's 60 are answered as they stand (log 22), is the model's choice. -/
def Obligations.AcceptanceChecks : Prop :=
  (∀ (s : State) (p : Port) (code tag : Byte) (params : List Byte), s.quiet = true → codeInTable code = false →
    code ≠ 0 → exec (.unknownCommand p code tag params) s = .next
      (if (s.port p).joined then s.answered p params ⟨.unknownCommand, tag, []⟩
       else s.answeredAbsent p params ⟨.unknownCommand, tag, []⟩)) ∧
  (∀ (c : Instr) (s : State) (p : Port) (tag : Byte) (params : List Byte), frameOf c = some (p, tag, params) →
    c ≠ .join p tag params → s.quiet = true → (s.port p).link = .absent →
    exec c s = .next (s.answeredAbsent p params ⟨.notJoined, tag, []⟩)) ∧
  (∀ (c : Instr) (s : State) (p : Port) (tag : Byte) (params : List Byte), frameOf c = some (p, tag, params) →
    s.Ready p → paramsReadable c = false →
    exec c s = .next (s.answered p params
      ⟨if c = .join p tag params then .wrongState else .badParam, tag, []⟩)) ∧
  (∀ (s : State) (p : Port) (tag : Byte) (params : List Byte), s.quiet = true → (s.port p).link = .absent → params ≠ [] →
    exec (.join p tag params) s = .next (s.answeredAbsent p params ⟨.badParam, tag, []⟩)) ∧
  (∀ (s : State) (p : Port) (tag b : Byte), s.Ready p → 48 ≤ b.toNat →
    exec (.query p tag [b]) s = .next (s.answered p [b] ⟨.badChannel, tag, []⟩)
      ∧ exec (.adopt p tag [b]) s = .next (s.answered p [b] ⟨.badChannel, tag, []⟩)
      ∧ ∀ copy bank firstHi firstLo count : Byte, let params := [b, copy, bank, firstHi, firstLo, count]
        exec (.readTaps p tag params) s = .next (s.answered p params ⟨.badChannel, tag, []⟩)) ∧
  ∀ (c : Instr) (s : State) (p : Port) (tag : Byte) (params : List Byte) (k : Nat), frameOf c = some (p, tag, params) →
    lesseeChannelOf c = some k → s.Ready p →
    (48 ≤ k → exec c s = .next (s.answered p params ⟨.badChannel, tag, []⟩)) ∧
    ∀ n : ChannelNo, k = n.val →
      ((s.chan n).lessee = none → exec c s = .next (s.answered p params ⟨.wrongState, tag, []⟩)) ∧
      ∀ q, (s.chan n).lessee = some q → q ≠ p → exec c s = .next (s.answered p params ⟨.notLessee, tag, []⟩)

/-- A command taken from a joined port, whatever its answer, renews the port's lease with the lease period that the
command's event leaves, takes GRACE to LIVE, and holds a response with the command's tag; LINK DO carries 0xFF; the
link state, lease, held response and LINK DO of the other ports are untouched (R137, R172, R175). LEAVE and RESET_PART
have their own statements. That parameter bytes beyond a frame's 60 are answered as they stand is the model's choice
(log 22). -/
def Obligations.TakenCommandRenews : Prop :=
  ∀ (c : Instr) (s : State) (p : Port) (tag : Byte) (params : List Byte), frameOf c = some (p, tag, params) →
    c ≠ .leave p tag params → c ≠ .resetPart p tag params → s.Ready p →
    ∃ t status payload, exec c s = .next t
      ∧ (t.port p).link = .live ∧ (t.port p).lease = some t.config.leasePeriod
      ∧ (t.port p).held = some ⟨status, tag, payload⟩
      ∧ (t.port p).linkOut = List.replicate (params.length + 4) 0xFF
      ∧ ∀ q, q ≠ p → (t.port q).link = (s.port q).link ∧ (t.port q).lease = (s.port q).lease
          ∧ (t.port q).held = (s.port q).held ∧ (t.port q).linkOut = (s.port q).linkOut

/-! ### Ports, leases and adoption (spec/08) -/

/-- JOIN (R136): from ABSENT the port goes to GRACE with the join grace, the response gives the standing of the part, and
nothing else changes; from a joined port it is refused WRONG_STATE and renews. -/
def Obligations.JoinTakesPort : Prop :=
  ∀ (s : State) (p : Port) (tag : Byte), s.quiet = true →
    ((s.port p).link = .absent → exec (.join p tag []) s = .next (s.modPort p fun q =>
      { q with
        link := .grace, lease := some s.config.joinGrace, linkOut := [0xFF, 0xFF, 0xFF, 0xFF]
        held := some ⟨.ok, tag, enc1 p.val
          ++ (allPorts.flatMap fun q => enc1 (if q = p then LinkState.grace else (s.port q).link).code)
          ++ encPort? s.claim ++ enc2 s.config.leasePeriod ++ enc2 s.config.joinGrace
          ++ enc1 s.highway.sync.code ++ enc4 s.highway.epochCounter
          ++ enc1 (allChannels.countP fun n => (s.chan n).state == .orphaned)
          ++ enc1 (allChannels.countP fun n => (s.chan n).state == .stranded)⟩ })) ∧
    ((s.port p).joined = true →
      exec (.join p tag []) s = .next (s.answered p [] ⟨.wrongState, tag, []⟩))

/-- KEEP and LEAVE (R138): KEEP renews and does nothing else, and its response gives the port's state after it and the
lease period; LEAVE loses the port with reason LEFT by the cascade, and its response, held although the port is ABSENT,
gives how many channels were orphaned, dropped and released. The order of the releases (log 1), the park number's wrap
(log 18), the figure 0 where never measured (log 29) and the epoch marks that a channel loses on becoming VACANT
(logs 21, 33) are the model's choice. -/
def Obligations.KeepAndLeave : Prop :=
  ∀ (s : State) (p : Port) (tag : Byte), s.Ready p →
    exec (.keep p tag []) s = .next (s.answered p [] ⟨.ok, tag,
      enc1 LinkState.live.code ++ enc2 s.config.leasePeriod⟩) ∧
    ∃ t, exec (.leave p tag []) s = .next t
      ∧ State.PortLost (s.modPort p fun q => { q with
          linkOut := [0xFF, 0xFF, 0xFF, 0xFF]
          held := some ⟨.ok, tag,
            enc1 (allChannels.countP fun n =>
              (s.chan n).isCallOf p && (s.chan n).holdCount != (s.chan n).policy.holdLimit)
            ++ enc1 (allChannels.countP fun n =>
              (s.chan n).isCallOf p && (s.chan n).holdCount == (s.chan n).policy.holdLimit)
            ++ enc1 (allChannels.countP fun n =>
              (s.chan n).lessee == some p && (s.chan n).state == .releasing)⟩ }) t p .left

/-- The expiry of a lease (R139): the port is lost by the cascade of R140, with the choices that KeepAndLeave names
(logs 1, 18, 21, 29, 33). That the expiry is a step of its own after the tick that brings the timer to 0 (log 8), and
that a timer that has not reached 0 expires nowhere (log 5), is the model's choice. -/
def Obligations.LeaseExpiryLosesPort : Prop :=
  ∀ (s : State) (p : Port), s.quiet = true →
    ((s.port p).joined = true → (s.port p).lease = some 0 →
      ∃ t, exec (.leaseExpiry p) s = .next t ∧ s.PortLost t p .lease) ∧
    ((s.port p).lease ≠ some 0 → exec (.leaseExpiry p) s = .next s)

/-- Hold expiry (R145) by the strand time, and after it strand expiry (R146): to STRANDED with the strand timer loaded, or
without one for strand time 15, or VACANT; each with its broadcast. That a channel loses its epoch marks on becoming VACANT
is the model's choice (logs 21, 33), and so is it that an expiry is a step of its own after the tick that brings the timer
to 0 (log 8). -/
def Obligations.HoldAndStrandExpiry : Prop :=
  ∀ (s : State) (n : ChannelNo), s.quiet = true →
    ((s.chan n).state = .orphaned → (s.chan n).holdTimer = some 0 →
      if (s.chan n).policy.strandTime = 0 then
        ∃ t, exec (.holdExpiry n) s = .next t ∧ s.Vacated t n
          ∧ ∀ q, (s.port q).joined = true → (t.port q).Told ⟨.channelDropped, some n,
              [1, ((s.chan n).prior.map fun c => c.toCallState.item).getD 0xFFFF, ((s.chan n).holdCount : Int)]⟩
      else
        exec (.holdExpiry n) s = .next
          ((s.modChan n fun c => { c with
            state := .stranded, goodRun := 0, badRun := 0, prior := none, proving := none, guard := none,
            holdTimer := none,
            strandTimer := if c.policy.strandTime = 15 then none else some (c.policy.strandTime * 1000) }).broadcast
            ⟨.channelStranded, some n, [((s.chan n).policy.strandTime : Int), ((s.chan n).holdCount : Int)]⟩)) ∧
    ((s.chan n).state = .stranded → (s.chan n).strandTimer = some 0 →
      ∃ t, exec (.strandExpiry n) s = .next t ∧ s.Vacated t n
        ∧ ∀ q, (s.port q).joined = true → (t.port q).Told ⟨.channelDropped, some n,
            [2, 0xFFFF, ((s.chan n).holdCount : Int)]⟩)

/-- Drain expiry (R18): the channel becomes VACANT; not park eligible, all its segments are free; park eligible, its live
list is the newest entry of the route cache (R124, R125), an entry with its tag and, in a full cache, the oldest having
left. The joined ports are told of entries that left, REPLACED and FULL (R132), and the issuing port of each order that
touched the channel of its abort (R119). RELEASED goes to the releasing port. That the park number passes over 0 (log 18),
that a figure never measured is parked as 0 (log 29), that the channel loses its epoch marks (logs 21, 33), and that the
expiry is a step of its own after the tick that brings the timer to 0 (log 8), is the model's choice. -/
def Obligations.DrainExpiryEndsRelease : Prop :=
  ∀ (s : State) (n : ChannelNo), s.quiet = true → (s.chan n).state = .releasing → (s.chan n).drainTimer = some 0 →
    ∃ t, exec (.drainExpiry n) s = .next t ∧ s.Within t ∧ t.chan n = .vacant
      ∧ (∀ p, (s.chan n).lessee = some p → (s.port p).joined = true → (t.port p).Told ⟨.released, some n,
          [if (s.chan n).parkEligible = some true then 0 else 1]⟩)
      ∧ if (s.chan n).parkEligible = some true then
          let kept := s.cache.filter fun e => e.routeTag ≠ (s.chan n).policy.routeTag
          let room := match kept with
            | oldest :: _ => if 16 ≤ kept.length then kept.filter fun e => e.routeTag ≠ oldest.routeTag else kept
            | [] => []
          let number := if s.parkCounter + 1 = 0 then 1 else s.parkCounter + 1
          let c := s.chan n
          t.parkCounter = number
            ∧ t.cache = room ++ [⟨c.policy.routeTag, c.profile.near, c.profile.far, c.profile.eq, c.window, c.live,
                (c.measured.map Measurements.figure).getD 0, number, s.timebase⟩]
            ∧ t.mover = (s.mover.filter fun o => !o.work.touches n)
            ∧ (∀ m, m ≠ n → (s.chan m).Served (s.ordersOn n) m (t.chan m))
            ∧ s.PoolJudged t
            ∧ (∀ a, (∀ r ∈ c.ring, a / 32 ∉ r.segments) → (∀ e ∈ s.cache, e ∈ room ∨ a / 32 ∉ e.segments) →
                t.pool.taps.read a = s.pool.taps.read a)
            ∧ ((s.cache.map CacheEntry.routeTag).Nodup →
                let freed (x : Nat) : Prop := (∃ r ∈ c.ring, x ∈ r.segments) ∨ ∃ e ∈ s.cache, e ∉ room ∧ x ∈ e.segments
                (∀ x, x ∈ t.pool.free ↔ x ∈ s.pool.free ∨ freed x) ∧ (∀ a, freed (a / 32) → t.pool.taps.read a = 0)
                  ∧ ∀ q, (s.port q).joined = true →
                    s.Raised t q (abortNotices (s.ordersOn n) q) (parkNotices s.cache c.policy.routeTag))
        else s.Vacated t n

/-- ADOPT (R147, R148) of an ORPHANED or STRANDED channel: the port becomes its lessee and the channel returns to the
state its prior state gives, TRACKING with the contention live flag clear and the hangover 0 (R69), or to the back of the
probe queue (R92); the other joined ports are told. In any other state it is refused and changes nothing. That the state
reported is the one the event leaves, after a grant, is the model's choice (log 17), and so is the factory directory, which
gives the length of the play granted (log 3). -/
def Obligations.AdoptTakesLease : Prop :=
  ∀ (s : State) (p : Port) (tag : Byte) (n : ChannelNo), s.Ready p → s.Granted →
    let c := s.chan n
    let taken : Channel :=
      { c with lessee := some p, origin := some .adopted, prior := none, holdTimer := none, strandTimer := none,
               goodRun := 0, badRun := 0 }
    (c.state ≠ .orphaned → c.state ≠ .stranded →
      exec (.adopt p tag [chanByte n]) s = .next (s.answered p [chanByte n] ⟨.wrongState, tag, []⟩)) ∧
    (c.state = .orphaned ∨ c.state = .stranded →
      ∃ t, exec (.adopt p tag [chanByte n]) s = .next t
        ∧ (s.answered p [chanByte n] ⟨.ok, tag, encState (t.chan n).state
            ++ encState (((c.prior.map PriorState.toCallState)).getD .stranded)
            ++ enc1 c.holdCount ++ enc1 c.policy.holdLimit
            ++ enc1? ((t.chan n).proving.map fun k => (k : Int))
            ++ enc1? ((t.chan n).guard.map fun k => (k : Int))⟩).Within t
        ∧ (∀ q, q ≠ p → (s.port q).joined = true → (t.port q).Told ⟨.channelAdopted, some n,
            [(p.val : Int), ((t.chan n).state.code : Int),
             ((t.chan n).state.phase.map fun ph => (ph.code : Int)).getD 0xFFFF]⟩)
        ∧ (∀ m, m ≠ n → (s.chan m).GrantedOr (t.chan m))
        ∧ t.pool = s.pool ∧ t.mover = s.mover ∧ t.cache = s.cache ∧ t.parkCounter = s.parkCounter
        ∧ (c.state = .orphaned → c.prior = some .tracking →
            t.chan n = { taken with state := .tracking, contentionLive := false, hangover := 0 })
        ∧ (c.state = .orphaned → c.prior = some (.training .settling) →
            t.chan n = { taken with state := .training .settling })
        ∧ (c.state = .orphaned → c.prior = some (.training .stalled) →
            t.chan n = { taken with state := .training .stalled })
        ∧ (c.state = .stranded ∨ c.prior = some (.training .queued) ∨ c.prior = some (.training .probing) →
            t.InProbe n { taken with
                state := .training .queued, trainingEpochs := 0, proving := none, guard := none, player := none,
                rollback := c.rollback.map fun _ => false }
              (s.probeQueue ++ [n]) (s.idleCount none))
        ∧ (c.state = .orphaned → c.prior ≠ none → c.prior ≠ some (.training .queued) →
            c.prior ≠ some (.training .probing) → t.probeQueue = s.probeQueue ∧ t.players = s.players))

/-! ### The claim and the shared configuration (spec/08) -/

/-- CLAIM and YIELD (R150): the claim goes to the issuing port when no port holds it and is refused CLAIMED, with the
holder's number, when one does; the holder yields it, and any other port is refused NO_CLAIM. -/
def Obligations.ClaimAndYield : Prop :=
  ∀ (s : State) (p : Port) (tag : Byte), s.Ready p →
    exec (.claim p tag []) s = .next
      (match s.claim with
       | none => State.answered { s with claim := some p } p [] ⟨.ok, tag, []⟩
       | some holder => s.answered p [] ⟨.claimed, tag, enc1 holder.val⟩) ∧
    exec (.yieldClaim p tag []) s = .next
      (if s.claim = some p then State.answered { s with claim := none } p [] ⟨.ok, tag, []⟩
       else s.answered p [] ⟨.noClaim, tag, []⟩)

/-- SET_CONFIG (R151): refused NO_CLAIM but from the claim holder; refused BAD_PARAM for a list of a wrong size, a
parameter named twice, a value out of range or off its step, or a result that breaks an ordering; otherwise every named
parameter takes its value and no other changes. A changed cache lifetime removes the entries that have reached it
(R130), and nothing else of the cache, their segments free and zero, CACHE_EVICTED AGED to every joined port (R132); the
pool is compared once, against the mark that results (R48, R49, R130); the new lease period is the one loaded. -/
def Obligations.SetConfigWrites : Prop :=
  ∀ (s : State) (p : Port) (tag : Byte) (params : List Byte) (items : List (ConfigParam × Int)), s.Ready p →
    parseSetConfig params = some items →
    let result := s.config.writeAll items
    let gone (e : CacheEntry) : Bool := decide (result.cacheLifetime ≠ s.config.cacheLifetime)
      && decide (result.cacheLifetime * 60000 ≤ (s.timebase - e.parkTime).toNat)
    if s.claim ≠ some p then exec (.setConfig p tag params) s = .next (s.answered p params ⟨.noClaim, tag, []⟩)
    else if 1 ≤ items.length ∧ items.length ≤ 13 ∧ (items.map Prod.fst).Nodup
        ∧ (∀ item ∈ items, item.1.allows item.2 = true)
        ∧ result.levelFade < result.levelWarn ∧ result.levelLoss < result.levelFade
        ∧ result.fastStep < result.trackingStep then
      ∃ t, exec (.setConfig p tag params) s = .next t ∧ t.config = result
        ∧ (State.answered { s with config := result } p params ⟨.ok, tag, result.bytes⟩).Within t
        ∧ t.cache = (if result.cacheLifetime = s.config.cacheLifetime then s.cache else
            s.cache.filter fun e => !s.cache.any fun x => x.routeTag == e.routeTag
              && decide (result.cacheLifetime * 60000 ≤ (s.timebase - x.parkTime).toNat))
        ∧ (∀ x, x ∈ t.pool.free ↔ x ∈ s.pool.free ∨ ∃ e ∈ s.cache, gone e = true ∧ x ∈ e.segments)
        ∧ (∀ a, t.pool.taps.read a =
            if ∃ e ∈ s.cache, gone e = true ∧ a / 32 ∈ e.segments then 0 else s.pool.taps.read a)
        ∧ s.PoolJudged t
        ∧ ((s.cache.map CacheEntry.routeTag).Nodup → ∀ q, (s.port q).joined = true →
            (State.answered { s with config := result } p params ⟨.ok, tag, result.bytes⟩).Raised t q []
              (evictNotices 3 s.cache.length (s.cache.filter gone)))
        ∧ (s.Granted → t.channels = s.channels ∧ t.players = s.players ∧ t.probeQueue = s.probeQueue)
        ∧ (∀ n, (s.chan n).GrantedOr (t.chan n)) ∧ t.mover = s.mover ∧ t.parkCounter = s.parkCounter
    else exec (.setConfig p tag params) s = .next (s.answered p params ⟨.badParam, tag, []⟩)

/-- GET_CONFIG (R152): the standing of the configuration, the claim and the ports; nothing but the renewal happens. -/
def Obligations.GetConfigReports : Prop :=
  ∀ (s : State) (p : Port) (tag : Byte), s.Ready p →
    exec (.getConfig p tag []) s = .next (s.answered p [] ⟨.ok, tag,
      enc1 p.val ++ s.config.bytes ++ encPort? s.claim
        ++ (allPorts.flatMap fun q => enc1 (if q = p then LinkState.live else (s.port q).link).code)⟩)

/-- RESET_PART (R153): NO_CLAIM, then OTHERS_PRESENT with the states of the four ports, and otherwise the part is reset
and the held OK response survives. The queue of waiting commands and the counter of free values are the model's own and
are kept (log 9). That LINK DO of the other ports holds no byte (log 10), and that the epoch marks of every channel are clear
(log 24), is the model's choice. -/
def Obligations.ResetPartResets : Prop :=
  ∀ (s : State) (p : Port) (tag : Byte), s.Ready p →
    exec (.resetPart p tag []) s = .next
      (if s.claim ≠ some p then s.answered p [] ⟨.noClaim, tag, []⟩
       else if ∃ q, q ≠ p ∧ (s.port q).joined = true then
         s.answered p [] ⟨.othersPresent, tag,
           allPorts.flatMap fun q => enc1 (if q = p then LinkState.live else (s.port q).link).code⟩
       else State.modPort { State.reset with pending := s.pending, freeIndex := s.freeIndex } p fun q =>
         { q with held := some ⟨.ok, tag, []⟩, linkOut := [0xFF, 0xFF, 0xFF, 0xFF] })

/-! ### Channels (spec/01) -/

/-- A fresh ATTACH (R13, R15, R44, R45): where the free count suffices nothing is evicted; the lowest free segments become
the live list; the record takes the values of R15 and enters QUEUED, its taps at their initial values; the pool is
compared on the count that results (R48). The evictions are told before anything else of the event. The 0xFF in the
place of the figure, which R15 gives for a resume alone, is the model's choice (log 16), and so is it that the call begins
with clear epoch marks (logs 21, 33). Which sequences are populated, and how long, is the factory directory's, the model's
choice (log 3). -/
def Obligations.AttachFresh : Prop :=
  ∀ (s : State) (p : Port) (tag : Byte) (params : List Byte) (a : AttachParams) (n : ChannelNo) (profile : Profile)
    (policy : Policy), s.Ready p →
    parseAttach params = some a → a.channel = n.val → (s.chan n).state = .vacant →
    a.check = some (profile, policy) → (Config.directory a.sequence).length ≠ 0 →
    s.resumable profile policy = none → profile.segments ≤ s.pool.free.length + s.cacheSegments →
    let u := s.evictFor profile.segments policy.routeTag
    (profile.segments ≤ s.pool.free.length → u = s) ∧
    ∃ t, exec (.attach p tag params) s = .next t
      ∧ (let r : Response := ⟨.ok, tag, enc1 Origin.fresh.code ++ enc1 profile.segments ++ [0xFF]⟩
         (s.answered p params r).Within t
           ∧ ∀ q, (s.port q).joined = true → (u.answered p params r).Raised t q [] [])
      ∧ t.InProbe n { Channel.vacant with
          state := .training .queued, lessee := some p, origin := some .fresh, profile := profile, policy := policy,
          live := u.pool.free.take profile.segments } (s.probeQueue ++ [n]) (s.idleCount none)
      ∧ t.pool.free = u.pool.free.drop profile.segments ∧ s.PoolJudged t
      ∧ (∀ m, m ≠ n → (s.chan m).GrantedOr (t.chan m))
      ∧ t.mover = s.mover ∧ t.cache = u.cache ∧ t.parkCounter = s.parkCounter
      ∧ (u.pool.taps.wf = true → u.pool.free.Nodup → profile.segments ≤ u.pool.free.length →
          (∀ i, i < profile.near → t.tap n .live .near i = 0) ∧ (∀ i, i < profile.far → t.tap n .live .far i = 0)
            ∧ (∀ j, j < profile.eq → t.tap n .live .equal j = if j = profile.eq / 2 then 32767 else 0)
            ∧ ∀ x, x / 32 ∉ u.pool.free.take profile.segments → t.pool.taps.read x = u.pool.taps.read x)

/-- The evictions for an ATTACH (R46): an entry with its tag first, then the oldest-parked; none once the free count
suffices, and no more than that takes. Every segment of an entry that goes is free and zero, and every joined port is
told CACHE_EVICTED with reason CLAIMED (R132), in the order of eviction. -/
def Obligations.EvictionOrder : Prop :=
  ∀ (s : State) (need tag : Nat), (s.cache.map CacheEntry.routeTag).Nodup →
    let u := s.evictFor need tag
    let order := s.cache.filter (fun e => e.routeTag == tag) ++ s.cache.filter (fun e => e.routeTag != tag)
    ∃ k, k ≤ order.length ∧ u.cache = (s.cache.filter fun e => !(order.take k).contains e)
      ∧ (∀ x, x ∈ u.pool.free ↔ x ∈ s.pool.free ∨ ∃ e ∈ order.take k, x ∈ e.segments)
      ∧ (k < order.length → need ≤ u.pool.free.length)
      ∧ (0 < k → s.pool.free.length < need)
      ∧ (∀ j, j < k → ((order.take j).foldl (State.evict .claimed) s).pool.free.length < need)
      ∧ (∀ a, u.pool.taps.read a =
          if ∃ e ∈ order.take k, a / 32 ∈ e.segments then 0 else s.pool.taps.read a)
      ∧ u = { s with cache := u.cache, pool := u.pool, ports := u.ports } ∧ u.pool.flag = s.pool.flag
      ∧ ∀ q, u.port q = if (s.port q).joined then
          (evictNotices 0 s.cache.length (order.take k)).foldl PortRecord.arrive (s.port q) else s.port q

/-- A resuming ATTACH (R14, R15): the entry's segments and window become the channel's, the channel goes to TRACKING,
proving, and the entry alone leaves the cache. That the call begins with clear epoch marks is the model's choice
(logs 21, 33). Which sequences are populated is the factory directory's, the model's choice (log 3). -/
def Obligations.AttachResumes : Prop :=
  ∀ (s : State) (p : Port) (tag : Byte) (params : List Byte) (a : AttachParams) (n : ChannelNo) (profile : Profile)
    (policy : Policy) (e : CacheEntry), s.Ready p →
    parseAttach params = some a → a.channel = n.val → (s.chan n).state = .vacant →
    a.check = some (profile, policy) → (Config.directory a.sequence).length ≠ 0 →
    policy.routeTag ≠ 0 → s.cacheEntry? policy.routeTag = some e →
    e.near = profile.near → e.far = profile.far → e.eq = profile.eq →
    exec (.attach p tag params) s = .next
      ((State.modChan { s with cache := s.cache.filter fun x => x.routeTag ≠ policy.routeTag } n fun _ =>
        { Channel.vacant with
          state := .tracking, lessee := some p, origin := some .resumed, profile := profile, policy := policy,
          proving := some 50, live := e.segments, window := e.window }).answered p params
        ⟨.ok, tag, enc1 Origin.resumed.code ++ enc1 e.segments.length ++ enc1 e.figure⟩)

/-- The refusals of ATTACH in their order (R10, R11, R13): BAD_CHANNEL, WRONG_STATE, BAD_PARAM, BAD_SEQUENCE, and NOSPACE
with the segments needed and obtainable; nothing changes. Which sequences are populated is the factory directory's, the
model's choice (log 3). -/
def Obligations.AttachRefusals : Prop :=
  ∀ (s : State) (p : Port) (tag : Byte) (params : List Byte) (a : AttachParams), s.Ready p →
    parseAttach params = some a →
    let refused (status : Status) (payload : List Byte) : Prop :=
      exec (.attach p tag params) s = .next (s.answered p params ⟨status, tag, payload⟩)
    (48 ≤ a.channel → refused .badChannel []) ∧
    ∀ n : ChannelNo, a.channel = n.val →
      if (s.chan n).state ≠ .vacant then refused .wrongState []
      else match a.check with
        | none => refused .badParam []
        | some (profile, policy) =>
          if (Config.directory a.sequence).length = 0 then refused .badSequence []
          else s.resumable profile policy = none → s.pool.free.length + s.cacheSegments < profile.segments →
            refused .noSpace (enc1 profile.segments ++ enc2 (s.pool.free.length + s.cacheSegments : Nat))

/-- RELEASE (R16, R119): the park decision, the drain timer, the player or the queue place given up, every order that
touches the channel aborted, its issuing port told MOVE_DONE with status ABORTED (R120); in RELEASING it is refused. Of the
channel's segments those of the records of aborted CAPTUREs are free and zero (R54), and no others. That the response gives
PARK as 0 and FREE as 1 is the model's choice (log 16). -/
def Obligations.ReleaseStartsDrain : Prop :=
  ∀ (s : State) (p : Port) (tag : Byte) (n : ChannelNo), s.Ready p → (s.chan n).lessee = some p →
    ((s.chan n).state = .releasing →
      exec (.release p tag [chanByte n]) s = .next (s.answered p [chanByte n] ⟨.wrongState, tag, []⟩)) ∧
    ((s.chan n).state.inCall = true →
      let eligible : Bool := (s.chan n).policy.retain && (s.chan n).policy.routeTag != 0
        && (s.chan n).state == .tracking && (s.chan n).proving.isNone
      ∃ t, exec (.release p tag [chanByte n]) s = .next t
        ∧ (let answered := s.answered p [chanByte n] ⟨.ok, tag, [if eligible then 0 else 1]⟩
           answered.Within t ∧ ∀ q, (s.port q).joined = true →
             answered.Raised t q (abortNotices (s.ordersOn n) q) [])
        ∧ (∃ c, (s.chan n).OrdersEnded (s.ordersOn n) n c ∧ t.chan n = { c with
            state := .releasing, goodRun := 0, badRun := 0, player := none, parkEligible := some eligible,
            proving := none, guard := none, drainTimer := some 50 })
        ∧ t.mover = (s.mover.filter fun o => !o.work.touches n) ∧ n ∉ t.probeQueue
        ∧ (∀ k, (s.chan n).player = some k → s.probeQueue = [] → t.play k = none)
        ∧ (∀ m, m ≠ n → (s.chan m).Served (s.ordersOn n) m (t.chan m) ∧ (t.chan m).records = (s.chan m).records)
        ∧ t.cache = s.cache ∧ t.parkCounter = s.parkCounter ∧ s.PoolJudged t
        ∧ (let discarded := ((s.chan n).ring.filter fun r =>
             (s.ordersOn n).any fun o => o.work == .capture n r.id).flatMap (·.segments)
           (∀ x, x ∈ t.pool.free ↔ x ∈ s.pool.free ∨ x ∈ discarded)
             ∧ ∀ a, t.pool.taps.read a = if a / 32 ∈ discarded then 0 else s.pool.taps.read a))

/-- RETRAIN (R20): clear is yes or no; the channel enters QUEUED at the back of the probe queue (R92), its taps kept or at
their initial values with the window inactive; lessee, origin, hold count, profile, policy and ring stay, and no order
ends. That the factory directory gives the length of the play granted is the model's choice (log 3). -/
def Obligations.RetrainRequeues : Prop :=
  ∀ (s : State) (p : Port) (tag : Byte) (n : ChannelNo) (clear : Byte), s.Ready p → (s.chan n).lessee = some p →
    let params := [chanByte n, clear]
    ((s.chan n).state = .releasing →
      exec (.retrain p tag params) s = .next (s.answered p params ⟨.wrongState, tag, []⟩)) ∧
    ((s.chan n).state.inCall = true → 1 < clear.toNat →
      exec (.retrain p tag params) s = .next (s.answered p params ⟨.badParam, tag, []⟩)) ∧
    ((s.chan n).state.inCall = true → clear.toNat ≤ 1 →
      ∃ t, exec (.retrain p tag params) s = .next t
        ∧ (s.answered p params ⟨.ok, tag, []⟩).Within t
        ∧ (let c := s.chan n
           t.InProbe n { c with
             state := .training .queued, goodRun := 0, badRun := 0, trainingEpochs := 0, proving := none,
             guard := none, player := none, rollback := c.rollback.map fun _ => false
             window := if clear = 1 then ⟨0, false⟩ else c.window }
             (s.probeQueue.filter (fun m => m ≠ n) ++ [n]) (s.idleCount c.player))
        ∧ (∀ m, m ≠ n → (s.chan m).GrantedOr (t.chan m))
        ∧ t.mover = s.mover ∧ t.cache = s.cache ∧ t.parkCounter = s.parkCounter ∧ t.pool.free = s.pool.free
        ∧ (clear = 0 → t.pool.taps = s.pool.taps)
        ∧ (clear = 1 → s.pool.taps.wf = true → (s.chan n).live.Nodup →
            (s.chan n).live.length = (s.chan n).profile.segments →
            let profile := (s.chan n).profile
            (∀ i, i < profile.near → t.tap n .live .near i = 0) ∧ (∀ i, i < profile.far → t.tap n .live .far i = 0)
              ∧ (∀ j, j < profile.eq → t.tap n .live .equal j = if j = profile.eq / 2 then 32767 else 0)
              ∧ ∀ x, x / 32 ∉ (s.chan n).live → t.pool.taps.read x = s.pool.taps.read x))

/-- SET_POLICY (R22, R7): one to eight items, no field twice, every value in range: the named fields take their values and
the others keep theirs, and a hold limit below the hold count lowers the count; otherwise nothing changes. That
the channel number stands in the first byte is the model's choice (log 34). -/
def Obligations.SetPolicyWrites : Prop :=
  ∀ (s : State) (p : Port) (tag : Byte) (n : ChannelNo) (params : List Byte) (items : List (PolicyField × Int)),
    s.Ready p → (s.chan n).lessee = some p → parseSetPolicy params = some (n.val, items) →
    ((s.chan n).state = .releasing →
      exec (.setPolicy p tag params) s = .next (s.answered p params ⟨.wrongState, tag, []⟩)) ∧
    ((s.chan n).state.inCall = true →
      exec (.setPolicy p tag params) s = .next
        (match if 1 ≤ items.length ∧ items.length ≤ 8 ∧ (items.map Prod.fst).Nodup then
            (s.chan n).policy.writeAll items else none with
         | none => s.answered p params ⟨.badParam, tag, []⟩
         | some policy =>
           (s.modChan n fun c => { c with policy := policy, holdCount := min c.holdCount policy.holdLimit }).answered p
             params ⟨.ok, tag, policy.bytes ++ enc1 (min (s.chan n).holdCount policy.holdLimit : Nat)⟩))

/-- CLEAR_HOLDS (R23) and ADAPT (R72): the hold count becomes 0, the manual budget the count that ADAPT gives; each answers
what stood before, and nothing else changes. CLEAR_HOLDS is refused in RELEASING, ADAPT in no leased state. -/
def Obligations.ClearHoldsAndAdapt : Prop :=
  ∀ (s : State) (p : Port) (tag : Byte) (n : ChannelNo), s.Ready p → (s.chan n).lessee = some p →
    ((s.chan n).state.inCall = true →
      exec (.clearHolds p tag [chanByte n]) s = .next ((s.modChan n fun c => { c with holdCount := 0 }).answered p
        [chanByte n] ⟨.ok, tag, enc1 (s.chan n).holdCount⟩)) ∧
    ((s.chan n).state = .releasing →
      exec (.clearHolds p tag [chanByte n]) s = .next (s.answered p [chanByte n] ⟨.wrongState, tag, []⟩)) ∧
    ∀ hi lo : Byte, exec (.adapt p tag [chanByte n, hi, lo]) s = .next
      ((s.modChan n fun c => { c with budget := hi.toNat * 256 + lo.toNat }).answered p [chanByte n, hi, lo]
        ⟨.ok, tag, enc2 (s.chan n).budget⟩)

/-- QUERY, POOL_STATUS and READ_TAPS (R24, R50, R60) answer from the state as it stands and change nothing but the answered
port. QUERY gives the items of Table 1-5 in their order; that an absent one is 0xFF, that PARK is 0 and FREE 1, and that a
count byte stands before the snapshot ids, and none before the taps of READ_TAPS, whose count is one byte, is the model's
choice (log 16). -/
def Obligations.ReadingsChangeNothing : Prop :=
  ∀ (s : State) (p : Port) (tag : Byte), s.Ready p →
    (∀ n : ChannelNo,
      let c := s.chan n
      let yes (b : Bool) : List Byte := if b then [1] else [0]
      let count (k : Option Nat) : List Byte := enc1? (k.map fun k => (k : Int))
      exec (.query p tag [chanByte n]) s = .next (s.answered p [chanByte n] ⟨.ok, tag, List.flatten
        [encState c.state, encPort? c.lessee, enc1? (c.origin.map fun o => (o.code : Int)),
         match c.prior with | some x => encState x.toCallState | none => [0xFF, 0xFF],
         match c.parkEligible with | some true => [0] | some false => [1] | none => [0xFF],
         enc1 c.profile.near, enc2 c.profile.far, enc1 c.profile.eq, count c.profile.sequence,
         enc2 c.policy.routeTag, yes c.policy.retain, enc1 c.policy.recovery.code, enc1 c.policy.mode.code,
         enc1 c.policy.lossCode, enc1 c.policy.holdLimit, count c.policy.holdTime, enc1 c.policy.strandTime,
         enc1 c.holdCount, enc2 c.window.start, yes c.window.active, enc1 c.live.length,
         enc1 c.ring.length, c.ring.flatMap fun r => enc1 r.id ++ yes r.ready,
         enc1? (c.measured.map fun m => m.figure), enc1? (c.measured.map fun m => m.receive),
         enc1? (c.measured.map fun m => m.estimate),
         enc1 c.goodRun, enc1 c.badRun, enc2 c.trainingEpochs, count c.proving, count c.guard,
         yes c.contentionLive, enc1 c.hangover, enc2 c.budget,
         enc1 ((if c.freeze.contention then 1 else 0) + (if c.freeze.budget then 2 else 0) + (if c.freeze.mover then 4 else 0)
           + (if c.freeze.loss then 8 else 0) + (if c.freeze.pause then 16 else 0)),
         enc1 c.level.status.code, enc1? c.level.last, enc1? (c.player.map fun k => (k.val : Int)),
         enc2? ((c.player.bind s.play).map fun play => (play.pointer : Int))]⟩)) ∧
    exec (.poolStatus p tag []) s = .next (s.answered p [] ⟨.ok, tag,
      enc2 s.pool.free.length
        ++ enc2 ((allChannels.map fun n => (s.chan n).live.length).sum : Nat)
        ++ enc2 ((allChannels.map fun n => ((s.chan n).ring.map fun r => r.segments.length).sum).sum : Nat)
        ++ enc2 ((s.cache.map fun e => e.segments.length).sum : Nat)
        ++ enc1 s.cache.length ++ enc1 s.pool.flag.code ++ enc2 s.config.poolLowWater⟩) ∧
    ∀ (n : ChannelNo) (copy bank firstHi firstLo count : Byte),
      let params := [chanByte n, copy, bank, firstHi, firstLo, count]
      let first := firstHi.toNat * 256 + firstLo.toNat
      let source : Copy := if copy = 0 then .live else .snapshot copy.toNat
      exec (.readTaps p tag params) s = .next (s.answered p params
        (if (s.chan n).state = .vacant then ⟨.wrongState, tag, []⟩
         else match Bank.ofCode bank.toNat with
          | none | some .set => ⟨.badParam, tag, []⟩
          | some b =>
            if 511 < first ∨ count = 0 ∨ 32 < count.toNat ∨ (s.chan n).profile.bankTaps b < first + count.toNat then
              ⟨.badParam, tag, []⟩
            else if copy ≠ 0 ∧ (s.chan n).ring.all (fun r => r.id ≠ copy.toNat) then ⟨.notFound, tag, []⟩
            else ⟨.ok, tag, (List.range count.toNat).flatMap fun i => enc2 (s.tap n source b (first + i))⟩))

/-! ### Adaptation and probes (spec/04, spec/05) -/

/-- PAUSE_PROBE and RESUME_PROBE (R98, R99): the player of a channel in PROBING goes to PAUSED, or back to PLAYING, and
keeps all else it holds; anywhere else the command is refused WRONG_STATE. -/
def Obligations.PauseAndResume : Prop :=
  ∀ (s : State) (p : Port) (tag : Byte) (n : ChannelNo), s.Ready p → (s.chan n).lessee = some p →
    (∀ k play, (s.chan n).state = .training .probing → (s.chan n).player = some k → s.play k = some play →
      let payload := enc1 k.val ++ enc2 play.pointer ++ enc2 play.remaining
      if play.paused then
        exec (.pauseProbe p tag [chanByte n]) s = .next (s.answered p [chanByte n] ⟨.wrongState, tag, []⟩)
          ∧ exec (.resumeProbe p tag [chanByte n]) s = .next
              ((s.setPlay k (some { play with paused := false })).answered p [chanByte n] ⟨.ok, tag, payload⟩)
      else
        exec (.resumeProbe p tag [chanByte n]) s = .next (s.answered p [chanByte n] ⟨.wrongState, tag, []⟩)
          ∧ exec (.pauseProbe p tag [chanByte n]) s = .next
              ((s.setPlay k (some { play with paused := true })).answered p [chanByte n] ⟨.ok, tag, payload⟩)) ∧
    ((s.chan n).state ≠ .training .probing →
      exec (.pauseProbe p tag [chanByte n]) s = .next (s.answered p [chanByte n] ⟨.wrongState, tag, []⟩)
        ∧ exec (.resumeProbe p tag [chanByte n]) s = .next (s.answered p [chanByte n] ⟨.wrongState, tag, []⟩))

/-- The end of play (R95): the channel goes to SETTLING and its player to IDLE, to be granted anew to the oldest queued
channel; with no far taps the window and the taps stay, with far taps the finding of R97 is applied to them alone: every
far tap is 0 unless the floor is reached and the window was active at the start found. No notice is raised. The finding
is the peak of the running sums (R96), of several candidates at the peak the one with the shortest delay (R97).
That the play stands at remaining 0 until its end is taken as a step of its own is the model's choice (log 6), and so is the
factory directory, which gives the length of the play granted (log 3). -/
def Obligations.EndOfPlaySettles : Prop :=
  (∀ (n : ChannelNo) (profile : Profile),
    let empty : LocatorSums :=
      let zeros := 4800 + profile.far - profile.near
      ⟨List.replicate zeros 0, List.replicate zeros 0, 0, 0⟩
    (startPlay n profile).locator = if profile.far = 0 then none else some ⟨empty, empty⟩) ∧
  (∀ (play : Play) (near : Nat) (reference : List Sample) (lineIn probe : Sample),
    play.locate near reference lineIn probe = { play with locator := play.locator.map fun l => { l with epoch :=
      ⟨l.epoch.correlation.mapIdx fun i c => c + lineIn * reference.getD (near + i) 0,
       l.epoch.reference.mapIdx fun i x => x + (reference.getD (near + i) 0).natAbs ^ 2,
       l.epoch.line + lineIn.natAbs ^ 2, l.epoch.probe + probe.natAbs ^ 2⟩ } }) ∧
  (∀ l : Locator,
    l.takeEpoch.running = ⟨List.zipWith (· + ·) l.running.correlation l.epoch.correlation,
      List.zipWith (· + ·) l.running.reference l.epoch.reference, l.running.line + l.epoch.line,
      l.running.probe + l.epoch.probe⟩
    ∧ l.takeEpoch.epoch = ⟨List.replicate l.epoch.correlation.length 0, List.replicate l.epoch.correlation.length 0, 0, 0⟩) ∧
  (∀ (c : Int) (x p : Nat), peakLevel c x p =
    if c = 0 ∨ x = 0 ∨ p = 0 then -70
    else max (-70) (min 0 (round (10 * Real.logb 10 ((c : ℝ) ^ 2 / ((x : ℝ) * (p : ℝ))))))) ∧
  (∀ sums : LocatorSums,
    let found := sums.peak
    (∀ i c x, sums.correlation[i]? = some c → sums.reference[i]? = some x →
      peakLevel c x sums.probe ≤ found.2 ∧ (i < found.1 → peakLevel c x sums.probe < found.2))
    ∧ (found = (0, -70) ∨ ∃ c x, sums.correlation[found.1]? = some c ∧ sums.reference[found.1]? = some x
        ∧ peakLevel c x sums.probe = found.2)) ∧
  ∀ (s : State) (k : PlayerNo) (play : Play), s.play k = some play → play.remaining = 0 →
    ∃ t, exec (.endOfPlay k) s = .next t ∧ s.Within t
      ∧ (play.channel ∉ s.probeQueue → ∃ window, t.chan play.channel = { s.chan play.channel with
          state := .training .settling, goodRun := 0, badRun := 0, player := none, window := window }
          ∧ (play.locator = none → window = (s.chan play.channel).window)
          ∧ ∀ l, play.locator = some l →
              let c := s.chan play.channel
              let found := l.takeEpoch.running.peak
              window = if s.config.farFloor ≤ found.2 then
                  ⟨(max 0 (min 4800 ((c.profile.near + found.1 : Nat) - (c.profile.far / 4 : Nat) : Int))).toNat, true⟩
                else ⟨c.window.start, false⟩)
      ∧ (∀ m, m ≠ play.channel → (s.chan m).GrantedOr (t.chan m))
      ∧ (s.probeQueue = [] → t.play k = none)
      ∧ (∀ m rest, s.probeQueue = m :: rest → s.idlePlayer = none →
          t.play k = some (startPlay m (s.chan m).profile) ∧ (t.chan m).state = .training .probing
            ∧ (t.chan m).player = some k)
      ∧ t.ports = s.ports
      ∧ t.pool.free = s.pool.free ∧ t.mover = s.mover ∧ t.cache = s.cache ∧ t.parkCounter = s.parkCounter
      ∧ (play.locator = none → t.pool.taps = s.pool.taps)
      ∧ (∀ x, s.pool.taps.wf = true → x / 32 ∉ (s.chan play.channel).live → t.pool.taps.read x = s.pool.taps.read x)
      ∧ ∀ l, play.locator = some l → s.pool.taps.wf = true → (s.chan play.channel).live.Nodup →
          (s.chan play.channel).live.length = (s.chan play.channel).profile.segments →
          let n := play.channel
          let c := s.chan n
          let found := l.takeEpoch.running.peak
          let start := (max 0 (min 4800 ((c.profile.near + found.1 : Nat) - (c.profile.far / 4 : Nat) : Int))).toNat
          (∀ i, i < c.profile.far → t.tap n .live .far i =
            if s.config.farFloor ≤ found.2 ∧ c.window.active = true ∧ c.window.start = start then s.tap n .live .far i else 0)
            ∧ (∀ i, i < c.profile.near → t.tap n .live .near i = s.tap n .live .near i)
            ∧ ∀ j, j < c.profile.eq → t.tap n .live .equal j = s.tap n .live .equal j

/-- Playing one code (R90): the code is a 4-bit value; the sample is the previous sample plus the code times the step,
clamped, and becomes the previous sample; then the step doubles up to 2048, halves down to 16, or is kept. A play starts at
previous sample 0 and step 16. -/
def Obligations.ProbeDecode : Prop :=
  (∀ play : Play, -32768 ≤ play.previous → play.previous ≤ 32767 → 16 ≤ play.step → play.step ≤ 2048 →
    let sum := play.previous + play.code * play.step
    let sample := if sum < -32768 then -32768 else if 32767 < sum then 32767 else sum
    (-8 ≤ play.code ∧ play.code ≤ 7) ∧ play.playCode = (sample, { play with
      previous := sample, pointer := play.pointer + 1, remaining := play.remaining - 1
      step := if play.code ≤ -6 ∨ 6 ≤ play.code then (if 2048 ≤ play.step * 2 then 2048 else play.step * 2)
        else if -1 ≤ play.code ∧ play.code ≤ 1 then (if play.step / 2 ≤ 16 then 16 else play.step / 2)
        else play.step })) ∧
  ∀ (n : ChannelNo) (profile : Profile), (startPlay n profile).previous = 0 ∧ (startPlay n profile).step = 16

/-- The update epoch (R63, R73, R74): an epoch for which the channel was handed measurements, in every frame of which it was
adapting, without a freeze reason, at whose end it is adapting. At its end each live tap that takes part moves by its
correction (R67) divided by 2 to the step exponent (R68), the run counters move on the figure against the convergence
threshold and a MANUAL channel spends one of its budget, with BUDGET_SPENT at 0; no tap outside the live segments changes.
Any other epoch changes nothing of these. Apart from it step 6 of R61 counts training epochs (R76), proving (R79) and the
guard (R86). That the far taps of the whole epoch pair by the window of its end (log 23), and that the reasons LOSS and
PAUSE read the status at the epoch's start and the mark of a PAUSED player from the record as the epoch end finds it
(log 33), is the model's choice; so is it that MOVER is read from a mark that is set only while LOCKED and cleared at the
loss of sync and on becoming VACANT (log 21), and that the residuals older than R28's 64, which the sums need, are kept
(log 13). -/
def Obligations.UpdateEpochActs : Prop :=
  (∀ (a : Int) (b : Nat), 0 < b →
    let gap := (a - roundDiv a b * b).natAbs
    2 * gap ≤ b ∧ (2 * gap = b → a.natAbs ≤ (roundDiv a b).natAbs * b)) ∧
  (∀ pairs : List (Sample × Sample),
    let c := (pairs.map fun p => p.1 * p.2).sum
    let ab := (pairs.map fun p => p.1 ^ 2).sum * (pairs.map fun p => p.2 ^ 2).sum
    let q := correctionOfPairs pairs
    (ab = 0 → q = 0)
      ∧ (ab ≠ 0 → (0 ≤ c → 0 ≤ q) ∧ (c ≤ 0 → q ≤ 0) ∧ q.natAbs ≤ 32767
        ∧ 4 * (32767 * c) ^ 2 < (2 * q.natAbs + 1) ^ 2 * ab
        ∧ (q ≠ 0 → (2 * q.natAbs - 1) ^ 2 * ab ≤ 4 * (32767 * c) ^ 2))) ∧
  (∀ (guard₀ : Option Nat) (c : Channel), c.countEpoch guard₀ = { c with
    trainingEpochs := if c.state = .training .probing ∨ c.state = .training .settling then min 3000 (c.trainingEpochs + 1)
      else c.trainingEpochs
    proving := if c.state = .tracking then c.proving.map fun k => k - 1 else c.proving
    guard := if c.state = .tracking ∧ c.guard = guard₀ then c.guard.bind fun k => if k ≤ 1 then none else some (k - 1)
      else c.guard }) ∧
  ∀ (s : State) (c₀ : Channel) (n : ChannelNo),
    let c := s.chan n
    let manual := decide (c.policy.mode = .manual)
    let t := s.adaptChannel c₀ n
    (s.updateEpoch c₀ n = true ↔ c₀.handed ≠ none ∧ c₀.marks.adapting = 80
      ∧ c₀.freezeReasons s.config = ⟨false, false, false, false, false⟩ ∧ s.adaptingNow n = true) ∧
    (s.updateEpoch c₀ n = false → t = s) ∧
    (s.updateEpoch c₀ n = true →
      (t.chan n = { c with
        budget := if manual then c.budget - 1 else c.budget
        goodRun := if s.config.convergence ≤ c.figure then min 255 (c.goodRun + 1) else 0
        badRun := if c.figure < s.config.convergence - 9 then min 255 (c.badRun + 1) else 0 })
      ∧ (∀ p, manual = true → c.budget = 1 → c.lessee = some p → (s.port p).joined = true →
          (t.port p).Told ⟨.budgetSpent, some n, []⟩)
      ∧ ((manual = false ∨ c.budget ≠ 1) → t.ports = s.ports)
      ∧ (∀ m, m ≠ n → t.chan m = s.chan m)
      ∧ (s.pool.taps.wf = true → ∀ x, x / 32 ∉ c.live → t.pool.taps.read x = s.pool.taps.read x)
      ∧ (s.pool.taps.wf = true → c.live.Nodup → c.live.length = c.profile.segments →
          let exponent := if c.state = .training .probing ∨ c.state = .training .settling then s.config.fastStep
            else s.config.trackingStep
          let correction (paired : Nat → Sample) : Int :=
            correctionOfPairs ((List.range 80).map fun f => (c.residuals.getD f 0, paired f))
          let moved (bank : Bank) (i : Nat) (correction : Int) : Tap :=
            max (-32768) (min 32767 (s.tap n .live bank i + roundDiv correction (2 ^ exponent)))
          (∀ i, i < c.profile.near → t.tap n .live .near i =
            moved .near i (correction fun f => c.reference.getD (f + i) 0))
          ∧ (∀ i, i < c.profile.far → t.tap n .live .far i =
              if c.window.active then moved .far i (correction fun f => c.reference.getD (f + (c.window.start + i)) 0)
              else s.tap n .live .far i)
          ∧ ∀ j, j < c.profile.eq → t.tap n .live .equal j =
              if j = c.profile.eq / 2 then s.tap n .live .equal j
              else moved .equal j
                (-(correction fun f => c.residuals.getD (f + ((j : Int) - (c.profile.eq / 2 : Nat)).natAbs) 0)))
      ∧ t.pool.free = s.pool.free ∧ t.mover = s.mover ∧ t.players = s.players ∧ t.probeQueue = s.probeQueue)

/-- The contention detector (R69, R70): in TRACKING, on measurements, the result sets the live flag and loads the hangover
with 4, and a rise of the flag raises CONTENTION; a clear result clears the flag and lowers the hangover. Without
measurements nothing moves; outside TRACKING both are cleared, but in STRANDED both are kept. The freeze reasons of the
epoch are R64's. That the level status at the epoch's start and the mark of a PAUSED player are read from the record as the
epoch end finds it is the model's choice (log 33), and so is it that MOVER is read from a mark that is set only while LOCKED
and cleared at the loss of sync and on becoming VACANT (log 21). -/
def Obligations.DetectorAndFreeze : Prop :=
  (∀ (s : State) (n : ChannelNo) (m : Measurements),
    let c := s.chan n
    (c.state = .tracking → s.detect n none = s
      ∧ s.detect n (some m) =
        if s.config.contentionMargin < m.receive - m.estimate then
          let u := s.modChan n fun c => { c with contentionLive := true, hangover := 4 }
          if c.contentionLive = true then u else u.notifyLessee c.lessee ⟨.contention, some n, [m.receive, m.estimate]⟩
        else s.modChan n fun c => { c with contentionLive := false, hangover := c.hangover - 1 }) ∧
    (c.state ≠ .tracking → ∀ handed, s.detect n handed =
      s.modChan n fun c => { c with contentionLive := false, hangover := 0 })) ∧
  (∀ (s₀ s : State) (n : ChannelNo), (s₀.chan n).state = .stranded → ∃ measured,
    s₀.engineWork s n = s.modChan n fun c => { c with measured := measured }) ∧
  ∀ (cfg : SharedConfig) (c : Channel),
    let f := c.freezeReasons cfg
    (f.contention = true ↔ c.policy.mode = .auto ∧ c.state = .tracking
      ∧ ((∃ m, c.handed = some m ∧ cfg.contentionMargin < m.receive - m.estimate) ∨ 0 < c.hangover))
    ∧ (f.budget = true ↔ c.policy.mode = .manual ∧ c.budget = 0)
    ∧ f.mover = c.marks.mover ∧ f.pause = c.marks.paused
    ∧ (f.loss = true ↔ c.level.status = .loss ∨ (c.levelAfter cfg).status = .loss)

/-- Convergence and stall (R77, R78): in SETTLING and STALLED a good run of 8 takes the channel to TRACKING with CONVERGED;
in SETTLING, otherwise, training epochs at the limit take it to STALLED with TRAIN_STALLED; a channel in QUEUED or PROBING
is not judged. -/
def Obligations.TrainingJudged : Prop :=
  ∀ (s : State) (n : ChannelNo),
    let c := s.chan n
    let figure := (c.measured.map Measurements.figure).getD 0
    let converged := (s.modChan n fun c => { c with state := .tracking, goodRun := 0, badRun := 0 }).notifyLessee c.lessee
      ⟨.converged, some n, [figure, (c.trainingEpochs : Int)]⟩
    (c.state = .training .settling → s.judgeChannel n =
      if 8 ≤ c.goodRun then converged
      else if s.config.trainingLimit ≤ c.trainingEpochs then
        (s.modChan n fun c => { c with state := .training .stalled, goodRun := 0, badRun := 0 }).notifyLessee c.lessee
          ⟨.trainStalled, some n, [(c.trainingEpochs : Int), figure]⟩
      else s) ∧
    (c.state = .training .stalled → s.judgeChannel n = if 8 ≤ c.goodRun then converged else s) ∧
    (c.state = .training .queued ∨ c.state = .training .probing → s.judgeChannel n = s)

/-- Proving and divergence (R79, R80, R82 to R84): with proving, a good run of 8 ends it PASSED, and proving at 0 otherwise
sends the channel to QUEUED, FAILED; without proving, a bad run of 16 is a divergence, and the recovery policy acts: the
channel stays, or is retrained, or, with no guard and no rollback order, a READY record and room in the mover queue, is
rolled back from the newest READY record. That the engine's record of a rollback order, in flight or queued, stands for
the queued order of R84 case 2 is the model's choice (log 29). -/
def Obligations.ProvingAndDivergence : Prop :=
  ∀ (s : State) (n : ChannelNo), (s.chan n).state = .tracking →
    let c := s.chan n
    let figure := (c.measured.map Measurements.figure).getD 0
    let t := s.judgeChannel n
    let requeued := State.modChan { s with probeQueue := s.probeQueue ++ [n] } n fun c => { c with
      state := .training .queued, goodRun := 0, badRun := 0, trainingEpochs := 0, proving := none, guard := none,
      player := none, rollback := c.rollback.map fun _ => false }
    let retrained := requeued.notifyLessee c.lessee ⟨.diverged, some n, [1, figure, 0]⟩
    (∀ k, c.proving = some k → t =
      if 8 ≤ c.goodRun then
        (s.modChan n fun c => { c with proving := none }).notifyLessee c.lessee ⟨.proving, some n, [0, figure]⟩
      else if k = 0 then requeued.notifyLessee c.lessee ⟨.proving, some n, [1, figure]⟩
      else s) ∧
    (c.proving = none → c.badRun < 16 → t = s) ∧
    (c.proving = none → 16 ≤ c.badRun →
      (c.policy.recovery = .stay → t = (s.modChan n fun c => { c with goodRun := 0, badRun := 0 }).notifyLessee c.lessee
        ⟨.diverged, some n, [0, figure, 0]⟩)
      ∧ (c.policy.recovery = .retrain → t = retrained)
      ∧ (c.policy.recovery = .rollback →
        (c.guard ≠ none ∨ c.rollback ≠ none ∨ (∀ r ∈ c.ring, r.ready = false) ∨ 16 ≤ s.mover.length → t = retrained)
        ∧ ∀ p before r after, c.guard = none → c.rollback = none → c.lessee = some p → s.mover.length < 16 →
          c.ring = before ++ r :: after → r.ready = true → (∀ x ∈ after, x.ready = false) →
          s.Within t
          ∧ t.mover = s.mover ++ [⟨BitVec.ofNat 8 n.val, p, .internal, true, .restore n r.id, c.profile.setTaps, 0⟩]
          ∧ (∃ marks, t.chan n = { c with
              goodRun := 0, badRun := 0, rollback := some true, marks := marks
              ring := c.ring.map fun x => if x.id = r.id then { x with pins := x.pins + 1 } else x })
          ∧ ((s.port p).joined = true → (t.port p).Told ⟨.diverged, some n, [2, figure, (r.id : Int)]⟩)
          ∧ (∀ m, m ≠ n → t.chan m = s.chan m) ∧ t.pool = s.pool ∧ t.probeQueue = s.probeQueue))

/-! ### The tap pool, the rings and the mover (spec/03, spec/06) -/

/-- SNAPSHOT (R55 to R57): refused WRONG_STATE in RELEASING, NOSPACE or BUSY without room, BUSY with a full mover queue, and
then nothing changes; otherwise a FILLING record, pinned once, takes the newest place, on segments of the free set or on
those of the oldest record that can be recycled, and its CAPTURE joins the queue; the pool is compared on the count that
results (R48). The record's id is the first from the next snapshot id upward, 255 followed by 1, that no record of the
ring has, the recycled one having left (R52). -/
def Obligations.SnapshotCreates : Prop :=
  (∀ c : Channel, c.ring.length < 255 → 1 ≤ c.nextSnapshot → c.nextSnapshot ≤ 255 →
    let id (k : Nat) := (c.nextSnapshot - 1 + k) % 255 + 1
    ∃ k, k < 255 ∧ c.newId = id k ∧ (∀ r ∈ c.ring, r.id ≠ id k) ∧ ∀ j, j < k → ∃ r ∈ c.ring, r.id = id j) ∧
  ∀ (s : State) (p : Port) (tag : Byte) (n : ChannelNo), s.Ready p → s.Granted → (s.chan n).lessee = some p →
    let c := s.chan n
    let params := [chanByte n]
    let refused (status : Status) : Prop :=
      exec (.snapshot p tag params) s = .next (s.answered p params ⟨status, tag, []⟩)
    let oldest := c.ring.find? fun r => r.ready && r.pins == 0
    let inRing := c.ring.length < 3 ∧ c.live.length ≤ s.pool.free.length
    let created (old : Channel) (segments : List Nat) (retired taken : Nat) : Prop :=
      let id := old.newId
      let figure := (c.measured.map Measurements.figure).getD 0
      ∃ t ring marks, exec (.snapshot p tag params) s = .next t
        ∧ (s.answered p params ⟨.ok, tag, enc1 id ++ enc1 retired ++ enc1 taken ++ enc1 figure⟩).Within t
        ∧ t.chan n = { c with ring := ring, nextSnapshot := id % 255 + 1, marks := marks }
        ∧ ring.map (fun r => { r with pins := 0 }) = old.records ++ [⟨id, false, segments, ⟨0, false⟩, figure, 0⟩]
        ∧ ring.getLast? = some ⟨id, false, segments, ⟨0, false⟩, figure, 1⟩
        ∧ t.mover = s.mover ++ [⟨tag, p, .internal, false, .capture n id, c.profile.setTaps, 0⟩]
        ∧ t.pool.free = s.pool.free.drop taken ∧ t.pool.taps = s.pool.taps ∧ s.PoolJudged t
        ∧ (∀ m, m ≠ n → t.chan m = s.chan m)
        ∧ t.players = s.players ∧ t.probeQueue = s.probeQueue ∧ t.cache = s.cache ∧ t.parkCounter = s.parkCounter
    if c.state = .releasing then refused .wrongState
    else if ¬inRing ∧ oldest = none then refused (if c.ring.length < 3 then .noSpace else .busy)
    else if 16 ≤ s.mover.length then refused .busy
    else if inRing then created c (s.pool.free.take c.live.length) 0 c.live.length
    else ∀ r, oldest = some r → created { c with ring := c.ring.filter fun x => x.id ≠ r.id } r.segments r.id 0

/-- RESTORE (R58): the checks in their order; accepted, an internal RESTORE order joins the queue, its record pinned once
more, and as head it marks the channel for its epoch (R65, R114). That it marks only while LOCKED, there being an epoch
only then, is the model's choice (log 21). -/
def Obligations.RestoreEnqueues : Prop :=
  ∀ (s : State) (p : Port) (tag id : Byte) (n : ChannelNo), s.Ready p → (s.chan n).lessee = some p →
    let c := s.chan n
    let params := [chanByte n, id]
    exec (.restore p tag params) s = .next
      (if c.state = .releasing then s.answered p params ⟨.wrongState, tag, []⟩
       else if id = 0 then s.answered p params ⟨.badParam, tag, []⟩
       else match c.ring.find? fun r => r.id == id.toNat with
        | none => s.answered p params ⟨.notFound, tag, []⟩
        | some r =>
          if r.ready = false then s.answered p params ⟨.wrongState, tag, []⟩
          else if 16 ≤ s.mover.length then s.answered p params ⟨.busy, tag, []⟩
          else
            (State.modChan
              { s with mover := s.mover ++ [⟨tag, p, .internal, false, .restore n id.toNat, c.profile.setTaps, 0⟩] } n
              fun c => { c with
                ring := c.ring.map fun x => if x.id = id.toNat then { x with pins := x.pins + 1 } else x
                marks := if s.mover = [] ∧ s.highway.sync = .locked then { c.marks with mover := true } else c.marks
              }).answered p params ⟨.ok, tag, enc1 r.figure ++ enc2 r.window.start ++ enc1 (if r.window.active then 1 else 0)⟩)

/-- DROP_SNAPSHOT (R59): the checks in their order; accepted, the record leaves the ring, its segments are free and
zero, and the pool is compared (R49). -/
def Obligations.DropSnapshotFrees : Prop :=
  ∀ (s : State) (p : Port) (tag id : Byte) (n : ChannelNo), s.Ready p → s.Granted → (s.chan n).lessee = some p →
    let c := s.chan n
    let params := [chanByte n, id]
    let refused (status : Status) : Prop :=
      exec (.dropSnapshot p tag params) s = .next (s.answered p params ⟨status, tag, []⟩)
    if id = 0 then refused .badParam
    else match c.ring.find? fun r => r.id == id.toNat with
      | none => refused .notFound
      | some r =>
        if 0 < r.pins then refused .busy
        else
          ∃ t, exec (.dropSnapshot p tag params) s = .next t
            ∧ (s.answered p params ⟨.ok, tag, enc1 r.segments.length⟩).Within t
            ∧ t.chan n = { c with ring := c.ring.filter fun x => x.id ≠ id.toNat }
            ∧ (∀ m, m ≠ n → t.chan m = s.chan m)
            ∧ (∀ x, x ∈ t.pool.free ↔ x ∈ s.pool.free ∨ ∃ y ∈ c.ring, y.id = id.toNat ∧ x ∈ y.segments)
            ∧ (∀ a, t.pool.taps.read a =
                if ∃ y ∈ c.ring, y.id = id.toNat ∧ a / 32 ∈ y.segments then 0 else s.pool.taps.read a)
            ∧ s.PoolJudged t ∧ t.mover = s.mover ∧ t.players = s.players ∧ t.probeQueue = s.probeQueue ∧ t.cache = s.cache
            ∧ t.parkCounter = s.parkCounter

/-- MOVE (R111, R112): out of range BAD_PARAM, a channel number above 47 BAD_CHANNEL, and then the status of the first of
the remaining checks that fails; accepted, one COMMAND order joins the queue, each record it names is pinned once more,
and an order that becomes head marks the channels whose live taps it reads or writes (R65, R114). That it marks only while
LOCKED, there being an epoch only then, is the model's choice (log 21). -/
def Obligations.MoveEnqueues : Prop :=
  ∀ (s : State) (p : Port) (tag : Byte) (params : List Byte) (mp : MoveParams), s.Ready p → parseMove params = some mp →
    if mp.inRange = false then exec (.move p tag params) s = .next (s.answered p params ⟨.badParam, tag, []⟩)
    else match mp.work? with
      | none => exec (.move p tag params) s = .next (s.answered p params ⟨.badChannel, tag, []⟩)
      | some w =>
        match s.moveRefusal p w with
        | some status => exec (.move p tag params) s = .next (s.answered p params ⟨status, tag, []⟩)
        | none =>
          ∃ t, exec (.move p tag params) s = .next t
            ∧ (s.answered p params ⟨.ok, tag, [tag] ++ enc2 w.dest.count ++ enc1 s.mover.length⟩).Within t
            ∧ t.mover = s.mover ++ [⟨tag, p, .command, false, w, w.dest.count, 0⟩]
            ∧ (∀ m, t.chan m = { s.chan m with
                ring := (s.chan m).ring.map fun r =>
                  if (m, r.id) ∈ w.snapshots then { r with pins := r.pins + 1 } else r
                marks := if s.mover = [] ∧ s.highway.sync = .locked ∧ w.touchesLive m = true then
                  { (s.chan m).marks with mover := true } else (s.chan m).marks })
            ∧ t.pool = s.pool ∧ t.players = s.players ∧ t.probeQueue = s.probeQueue ∧ t.cache = s.cache
            ∧ t.parkCounter = s.parkCounter

/-- The refusals of MOVE after the parameter checks, in their order (R111 steps 3 to 6). That NOT_FOUND is judged over all
regions before FILLING is the model's choice (log 29). -/
def Obligations.MoveRefusals : Prop :=
  ∀ (s : State) (p : Port) (w : Work),
    let bad (r : Region) : Option Status :=
      match (s.chan r.channel).lessee with
      | none => some .wrongState
      | some q => if q ≠ p then some .notLessee
        else if (s.chan r.channel).state = .releasing then some .wrongState else none
    let record (r : Region) (which : Snapshot → Bool) : Prop :=
      ∀ id, r.copy = .snapshot id → ∃ x, (s.chan r.channel).ring.find? (fun x => x.id == id) = some x ∧ which x = true
    ((∀ r ∈ w.regions, bad r = none) ∨
      ∃ before r after status, w.regions = before ++ r :: after ∧ (∀ x ∈ before, bad x = none)
        ∧ bad r = some status ∧ s.moveRefusal p w = some status) ∧
    ((∀ r ∈ w.regions, bad r = none) →
      (¬(∀ r ∈ w.regions, record r fun _ => true) → s.moveRefusal p w = some .notFound) ∧
      ((∀ r ∈ w.regions, record r fun _ => true) → ¬(∀ r ∈ w.regions, record r Snapshot.ready) →
        s.moveRefusal p w = some .wrongState) ∧
      ((∀ r ∈ w.regions, record r Snapshot.ready) → s.workFits w = false → s.moveRefusal p w = some .badParam) ∧
      ((∀ r ∈ w.regions, record r Snapshot.ready) → s.workFits w = true →
        s.moveRefusal p w =
          if 16 ≤ s.mover.length
              ∨ 6 ≤ (s.mover.countP fun o => o.origin == .command && o.port == p) then some .busy else none))

/-- CANCEL_MOVE (R117, R118): the oldest order of the issuing port with the tag leaves the queue, its MOVE_DONE reporting
CANCELLED and its progress; a CAPTURE's record is discarded, its segments free and zero, other records it names lose a
pin, a rollback order is forgotten, and the first order left marks the channels whose live taps it reads or writes; the
taps it has written stay. That the response gives QUEUED as 0 and IN FLIGHT as 1 (log 16), that the pool is compared after
MOVE_DONE (log 31), and that the first order left marks only while LOCKED (log 21), is the model's choice. -/
def Obligations.CancelMoveEndsOldest : Prop :=
  ∀ (s : State) (p : Port) (tag order : Byte), s.Ready p → s.Granted →
    ((∀ o ∈ s.mover, o.port = p → o.tag ≠ order) →
      exec (.cancelMove p tag [order]) s = .next (s.answered p [order] ⟨.notFound, tag, []⟩)) ∧
    ∀ before o after, s.mover = before ++ o :: after → o.port = p → o.tag = order →
      (∀ x ∈ before, x.port = p → x.tag ≠ order) →
      ∃ t, exec (.cancelMove p tag [order]) s = .next t
        ∧ (s.answered p [order] ⟨.ok, tag,
            enc1 o.work.code ++ enc1 (if before = [] then 1 else 0) ++ enc2 o.progress⟩).Within t
        ∧ t.mover = before ++ after
        ∧ (t.port p).Told ⟨.moveDone, some o.work.channel,
            [1, (order.toNat : Int), (o.work.code : Int), (o.progress : Int)]⟩
        ∧ (∀ m, t.chan m = { s.chan m with
            ring := match o.work with
              | .capture n id => if m = n then (s.chan m).ring.filter fun r => r.id ≠ id else (s.chan m).ring
              | w => (s.chan m).ring.map fun r => if (m, r.id) ∈ w.snapshots then { r with pins := r.pins - 1 } else r
            rollback := if o.rollback = true ∧ m = o.work.channel then none else (s.chan m).rollback
            marks := if s.highway.sync = .locked ∧ (before ++ after).head?.any (fun x => x.work.touchesLive m) = true then
              { (s.chan m).marks with mover := true } else (s.chan m).marks })
        ∧ s.PoolJudged t
        ∧ (match o.work with
           | .capture n id => (∀ a, t.pool.taps.read a =
                   if ∃ y ∈ (s.chan n).ring, y.id = id ∧ a / 32 ∈ y.segments then 0 else s.pool.taps.read a)
               ∧ ∀ x, x ∈ t.pool.free ↔
                   x ∈ s.pool.free ∨ ∃ y ∈ (s.chan n).ring, y.id = id ∧ x ∈ y.segments
           | _ => t.pool = s.pool)
        ∧ t.players = s.players ∧ t.probeQueue = s.probeQueue ∧ t.cache = s.cache ∧ t.parkCounter = s.parkCounter

/-- One offset of an order (R106 to R108, R110): the destination tap takes what the kind writes there, a tap that is not
written keeps its value, and so does every other tap. -/
def Obligations.OneOffsetMoves : Prop :=
  ∀ (s : State) (w : Work) (offset a : Nat), s.pool.taps.wf = true → s.regionTap w.dest offset = some a →
    let t := s.moveOffset w offset
    let old := s.pool.taps.read a
    let source (r : Region) : Tap := s.pool.taps.readAt (s.regionTap r offset)
    (∀ b, b ≠ a → t.pool.taps.read b = s.pool.taps.read b) ∧ t = { s with pool := t.pool }
      ∧ t.pool.free = s.pool.free ∧ t.pool.flag = s.pool.flag
      ∧ match w with
        | .copy r _ keyed => t.pool.taps.read a = if keyed = true ∧ source r = 0 then old else source r
        | .fill _ value => t.pool.taps.read a = value
        | .expand _ mask fore back transparent => t.pool.taps.read a =
            if mask.getLsbD (offset % 32) then fore else if transparent then old else back
        | .blend r _ weight => t.pool.taps.read a = roundDiv (weight * source r + (8 - weight) * old) 8
        | .capture n _ => t.pool.taps.read a = source ⟨n, .live, .set, 0, 0⟩
        | .restore n id => t.pool.taps.read a = source ⟨n, .snapshot id, .set, 0, 0⟩

/-- The completion of an order that has reached its total (R116): it leaves the queue; a CAPTURE's record takes the far
window and is READY, a RESTORE writes the far window; every record it names loses a pin; a rollback order is forgotten,
and sets the guard to 100 where its channel has stayed in TRACKING (R85); the next order marks the channels whose live
taps it reads or writes, only while LOCKED: the model's choice (log 21); its port is told. An order short of its total does
not complete: the model's choice (log 5). In a run the epoch end that brings an order to its total completes it at once:
the model's choice (log 7). -/
def Obligations.OrderCompletes : Prop :=
  ∀ (s : State) (o : Order) (rest : List Order), s.quiet = true → s.Granted → s.mover = o :: rest →
    (o.progress < o.total → exec .orderComplete s = .next s) ∧
    (o.total ≤ o.progress →
      ∃ t, exec .orderComplete s = .next t ∧ s.Completed t o rest)

/-! ### The route cache (spec/07) -/

/-- MOVER_STATUS (R121) and CACHE_LIST (R133): a first position above 15 is refused; otherwise the counts and one entry for
each of the next five orders, or six entries of the cache, that exist; nothing but the answered port changes. The count
byte before the entries, as R179 gives it for a list, is the model's choice (log 16). That entries which the last tick has
brought to the lifetime leave, by CACHE_AGED (R129), before the list is read, so that every age is in R133's 0..239, is the
model's choice (log 32). -/
def Obligations.ListCommandsReport : Prop :=
  ∀ (s : State) (p : Port) (tag first : Byte), s.Ready p →
    exec (.moverStatus p tag [first]) s = .next (s.answered p [first]
      (if 15 < first.toNat then ⟨.badParam, tag, []⟩
       else
        let places := (List.range 5).filterMap fun i => (s.mover[first.toNat + i]?).map fun o => (first.toNat + i, o)
        ⟨.ok, tag, enc1 s.mover.length
          ++ (allPorts.flatMap fun q => enc1 (s.mover.countP fun o => o.origin == .command && o.port == q))
          ++ enc1 places.length ++ places.flatMap fun (i, o) =>
            enc1 i ++ [o.tag] ++ enc1 o.port.val ++ enc1 o.origin.code ++ enc1 o.work.code
              ++ enc1 o.work.channel.val ++ enc2 o.progress ++ enc2 o.total⟩)) ∧
    ∃ u : State,
      let due := s.cache.any fun e => decide (s.config.cacheLifetime * 60000 ≤ (s.timebase - e.parkTime).toNat)
      (due = false → u = s) ∧ (due = true → exec .cacheAged s = .next u)
        ∧ (s.config.cacheLifetime ≤ 240 → ∀ e ∈ u.cache, (u.timebase - e.parkTime).toNat / 60000 ≤ 239)
        ∧ exec (.cacheList p tag [first]) s = .next
          (if 15 < first.toNat then s.answered p [first] ⟨.badParam, tag, []⟩
           else
            let places := (List.range 6).filterMap fun i => (u.cache[first.toNat + i]?).map fun e => (first.toNat + i, e)
            u.answered p [first] ⟨.ok, tag,
              enc1 u.cache.length ++ enc2 ((u.cache.map fun e => e.segments.length).sum : Nat) ++ enc1 u.config.cacheLifetime
              ++ enc1 places.length ++ places.flatMap fun (i, e) =>
                enc1 i ++ enc2 e.routeTag ++ enc1 e.near ++ enc2 e.far ++ enc1 e.eq ++ enc1 e.figure
                  ++ enc1 ((u.timebase - e.parkTime).toNat / 60000 : Nat)⟩)

/-- CACHE_PURGE (R134): tag 0 is refused, and a tag under which there is no entry; otherwise the entry leaves, its segments
are free and zero, and every joined port is told. -/
def Obligations.CachePurgeRemoves : Prop :=
  ∀ (s : State) (p : Port) (tag hi lo : Byte), s.Ready p → s.Granted →
    let route := hi.toNat * 256 + lo.toNat
    let params := [hi, lo]
    if route = 0 then exec (.cachePurge p tag params) s = .next (s.answered p params ⟨.badParam, tag, []⟩)
    else match s.cache.find? fun e => e.routeTag == route with
      | none => exec (.cachePurge p tag params) s = .next (s.answered p params ⟨.notFound, tag, []⟩)
      | some e =>
        ∃ t, exec (.cachePurge p tag params) s = .next t
          ∧ (s.answered p params ⟨.ok, tag, enc1 e.segments.length⟩).Within t
          ∧ t.cache = (s.cache.filter fun x => x.routeTag ≠ route)
          ∧ (∀ x, x ∈ t.pool.free ↔ x ∈ s.pool.free ∨ x ∈ e.segments)
          ∧ (∀ a, t.pool.taps.read a = if a / 32 ∈ e.segments then 0 else s.pool.taps.read a)
          ∧ (t.pool.flag = if t.pool.free.length = s.pool.free.length then s.pool.flag
              else if t.pool.free.length < s.config.poolLowWater then .low
              else if s.config.poolLowWater + 16 ≤ t.pool.free.length then .normal else s.pool.flag)
          ∧ (s.pool.flag = .low → t.pool.flag = .normal → ∀ q, (s.port q).joined = true →
              (t.port q).Told ⟨.poolRecovered, none, [(t.pool.free.length : Int), (s.config.poolLowWater : Int)]⟩)
          ∧ (∀ q, (s.port q).joined = true → (t.port q).Told ⟨.cacheEvicted, none,
              [4, (route : Int), (e.segments.length : Int), (t.cache.length : Int)]⟩)
          ∧ t.channels = s.channels ∧ t.players = s.players ∧ t.probeQueue = s.probeQueue ∧ t.mover = s.mover
          ∧ t.parkCounter = s.parkCounter

/-- The lifetime judgment of the cache (R129): every entry that has reached the lifetime leaves, its segments free and
zero, each told to every joined port with reason AGED, oldest-parked first (R132), the pool is compared once (R49), and
nothing else of the calls changes. That the judgment is a step of its own after the tick that brings an entry to the lifetime
(log 8), and that without such an entry there is no event (log 5), is the model's choice. -/
def Obligations.AgedEntriesLeave : Prop :=
  ∀ s : State, s.quiet = true → s.Granted →
    let aged (e : CacheEntry) : Bool := decide (s.config.cacheLifetime * 60000 ≤ (s.timebase - e.parkTime).toNat)
    (s.cache.all (fun e => !aged e) = true → exec .cacheAged s = .next s) ∧
    ∃ t, exec .cacheAged s = .next t ∧ s.Within t
      ∧ ((s.cache.map CacheEntry.routeTag).Nodup → (t.cache = s.cache.filter fun e => !aged e)
          ∧ ∀ q, (s.port q).joined = true →
            s.Raised t q [] (evictNotices 3 s.cache.length (s.cache.filter aged)))
      ∧ (∀ x, x ∈ t.pool.free ↔ x ∈ s.pool.free ∨ ∃ e ∈ s.cache, aged e = true ∧ x ∈ e.segments)
      ∧ (∀ a, t.pool.taps.read a =
          if ∃ e ∈ s.cache, aged e = true ∧ a / 32 ∈ e.segments then 0 else s.pool.taps.read a)
      ∧ s.PoolJudged t
      ∧ t.channels = s.channels ∧ t.players = s.players ∧ t.probeQueue = s.probeQueue ∧ t.mover = s.mover
      ∧ t.parkCounter = s.parkCounter

/-! ### Notices (spec/10) -/

/-- The arrival of a notice at a queue (R167): merge, place or overflow; ATTN is judged (R169). -/
def Obligations.NoticeArrives : Prop :=
  ∀ (r : PortRecord) (n : Notice),
    let queued := r.queue.any fun x => decide (x.key = n.key)
    let t := r.arrive n
    t = { r with queue := t.queue, overflow := t.overflow, attn := t.attn } ∧
    (queued = true → t.queue = (r.queue.map fun x => if x.key = n.key then n else x) ∧ t.overflow = r.overflow
      ∧ t.queue.length = r.queue.length) ∧
    (queued = false → r.queue.length < 32 → t.queue = r.queue ++ [n] ∧ t.overflow = r.overflow) ∧
    (queued = false → 32 ≤ r.queue.length → t.queue = r.queue ∧ t.overflow = true ∧ t.attn = r.attn) ∧
    (queued = true ∨ r.queue.length < 32 → t.attn = t.queue.any fun x => !r.mask.contains x.kind) ∧
    ((r.attn = r.queue.any fun x => !r.mask.contains x.kind) → t.attn = t.queue.any fun x => !r.mask.contains x.kind)

/-- READ_NOTICES (R168): up to six notices, the urgent ones first and each class oldest first, leave the queue; the
overflow flag is reported and cleared; ATTN is judged (R169). -/
def Obligations.ReadNoticesReturns : Prop :=
  ∀ (s : State) (p : Port) (tag : Byte), s.Ready p →
    let r := s.port p
    let urgent := r.queue.filter fun n => n.kind.urgent
    let routine := r.queue.filter fun n => !n.kind.urgent
    let taken := urgent.take 6 ++ routine.take (6 - urgent.length)
    ∃ left, left.Sublist r.queue
      ∧ (left.filter fun n => n.kind.urgent) = urgent.drop 6
      ∧ (left.filter fun n => !n.kind.urgent) = routine.drop (6 - urgent.length)
      ∧ exec (.readNotices p tag []) s = .next
          ((s.modPort p fun q => { q with
              queue := left, overflow := false, attn := left.any fun n => !q.mask.contains n.kind }).answered p []
            ⟨.ok, tag, enc1 taken.length ++ enc1 left.length ++ enc1 (if r.overflow then 1 else 0)
              ++ taken.flatMap Notice.bytes⟩)

/-- MASK_NOTICES (R169): a list that names a value that is no kind is refused; otherwise the set replaces the mask and ATTN
is judged. A list longer than the 19 kinds is refused (log 20, the model's choice). That the old mask is
answered as a list of codes in the order it is kept in is the model's choice too (log 16). -/
def Obligations.MaskNoticesReplaces : Prop :=
  ∀ (s : State) (p : Port) (tag : Byte) (codes : List Byte), s.Ready p → codes.length ≤ 255 →
    let params := BitVec.ofNat 8 codes.length :: codes
    if codes.length ≤ 19 ∧ ∀ code ∈ codes, 1 ≤ code.toNat ∧ code.toNat ≤ 19 then
      ∃ mask : List NoticeKind, (∀ k, k ∈ mask ↔ ∃ code ∈ codes, k.code = code.toNat) ∧ mask.Nodup
        ∧ exec (.maskNotices p tag params) s = .next
            ((s.modPort p fun q => { q with
                mask := mask, attn := q.queue.any fun n => !mask.contains n.kind }).answered p params
              ⟨.ok, tag, enc1 (s.port p).mask.length ++ ((s.port p).mask.flatMap fun k => enc1 k.code)
                ++ enc1 ((s.port p).queue.countP fun n => !mask.contains n.kind)⟩)
    else exec (.maskNotices p tag params) s = .next (s.answered p params ⟨.badParam, tag, []⟩)

/-- DISCARD_NOTICES (R170). -/
def Obligations.DiscardNoticesRemoves : Prop :=
  ∀ (s : State) (p : Port) (tag code : Byte), s.Ready p →
    (code = 0 ∨ 19 < code.toNat →
      exec (.discardNotices p tag [code]) s = .next (s.answered p [code] ⟨.badParam, tag, []⟩)) ∧
    ∀ kind : NoticeKind, kind.code = code.toNat →
      exec (.discardNotices p tag [code]) s = .next
        ((s.modPort p fun q =>
          let left := q.queue.filter fun n => n.kind ≠ kind
          { q with queue := left, attn := left.any fun n => !q.mask.contains n.kind }).answered p [code]
          ⟨.ok, tag, enc1 ((s.port p).queue.countP fun n => n.kind == kind)⟩)

/-! ### The highway, the epoch and the timebase (spec/02, spec/09) -/

/-- One LOCKED frame (R28 to R30, R37): for each channel, by Table 2-1, the two samples of the next frame's slots, the
histories, the sums of the epoch, and the player. A PLAYING player plays one code, the sample of R90, and moves on; a PAUSED
one plays none and holds (R94); the epoch counts the frames that found the channel in an adapting state (R63) and whether
one found its player PAUSED (R64). A VACANT channel sends zeros. A history takes a sample and
keeps its newest. That the residuals kept are 144, of which the newest 64 are R28's history (log 13), and that the echo
estimate is rounded once, on the sum of near and far (log 15), is the model's choice. So is it that the 80th frame leaves the
frame count at 80 and the frame that plays the last code leaves its play at remaining 0, until the epoch end and the end of
play are taken (log 6), that a history is a list without its oldest zeros (log 25), and that the samples are operands
(log 11). -/
def Obligations.LockedFrameForms : Prop :=
  (∀ (limit : Nat) (x : Sample) (history : List Sample) (i : Nat),
    (pushSample limit x history).getD i 0 = if i < limit then (x :: history).getD i 0 else 0) ∧
  ∀ (s : State) (lineIn pumpIn : Vector Slot 48), s.quiet = true → s.highway.sync = .locked → s.PlayersSound →
    ∃ t, exec (.lockedFrame lineIn pumpIn) s = .next t
      ∧ t = { s with channels := t.channels, players := t.players, highway := t.highway }
      ∧ t.highway = { s.highway with
          epochFrames := s.highway.epochFrames + 1, lineOut := t.highway.lineOut, pumpOut := t.highway.pumpOut }
      ∧ (∀ k, (∀ n, (s.chan n).state = .training .probing → (s.chan n).player ≠ some k) → t.play k = s.play k)
      ∧ ∀ n : ChannelNo,
          let c := s.chan n
          if c.state = .vacant then
            t.chan n = c ∧ t.highway.lineOut.get n = 0 ∧ t.highway.pumpOut.get n = 0
          else
            let line := (lineIn.get n).toInt
            let player := if c.state = .training .probing then c.player.bind fun k => (s.play k).map (k, ·) else none
            let playing := player.filter fun x => !x.2.paused
            let source := playing.elim (pumpIn.get n).toInt fun x => x.2.playCode.1
            let adapting : Bool := playing.isSome || c.state == .training .settling || c.state == .training .stalled
              || c.state == .tracking
            let reference := pushSample 5440 source c.reference
            let near := ((List.range c.profile.near).map fun i => s.tap n .live .near i * reference.getD i 0).sum
            let far := if c.window.active then
              ((List.range c.profile.far).map fun i =>
                s.tap n .live .far i * reference.getD (c.window.start + i) 0).sum else 0
            let estimate := clampSample (roundDiv (near + far) 32767)
            let cancelled := decide (c.state ≠ .stranded)
            let residual := if cancelled then clampSample (line - estimate) else line
            let residuals := pushSample 144 residual c.residuals
            let equalized := ((List.range c.profile.eq).map fun j =>
              s.tap n .live .equal j * residuals.getD j 0).sum
            t.highway.lineOut.get n = source
              ∧ t.highway.pumpOut.get n = (if cancelled then clampSample (roundDiv equalized 32767) else line)
              ∧ t.chan n = { c with
                  reference := reference, residuals := residuals
                  sums := ⟨c.sums.line + line.natAbs ^ 2, c.sums.estimate + (if cancelled then estimate.natAbs ^ 2 else 0),
                    c.sums.residual + residual.natAbs ^ 2, c.sums.frames + 1⟩
                  marks := { c.marks with
                    adapting := c.marks.adapting + (if adapting then 1 else 0)
                    paused := c.marks.paused || player.any fun x => x.2.paused } }
              ∧ ∀ k play, player = some (k, play) → t.play k = some
                  (if play.paused then play
                   else play.playCode.2.locate c.profile.near reference line play.playCode.1)

/-- The frame boundary (R32) and the stopped bit clock (R35): a good boundary clears the fault count, a first fault sets
it, a second one loses sync with the cause it has; a millisecond without a bit clock loses sync at once, and in a hunt
starts it again. The fault count 0 in HUNTING (log 30), and the epoch marks of every channel cleared with the partial epoch
at the loss of sync (log 21), are the model's choice. So is it that the output slots are zero at once (log 28), that a history
of zeros is the empty list (log 25), and that where the pulses came is an operand (log 11). -/
def Obligations.BoundaryJudged : Prop :=
  ∀ s : State, s.quiet = true →
    (s.highway.sync = .locked →
      (exec (.frameBoundary true false) s = .next { s with highway := { s.highway with faultCount := 0 } }) ∧
      (∀ at_ elsewhere, (at_ && !elsewhere) = false →
        (s.highway.faultCount = 0 →
          exec (.frameBoundary at_ elsewhere) s = .next { s with highway := { s.highway with faultCount := 1 } }) ∧
        (s.highway.faultCount ≠ 0 →
          ∃ t, exec (.frameBoundary at_ elsewhere) s = .next t
            ∧ s.SyncLost t (if elsewhere then .misplaced else .missing))) ∧
      ∃ t, exec .noClock s = .next t ∧ s.SyncLost t .noClock) ∧
    (s.highway.sync = .hunting →
      exec .noClock s = .next { s with highway := { s.highway with runCount := 0, runReference := false } })

/-- The hunt (R34, R35): each pulse is judged against the run reference; the one that brings the run count to 16 locks the
highway and SYNC_RESTORED is broadcast; a pulse without a bit clock is not judged. Run count 0 and no run reference after
the lock are the model's choice (log 12), and so is the duration of a hunt in which the timebase count wraps, taken modulo
2^32 before it saturates (log 35). That the spacing of the pulses is an operand is the model's choice too (log 11). -/
def Obligations.HuntLocks : Prop :=
  ∀ s : State, s.quiet = true → s.highway.sync = .hunting →
    exec (.huntPulse none) s = .next s ∧
    ∀ clocks : Nat,
      let count := if s.highway.runReference = true ∧ clocks = 768 then s.highway.runCount + 1 else 0
      (count ≠ 16 → exec (.huntPulse (some clocks)) s = .next
        { s with highway := { s.highway with runCount := count, runReference := true } }) ∧
      (count = 16 → ∃ t, exec (.huntPulse (some clocks)) s = .next t
        ∧ t.highway = { s.highway with
            sync := .locked, faultCount := 0, runCount := 0, runReference := false, epochFrames := 0 }
        ∧ s.Heard t
        ∧ (∀ q, (s.port q).joined = true → (t.port q).Told ⟨.syncRestored, none,
            [(min 65535 (s.timebase - s.highway.huntStart).toNat : Nat),
             (s.highway.epochCounter.toNat / 65536 : Nat), (s.highway.epochCounter.toNat % 65536 : Nat)]⟩)
        ∧ (∀ n, ∃ marks, t.chan n = { s.chan n with marks := marks })
        ∧ t = { s with highway := t.highway, channels := t.channels, ports := t.ports })

/-- The epoch end (R36, R37, R61, R62, R96, R115, R156): the counts move, each channel that is handed measurements records
them and its level is judged, the detector and the freeze reasons of each channel follow, the sums and the frame counts
start again, every play takes its locator sums, and the order in flight goes on by its next 256 offsets, or those that
remain, in ascending order (R110), and completes at its total in the same event (R116); orders that join are rollback
orders. The blocks' pieces of work are done in an order left open (log 1), the engine's for a channel in the seven steps
of R61. A channel is handed measurements where its sums cover 80 frames, levels in dBm0 with 2^28 as a mean square at 0 dB
(R37); in STRANDED the estimate -70 and the figure 0 (log 19, the model's choice). That the frame count stands at 80 until
this row is taken (log 6), that the next order marks its channels at a completion only while LOCKED (log 21), and that the
freeze reasons LOSS and PAUSE read the status at the epoch's start and the mark of a
PAUSED player from the record as the epoch end finds it (log 33), is the model's choice; so is it that MOVER is read from a
mark that is set only while LOCKED and cleared at the loss of sync and on becoming VACANT (log 21), and that players are
granted once, at the end of the epoch end (log 28). -/
def Obligations.EpochEnds : Prop :=
  (∀ energy : Nat, levelOfEnergy energy =
    if energy = 0 then -70 else max (-70) (min 3 (round (10 * Real.logb 10 ((energy : ℝ) / (80 * 2 ^ 28)))))) ∧
  (∀ c : Channel, c.handed =
    let receive := levelOfEnergy c.sums.line
    if c.sums.frames ≠ 80 then none
    else if c.state = .stranded then some ⟨0, receive, -70⟩
    else some ⟨max 0 (min 60 (receive - levelOfEnergy c.sums.residual)), receive, levelOfEnergy c.sums.estimate⟩) ∧
  (∀ (s u : State) (n : ChannelNo), (s.chan n).state ≠ .vacant → (s.chan n).state ≠ .stranded →
    let c₀ := s.chan n
    let measured := u.modChan n fun c => { c with measured := match c₀.handed with | some m => some m | none => c.measured }
    let frozen := (measured.detect n c₀.handed).modChan n fun c => { c with freeze := c₀.freezeReasons s.config }
    s.engineWork u n = ((frozen.adaptChannel c₀ n).modChan n fun c => c.countEpoch c₀.guard).judgeChannel n) ∧
  (∀ (s : State) (o : Order) (rest : List Order), s.mover = o :: rest →
    let count := min 256 (o.total - o.progress)
    let moved := (List.range count).foldl (fun u i => u.moveOffset o.work (o.progress + i)) s
    (o.progress + 256 < o.total →
      s.advanceHead = { moved with mover := { o with progress := o.progress + 256 } :: rest }) ∧
    (o.total ≤ o.progress + 256 → moved.Completed s.advanceHead o rest)) ∧
  ∀ s : State, (∀ k play, s.play k = some play → play.remaining ≠ 0) → s.highway.sync = .locked →
    80 ≤ s.highway.epochFrames →
    ∃ t, exec .epochEnd s = .next t
      ∧ t.highway = { s.highway with epochFrames := 0, epochCounter := s.highway.epochCounter + 1 }
      ∧ s.Heard t ∧ t.pending = s.pending ∧ t.claim = s.claim ∧ t.config = s.config ∧ t.timebase = s.timebase
      ∧ t.cache = s.cache ∧ t.parkCounter = s.parkCounter ∧ t.pool.free = s.pool.free ∧ t.pool.flag = s.pool.flag
      ∧ (∀ n, (t.chan n).sums = .zero ∧ (t.chan n).marks.adapting = 0 ∧ (t.chan n).marks.paused = false
          ∧ (t.chan n).lessee = (s.chan n).lessee ∧ (t.chan n).live = (s.chan n).live
          ∧ ((s.chan n).state ≠ .vacant →
              (t.chan n).measured = (match (s.chan n).handed with | some m => some m | none => (s.chan n).measured)
              ∧ (t.chan n).level = (match (s.chan n).handed with
                | some m => (s.chan n).level.judge s.config (s.chan n).policy.lossCode m.receive
                | none => (s.chan n).level)))
      ∧ (∀ n, let c := s.chan n
          ((t.chan n).freeze, (t.chan n).contentionLive, (t.chan n).hangover) =
            if c.state = .vacant ∨ c.state = .stranded then (c.freeze, c.contentionLive, c.hangover)
            else (c.freezeReasons s.config,
              if c.state ≠ .tracking then (false, 0)
              else match c.handed with
                | none => (c.contentionLive, c.hangover)
                | some m => if s.config.contentionMargin < m.receive - m.estimate then (true, 4) else (false, c.hangover - 1)))
      ∧ (∀ k play, s.play k = some play →
          t.play k = some { play with locator := play.locator.map Locator.takeEpoch })
      ∧ (∃ (works : List EpochWork) (u : State),
          let calls := allChannels.filter fun n => decide ((s.chan n).state ≠ .vacant)
          let run (v : State) : EpochWork → State
            | .engine n => s.engineWork v n
            | .level n => s.levelWork v n
            | .players => v.playersWork
            | .mover => if s.mover = [] then v else v.advanceHead
          works.Perm (calls.map .engine ++ calls.map .level ++ [.players, .mover])
          ∧ u = works.foldl run { s with freeIndex := s.freeIndex + 1, highway := t.highway }
          ∧ t.ports = u.ports ∧ t.pool = u.pool ∧ t.mover = u.mover ∧ t.Granted
          ∧ ∀ n, Channel.GrantedOr { u.chan n with
              sums := .zero, marks := ⟨0, false, t.mover.head?.any fun o => o.work.touchesLive n⟩ } (t.chan n))
      ∧ ∃ joined : List Order, (∀ o ∈ joined, o.origin = .internal ∧ o.rollback = true ∧ o.progress = 0)
          ∧ t.mover = (match s.mover with
            | [] => []
            | o :: rest => if o.total ≤ o.progress + 256 then rest else { o with progress := o.progress + 256 } :: rest)
            ++ joined

/-- The judgment of a receive level (R157 to R159): the entry runs, then entry to the deepest status whose condition
holds, and where no entry is made exit after three epochs at or above the exit level; LEVEL to the lessee at each
change. -/
def Obligations.LevelJudged : Prop :=
  ∀ (s₀ s : State) (n : ChannelNo) (m : Measurements), (s₀.chan n).handed = some m → (s₀.chan n).state ≠ .vacant →
    let cfg := s₀.config
    let r := (s₀.chan n).level
    let level := m.receive
    let warnRun := if level < cfg.levelWarn then min 3 (r.belowWarn + 1) else 0
    let lossRun := if level < cfg.levelLoss then min 75 (r.belowLoss + 1) else 0
    let debounce := match (s₀.chan n).policy.lossCode with | 0 => 1 | 1 => 3 | 2 => 15 | _ => 75
    let target : LevelStatus := if debounce ≤ lossRun then .loss else if level < cfg.levelFade then .fade
      else if warnRun = 3 then .low else .normal
    let exit := match r.status with
      | .normal => 0
      | .low => cfg.levelWarn + 2
      | .fade => cfg.levelFade + 2
      | .loss => cfg.levelLoss + 2
    let after : LevelRecord :=
      if r.status.code < target.code then ⟨target, warnRun, lossRun, 0, some level⟩
      else if r.status = .normal then ⟨.normal, warnRun, lossRun, r.recovery, some level⟩
      else if level < exit then ⟨r.status, warnRun, lossRun, 0, some level⟩
      else if r.recovery + 1 = 3 then
        ⟨if level < cfg.levelFade then .fade else if level < cfg.levelWarn then .low else .normal,
          warnRun, lossRun, 0, some level⟩
      else ⟨r.status, warnRun, lossRun, r.recovery + 1, some level⟩
    s₀.levelWork s n =
      if after.status = r.status then s.modChan n fun c => { c with level := after }
      else (s.modChan n fun c => { c with level := after }).notifyLessee (s.chan n).lessee
        ⟨.level, some n, [(after.status.code : Int), (r.status.code : Int), level]⟩

/-- The millisecond tick (R38): the count goes up by one, wrapping, and every running timer down by one. Where a timer has
reached 0 or an entry its lifetime, those expiries come first, in an order of the model's: leases, drains, holds,
strands, the cache (log 8, the model's choice). -/
def Obligations.TickCounts : Prop :=
  ∀ s : State, s.quiet = true →
    (∃ t, exec .timebaseTick s = .next t ∧ t.timebase = s.timebase + 1) ∧
    (let leases := allPorts.foldl State.expireLease s
     let drains := allChannels.foldl State.expireDrain leases
     let holds := allChannels.foldl State.expireHold drains
     let u := (allChannels.foldl State.expireStrand holds).expireCache
     u.Granted ∧ (∀ p, u.leaseDue p = false)
       ∧ (∀ n, u.drainDue n = false ∧ u.holdDue n = false ∧ u.strandDue n = false) ∧ (∀ e ∈ u.cache, u.aged e = false)
       ∧ (u.quiet = true → exec .timebaseTick s = exec .timebaseTick u)) ∧
    ((∀ p, s.leaseDue p = false) → (∀ n, s.drainDue n = false ∧ s.holdDue n = false ∧ s.strandDue n = false) →
      (∀ e ∈ s.cache, s.aged e = false) → s.Granted →
      ∃ t, exec .timebaseTick s = .next t ∧ t.timebase = s.timebase + 1
        ∧ (∀ p, t.port p = { s.port p with lease := (s.port p).lease.map fun k => k - 1 })
        ∧ (∀ n, t.chan n = { s.chan n with
            drainTimer := (s.chan n).drainTimer.map fun k => k - 1
            holdTimer := (s.chan n).holdTimer.map fun k => k - 1
            strandTimer := (s.chan n).strandTimer.map fun k => k - 1 })
        ∧ t = { s with timebase := t.timebase, ports := t.ports, channels := t.channels })

/-! ### Invariants -/

/-- The invariants hold right after reset. The model's choices in them are those that SoundKept names (logs 6, 12, 14, 30). -/
def Obligations.SoundAtReset : Prop :=
  State.reset.Sound ∧ State.reset.CallsSound ∧ State.reset.PlayersSound ∧ State.reset.Granted

/-- Every step keeps the ports, the claim, the configuration, the shared stores and the highway sound, and with them the
calls: every segment has one holder, a lessee is a joined port, the probe queue holds the QUEUED channels, the hold count
stays within its limit. Parts of it are the model's choice: the epoch frame count up to 80 (log 6), run count 0 and no run
reference while LOCKED (log 12), the canonical form of the taps (log 14), the fault count 0 in HUNTING (log 30). -/
def Obligations.SoundKept : Prop :=
  (∀ s t : State, s.Sound → step s = .next t → t.Sound) ∧
  ∀ s t : State, s.Sound → s.CallsSound → step s = .next t → t.CallsSound

/-- Every step keeps the players at one channel each, and leaves no player IDLE while a channel waits for one (R91, R93). -/
def Obligations.PlayersKept : Prop :=
  (∀ s t : State, s.PlayersSound → step s = .next t → t.PlayersSound) ∧
  ∀ s t : State, s.Granted → step s = .next t → t.Granted
end

