-- ==== Sys2Proof/Laws/State.lean ====
section
/-! SUPPORT. What each update of a record of the state leaves in each field of it, and what reading one record after
updating another gives. Every lemma of the first part is true by rfl. -/

namespace Sys2Proof.Machine


/-! ### State.modPort -/

@[simp] theorem modPort_pending (s : State) (p : Port) (f : PortRecord → PortRecord) : (s.modPort p f).pending = s.pending := rfl
@[simp] theorem modPort_freeIndex (s : State) (p : Port) (f : PortRecord → PortRecord) : (s.modPort p f).freeIndex = s.freeIndex := rfl
@[simp] theorem modPort_claim (s : State) (p : Port) (f : PortRecord → PortRecord) : (s.modPort p f).claim = s.claim := rfl
@[simp] theorem modPort_config (s : State) (p : Port) (f : PortRecord → PortRecord) : (s.modPort p f).config = s.config := rfl
@[simp] theorem modPort_channels (s : State) (p : Port) (f : PortRecord → PortRecord) : (s.modPort p f).channels = s.channels := rfl
@[simp] theorem modPort_pool (s : State) (p : Port) (f : PortRecord → PortRecord) : (s.modPort p f).pool = s.pool := rfl
@[simp] theorem modPort_players (s : State) (p : Port) (f : PortRecord → PortRecord) : (s.modPort p f).players = s.players := rfl
@[simp] theorem modPort_probeQueue (s : State) (p : Port) (f : PortRecord → PortRecord) : (s.modPort p f).probeQueue = s.probeQueue := rfl
@[simp] theorem modPort_mover (s : State) (p : Port) (f : PortRecord → PortRecord) : (s.modPort p f).mover = s.mover := rfl
@[simp] theorem modPort_cache (s : State) (p : Port) (f : PortRecord → PortRecord) : (s.modPort p f).cache = s.cache := rfl
@[simp] theorem modPort_parkCounter (s : State) (p : Port) (f : PortRecord → PortRecord) : (s.modPort p f).parkCounter = s.parkCounter := rfl
@[simp] theorem modPort_highway (s : State) (p : Port) (f : PortRecord → PortRecord) : (s.modPort p f).highway = s.highway := rfl
@[simp] theorem modPort_timebase (s : State) (p : Port) (f : PortRecord → PortRecord) : (s.modPort p f).timebase = s.timebase := rfl

/-! ### State.modChan -/

@[simp] theorem modChan_pending (s : State) (n : ChannelNo) (f : Channel → Channel) : (s.modChan n f).pending = s.pending := rfl
@[simp] theorem modChan_freeIndex (s : State) (n : ChannelNo) (f : Channel → Channel) : (s.modChan n f).freeIndex = s.freeIndex := rfl
@[simp] theorem modChan_ports (s : State) (n : ChannelNo) (f : Channel → Channel) : (s.modChan n f).ports = s.ports := rfl
@[simp] theorem modChan_claim (s : State) (n : ChannelNo) (f : Channel → Channel) : (s.modChan n f).claim = s.claim := rfl
@[simp] theorem modChan_config (s : State) (n : ChannelNo) (f : Channel → Channel) : (s.modChan n f).config = s.config := rfl
@[simp] theorem modChan_pool (s : State) (n : ChannelNo) (f : Channel → Channel) : (s.modChan n f).pool = s.pool := rfl
@[simp] theorem modChan_players (s : State) (n : ChannelNo) (f : Channel → Channel) : (s.modChan n f).players = s.players := rfl
@[simp] theorem modChan_probeQueue (s : State) (n : ChannelNo) (f : Channel → Channel) : (s.modChan n f).probeQueue = s.probeQueue := rfl
@[simp] theorem modChan_mover (s : State) (n : ChannelNo) (f : Channel → Channel) : (s.modChan n f).mover = s.mover := rfl
@[simp] theorem modChan_cache (s : State) (n : ChannelNo) (f : Channel → Channel) : (s.modChan n f).cache = s.cache := rfl
@[simp] theorem modChan_parkCounter (s : State) (n : ChannelNo) (f : Channel → Channel) : (s.modChan n f).parkCounter = s.parkCounter := rfl
@[simp] theorem modChan_highway (s : State) (n : ChannelNo) (f : Channel → Channel) : (s.modChan n f).highway = s.highway := rfl
@[simp] theorem modChan_timebase (s : State) (n : ChannelNo) (f : Channel → Channel) : (s.modChan n f).timebase = s.timebase := rfl

/-! ### State.setPlay -/

@[simp] theorem setPlay_pending (s : State) (k : PlayerNo) (x : Option Play) : (s.setPlay k x).pending = s.pending := rfl
@[simp] theorem setPlay_freeIndex (s : State) (k : PlayerNo) (x : Option Play) : (s.setPlay k x).freeIndex = s.freeIndex := rfl
@[simp] theorem setPlay_ports (s : State) (k : PlayerNo) (x : Option Play) : (s.setPlay k x).ports = s.ports := rfl
@[simp] theorem setPlay_claim (s : State) (k : PlayerNo) (x : Option Play) : (s.setPlay k x).claim = s.claim := rfl
@[simp] theorem setPlay_config (s : State) (k : PlayerNo) (x : Option Play) : (s.setPlay k x).config = s.config := rfl
@[simp] theorem setPlay_channels (s : State) (k : PlayerNo) (x : Option Play) : (s.setPlay k x).channels = s.channels := rfl
@[simp] theorem setPlay_pool (s : State) (k : PlayerNo) (x : Option Play) : (s.setPlay k x).pool = s.pool := rfl
@[simp] theorem setPlay_probeQueue (s : State) (k : PlayerNo) (x : Option Play) : (s.setPlay k x).probeQueue = s.probeQueue := rfl
@[simp] theorem setPlay_mover (s : State) (k : PlayerNo) (x : Option Play) : (s.setPlay k x).mover = s.mover := rfl
@[simp] theorem setPlay_cache (s : State) (k : PlayerNo) (x : Option Play) : (s.setPlay k x).cache = s.cache := rfl
@[simp] theorem setPlay_parkCounter (s : State) (k : PlayerNo) (x : Option Play) : (s.setPlay k x).parkCounter = s.parkCounter := rfl
@[simp] theorem setPlay_highway (s : State) (k : PlayerNo) (x : Option Play) : (s.setPlay k x).highway = s.highway := rfl
@[simp] theorem setPlay_timebase (s : State) (k : PlayerNo) (x : Option Play) : (s.setPlay k x).timebase = s.timebase := rfl

/-! ### State.setTaps -/

@[simp] theorem setTaps_pending (s : State) (taps : Memory) : (s.setTaps taps).pending = s.pending := rfl
@[simp] theorem setTaps_freeIndex (s : State) (taps : Memory) : (s.setTaps taps).freeIndex = s.freeIndex := rfl
@[simp] theorem setTaps_ports (s : State) (taps : Memory) : (s.setTaps taps).ports = s.ports := rfl
@[simp] theorem setTaps_claim (s : State) (taps : Memory) : (s.setTaps taps).claim = s.claim := rfl
@[simp] theorem setTaps_config (s : State) (taps : Memory) : (s.setTaps taps).config = s.config := rfl
@[simp] theorem setTaps_channels (s : State) (taps : Memory) : (s.setTaps taps).channels = s.channels := rfl
@[simp] theorem setTaps_players (s : State) (taps : Memory) : (s.setTaps taps).players = s.players := rfl
@[simp] theorem setTaps_probeQueue (s : State) (taps : Memory) : (s.setTaps taps).probeQueue = s.probeQueue := rfl
@[simp] theorem setTaps_mover (s : State) (taps : Memory) : (s.setTaps taps).mover = s.mover := rfl
@[simp] theorem setTaps_cache (s : State) (taps : Memory) : (s.setTaps taps).cache = s.cache := rfl
@[simp] theorem setTaps_parkCounter (s : State) (taps : Memory) : (s.setTaps taps).parkCounter = s.parkCounter := rfl
@[simp] theorem setTaps_highway (s : State) (taps : Memory) : (s.setTaps taps).highway = s.highway := rfl
@[simp] theorem setTaps_timebase (s : State) (taps : Memory) : (s.setTaps taps).timebase = s.timebase := rfl

/-! ### State.setMover -/

@[simp] theorem setMover_pending (s : State) (orders : List Order) : (s.setMover orders).pending = s.pending := rfl
@[simp] theorem setMover_freeIndex (s : State) (orders : List Order) : (s.setMover orders).freeIndex = s.freeIndex := rfl
@[simp] theorem setMover_ports (s : State) (orders : List Order) : (s.setMover orders).ports = s.ports := rfl
@[simp] theorem setMover_claim (s : State) (orders : List Order) : (s.setMover orders).claim = s.claim := rfl
@[simp] theorem setMover_config (s : State) (orders : List Order) : (s.setMover orders).config = s.config := rfl
@[simp] theorem setMover_channels (s : State) (orders : List Order) : (s.setMover orders).channels = s.channels := rfl
@[simp] theorem setMover_pool (s : State) (orders : List Order) : (s.setMover orders).pool = s.pool := rfl
@[simp] theorem setMover_players (s : State) (orders : List Order) : (s.setMover orders).players = s.players := rfl
@[simp] theorem setMover_probeQueue (s : State) (orders : List Order) : (s.setMover orders).probeQueue = s.probeQueue := rfl
@[simp] theorem setMover_cache (s : State) (orders : List Order) : (s.setMover orders).cache = s.cache := rfl
@[simp] theorem setMover_parkCounter (s : State) (orders : List Order) : (s.setMover orders).parkCounter = s.parkCounter := rfl
@[simp] theorem setMover_highway (s : State) (orders : List Order) : (s.setMover orders).highway = s.highway := rfl
@[simp] theorem setMover_timebase (s : State) (orders : List Order) : (s.setMover orders).timebase = s.timebase := rfl

/-! ### State.setProbeQueue -/

@[simp] theorem setProbeQueue_pending (s : State) (queue : List ChannelNo) : (s.setProbeQueue queue).pending = s.pending := rfl
@[simp] theorem setProbeQueue_freeIndex (s : State) (queue : List ChannelNo) : (s.setProbeQueue queue).freeIndex = s.freeIndex := rfl
@[simp] theorem setProbeQueue_ports (s : State) (queue : List ChannelNo) : (s.setProbeQueue queue).ports = s.ports := rfl
@[simp] theorem setProbeQueue_claim (s : State) (queue : List ChannelNo) : (s.setProbeQueue queue).claim = s.claim := rfl
@[simp] theorem setProbeQueue_config (s : State) (queue : List ChannelNo) : (s.setProbeQueue queue).config = s.config := rfl
@[simp] theorem setProbeQueue_channels (s : State) (queue : List ChannelNo) : (s.setProbeQueue queue).channels = s.channels := rfl
@[simp] theorem setProbeQueue_pool (s : State) (queue : List ChannelNo) : (s.setProbeQueue queue).pool = s.pool := rfl
@[simp] theorem setProbeQueue_players (s : State) (queue : List ChannelNo) : (s.setProbeQueue queue).players = s.players := rfl
@[simp] theorem setProbeQueue_mover (s : State) (queue : List ChannelNo) : (s.setProbeQueue queue).mover = s.mover := rfl
@[simp] theorem setProbeQueue_cache (s : State) (queue : List ChannelNo) : (s.setProbeQueue queue).cache = s.cache := rfl
@[simp] theorem setProbeQueue_parkCounter (s : State) (queue : List ChannelNo) : (s.setProbeQueue queue).parkCounter = s.parkCounter := rfl
@[simp] theorem setProbeQueue_highway (s : State) (queue : List ChannelNo) : (s.setProbeQueue queue).highway = s.highway := rfl
@[simp] theorem setProbeQueue_timebase (s : State) (queue : List ChannelNo) : (s.setProbeQueue queue).timebase = s.timebase := rfl

/-! ### State.setCache -/

@[simp] theorem setCache_pending (s : State) (entries : List CacheEntry) : (s.setCache entries).pending = s.pending := rfl
@[simp] theorem setCache_freeIndex (s : State) (entries : List CacheEntry) : (s.setCache entries).freeIndex = s.freeIndex := rfl
@[simp] theorem setCache_ports (s : State) (entries : List CacheEntry) : (s.setCache entries).ports = s.ports := rfl
@[simp] theorem setCache_claim (s : State) (entries : List CacheEntry) : (s.setCache entries).claim = s.claim := rfl
@[simp] theorem setCache_config (s : State) (entries : List CacheEntry) : (s.setCache entries).config = s.config := rfl
@[simp] theorem setCache_channels (s : State) (entries : List CacheEntry) : (s.setCache entries).channels = s.channels := rfl
@[simp] theorem setCache_pool (s : State) (entries : List CacheEntry) : (s.setCache entries).pool = s.pool := rfl
@[simp] theorem setCache_players (s : State) (entries : List CacheEntry) : (s.setCache entries).players = s.players := rfl
@[simp] theorem setCache_probeQueue (s : State) (entries : List CacheEntry) : (s.setCache entries).probeQueue = s.probeQueue := rfl
@[simp] theorem setCache_mover (s : State) (entries : List CacheEntry) : (s.setCache entries).mover = s.mover := rfl
@[simp] theorem setCache_parkCounter (s : State) (entries : List CacheEntry) : (s.setCache entries).parkCounter = s.parkCounter := rfl
@[simp] theorem setCache_highway (s : State) (entries : List CacheEntry) : (s.setCache entries).highway = s.highway := rfl
@[simp] theorem setCache_timebase (s : State) (entries : List CacheEntry) : (s.setCache entries).timebase = s.timebase := rfl

/-! ### State.setClaim -/

@[simp] theorem setClaim_pending (s : State) (holder : Option Port) : (s.setClaim holder).pending = s.pending := rfl
@[simp] theorem setClaim_freeIndex (s : State) (holder : Option Port) : (s.setClaim holder).freeIndex = s.freeIndex := rfl
@[simp] theorem setClaim_ports (s : State) (holder : Option Port) : (s.setClaim holder).ports = s.ports := rfl
@[simp] theorem setClaim_config (s : State) (holder : Option Port) : (s.setClaim holder).config = s.config := rfl
@[simp] theorem setClaim_channels (s : State) (holder : Option Port) : (s.setClaim holder).channels = s.channels := rfl
@[simp] theorem setClaim_pool (s : State) (holder : Option Port) : (s.setClaim holder).pool = s.pool := rfl
@[simp] theorem setClaim_players (s : State) (holder : Option Port) : (s.setClaim holder).players = s.players := rfl
@[simp] theorem setClaim_probeQueue (s : State) (holder : Option Port) : (s.setClaim holder).probeQueue = s.probeQueue := rfl
@[simp] theorem setClaim_mover (s : State) (holder : Option Port) : (s.setClaim holder).mover = s.mover := rfl
@[simp] theorem setClaim_cache (s : State) (holder : Option Port) : (s.setClaim holder).cache = s.cache := rfl
@[simp] theorem setClaim_parkCounter (s : State) (holder : Option Port) : (s.setClaim holder).parkCounter = s.parkCounter := rfl
@[simp] theorem setClaim_highway (s : State) (holder : Option Port) : (s.setClaim holder).highway = s.highway := rfl
@[simp] theorem setClaim_timebase (s : State) (holder : Option Port) : (s.setClaim holder).timebase = s.timebase := rfl

/-! ### State.setConfig -/

@[simp] theorem setConfig_pending (s : State) (cfg : SharedConfig) : (s.setConfig cfg).pending = s.pending := rfl
@[simp] theorem setConfig_freeIndex (s : State) (cfg : SharedConfig) : (s.setConfig cfg).freeIndex = s.freeIndex := rfl
@[simp] theorem setConfig_ports (s : State) (cfg : SharedConfig) : (s.setConfig cfg).ports = s.ports := rfl
@[simp] theorem setConfig_claim (s : State) (cfg : SharedConfig) : (s.setConfig cfg).claim = s.claim := rfl
@[simp] theorem setConfig_channels (s : State) (cfg : SharedConfig) : (s.setConfig cfg).channels = s.channels := rfl
@[simp] theorem setConfig_pool (s : State) (cfg : SharedConfig) : (s.setConfig cfg).pool = s.pool := rfl
@[simp] theorem setConfig_players (s : State) (cfg : SharedConfig) : (s.setConfig cfg).players = s.players := rfl
@[simp] theorem setConfig_probeQueue (s : State) (cfg : SharedConfig) : (s.setConfig cfg).probeQueue = s.probeQueue := rfl
@[simp] theorem setConfig_mover (s : State) (cfg : SharedConfig) : (s.setConfig cfg).mover = s.mover := rfl
@[simp] theorem setConfig_cache (s : State) (cfg : SharedConfig) : (s.setConfig cfg).cache = s.cache := rfl
@[simp] theorem setConfig_parkCounter (s : State) (cfg : SharedConfig) : (s.setConfig cfg).parkCounter = s.parkCounter := rfl
@[simp] theorem setConfig_highway (s : State) (cfg : SharedConfig) : (s.setConfig cfg).highway = s.highway := rfl
@[simp] theorem setConfig_timebase (s : State) (cfg : SharedConfig) : (s.setConfig cfg).timebase = s.timebase := rfl

/-! ### State.setFree -/

@[simp] theorem setFree_pending (s : State) (free : List Nat) : (s.setFree free).pending = s.pending := rfl
@[simp] theorem setFree_freeIndex (s : State) (free : List Nat) : (s.setFree free).freeIndex = s.freeIndex := rfl
@[simp] theorem setFree_ports (s : State) (free : List Nat) : (s.setFree free).ports = s.ports := rfl
@[simp] theorem setFree_claim (s : State) (free : List Nat) : (s.setFree free).claim = s.claim := rfl
@[simp] theorem setFree_config (s : State) (free : List Nat) : (s.setFree free).config = s.config := rfl
@[simp] theorem setFree_channels (s : State) (free : List Nat) : (s.setFree free).channels = s.channels := rfl
@[simp] theorem setFree_players (s : State) (free : List Nat) : (s.setFree free).players = s.players := rfl
@[simp] theorem setFree_probeQueue (s : State) (free : List Nat) : (s.setFree free).probeQueue = s.probeQueue := rfl
@[simp] theorem setFree_mover (s : State) (free : List Nat) : (s.setFree free).mover = s.mover := rfl
@[simp] theorem setFree_cache (s : State) (free : List Nat) : (s.setFree free).cache = s.cache := rfl
@[simp] theorem setFree_parkCounter (s : State) (free : List Nat) : (s.setFree free).parkCounter = s.parkCounter := rfl
@[simp] theorem setFree_highway (s : State) (free : List Nat) : (s.setFree free).highway = s.highway := rfl
@[simp] theorem setFree_timebase (s : State) (free : List Nat) : (s.setFree free).timebase = s.timebase := rfl

/-! ### State.setFlag -/

@[simp] theorem setFlag_pending (s : State) (flag : PoolFlag) : (s.setFlag flag).pending = s.pending := rfl
@[simp] theorem setFlag_freeIndex (s : State) (flag : PoolFlag) : (s.setFlag flag).freeIndex = s.freeIndex := rfl
@[simp] theorem setFlag_ports (s : State) (flag : PoolFlag) : (s.setFlag flag).ports = s.ports := rfl
@[simp] theorem setFlag_claim (s : State) (flag : PoolFlag) : (s.setFlag flag).claim = s.claim := rfl
@[simp] theorem setFlag_config (s : State) (flag : PoolFlag) : (s.setFlag flag).config = s.config := rfl
@[simp] theorem setFlag_channels (s : State) (flag : PoolFlag) : (s.setFlag flag).channels = s.channels := rfl
@[simp] theorem setFlag_players (s : State) (flag : PoolFlag) : (s.setFlag flag).players = s.players := rfl
@[simp] theorem setFlag_probeQueue (s : State) (flag : PoolFlag) : (s.setFlag flag).probeQueue = s.probeQueue := rfl
@[simp] theorem setFlag_mover (s : State) (flag : PoolFlag) : (s.setFlag flag).mover = s.mover := rfl
@[simp] theorem setFlag_cache (s : State) (flag : PoolFlag) : (s.setFlag flag).cache = s.cache := rfl
@[simp] theorem setFlag_parkCounter (s : State) (flag : PoolFlag) : (s.setFlag flag).parkCounter = s.parkCounter := rfl
@[simp] theorem setFlag_highway (s : State) (flag : PoolFlag) : (s.setFlag flag).highway = s.highway := rfl
@[simp] theorem setFlag_timebase (s : State) (flag : PoolFlag) : (s.setFlag flag).timebase = s.timebase := rfl

/-! ### State.modHighway -/

@[simp] theorem modHighway_pending (s : State) (f : Highway → Highway) : (s.modHighway f).pending = s.pending := rfl
@[simp] theorem modHighway_freeIndex (s : State) (f : Highway → Highway) : (s.modHighway f).freeIndex = s.freeIndex := rfl
@[simp] theorem modHighway_ports (s : State) (f : Highway → Highway) : (s.modHighway f).ports = s.ports := rfl
@[simp] theorem modHighway_claim (s : State) (f : Highway → Highway) : (s.modHighway f).claim = s.claim := rfl
@[simp] theorem modHighway_config (s : State) (f : Highway → Highway) : (s.modHighway f).config = s.config := rfl
@[simp] theorem modHighway_channels (s : State) (f : Highway → Highway) : (s.modHighway f).channels = s.channels := rfl
@[simp] theorem modHighway_pool (s : State) (f : Highway → Highway) : (s.modHighway f).pool = s.pool := rfl
@[simp] theorem modHighway_players (s : State) (f : Highway → Highway) : (s.modHighway f).players = s.players := rfl
@[simp] theorem modHighway_probeQueue (s : State) (f : Highway → Highway) : (s.modHighway f).probeQueue = s.probeQueue := rfl
@[simp] theorem modHighway_mover (s : State) (f : Highway → Highway) : (s.modHighway f).mover = s.mover := rfl
@[simp] theorem modHighway_cache (s : State) (f : Highway → Highway) : (s.modHighway f).cache = s.cache := rfl
@[simp] theorem modHighway_parkCounter (s : State) (f : Highway → Highway) : (s.modHighway f).parkCounter = s.parkCounter := rfl
@[simp] theorem modHighway_timebase (s : State) (f : Highway → Highway) : (s.modHighway f).timebase = s.timebase := rfl

/-! ### State.spendFree -/

@[simp] theorem spendFree_pending (s : State) : (s.spendFree).pending = s.pending := rfl
@[simp] theorem spendFree_ports (s : State) : (s.spendFree).ports = s.ports := rfl
@[simp] theorem spendFree_claim (s : State) : (s.spendFree).claim = s.claim := rfl
@[simp] theorem spendFree_config (s : State) : (s.spendFree).config = s.config := rfl
@[simp] theorem spendFree_channels (s : State) : (s.spendFree).channels = s.channels := rfl
@[simp] theorem spendFree_pool (s : State) : (s.spendFree).pool = s.pool := rfl
@[simp] theorem spendFree_players (s : State) : (s.spendFree).players = s.players := rfl
@[simp] theorem spendFree_probeQueue (s : State) : (s.spendFree).probeQueue = s.probeQueue := rfl
@[simp] theorem spendFree_mover (s : State) : (s.spendFree).mover = s.mover := rfl
@[simp] theorem spendFree_cache (s : State) : (s.spendFree).cache = s.cache := rfl
@[simp] theorem spendFree_parkCounter (s : State) : (s.spendFree).parkCounter = s.parkCounter := rfl
@[simp] theorem spendFree_highway (s : State) : (s.spendFree).highway = s.highway := rfl
@[simp] theorem spendFree_timebase (s : State) : (s.spendFree).timebase = s.timebase := rfl

/-! ### What the updates write -/

@[simp] theorem setMover_mover (s : State) (orders : List Order) : (s.setMover orders).mover = orders := rfl
@[simp] theorem setProbeQueue_probeQueue (s : State) (queue : List ChannelNo) :
    (s.setProbeQueue queue).probeQueue = queue := rfl
@[simp] theorem setCache_cache (s : State) (entries : List CacheEntry) : (s.setCache entries).cache = entries := rfl
@[simp] theorem setClaim_claim (s : State) (holder : Option Port) : (s.setClaim holder).claim = holder := rfl
@[simp] theorem setConfig_config (s : State) (cfg : SharedConfig) : (s.setConfig cfg).config = cfg := rfl
@[simp] theorem setTaps_taps (s : State) (taps : Memory) : (s.setTaps taps).pool.taps = taps := rfl
@[simp] theorem setTaps_free (s : State) (taps : Memory) : (s.setTaps taps).pool.free = s.pool.free := rfl
@[simp] theorem setTaps_flag (s : State) (taps : Memory) : (s.setTaps taps).pool.flag = s.pool.flag := rfl
@[simp] theorem setFree_free (s : State) (free : List Nat) : (s.setFree free).pool.free = free := rfl
@[simp] theorem setFree_taps (s : State) (free : List Nat) : (s.setFree free).pool.taps = s.pool.taps := rfl
@[simp] theorem setFree_flag (s : State) (free : List Nat) : (s.setFree free).pool.flag = s.pool.flag := rfl
@[simp] theorem setFlag_flag (s : State) (flag : PoolFlag) : (s.setFlag flag).pool.flag = flag := rfl
@[simp] theorem setFlag_free (s : State) (flag : PoolFlag) : (s.setFlag flag).pool.free = s.pool.free := rfl
@[simp] theorem setFlag_taps (s : State) (flag : PoolFlag) : (s.setFlag flag).pool.taps = s.pool.taps := rfl
@[simp] theorem modHighway_highway (s : State) (f : Highway → Highway) : (s.modHighway f).highway = f s.highway := rfl

/-! ### Reading a record after an update -/

theorem vector_get_set_self {α : Type} {n : Nat} (v : Vector α n) (i : Fin n) (x : α) : (v.set i x).get i = x := by
  show (v.set i.val x)[i.val] = x
  simp

theorem vector_get_set_of_ne {α : Type} {n : Nat} (v : Vector α n) {i j : Fin n} (x : α) (h : i ≠ j) :
    (v.set i x).get j = v.get j := by
  have e : i.val ≠ j.val := fun e => h (Fin.ext e)
  show (v.set i.val x)[j.val] = v[j.val]
  simp [e]

theorem vector_set_set {α : Type} {n : Nat} (v : Vector α n) (i : Fin n) (x y : α) :
    (v.set i x).set i y = v.set i y := by
  simp

theorem vector_set_get {α : Type} {n : Nat} (v : Vector α n) (i : Fin n) : v.set i (v.get i) = v := by
  show v.set i.val v[i.val] = v
  simp

@[simp] theorem port_modPort_self (s : State) (p : Port) (f : PortRecord → PortRecord) :
    (s.modPort p f).port p = f (s.port p) := by
  exact vector_get_set_self s.ports p _

theorem port_modPort_of_ne (s : State) {p q : Port} (f : PortRecord → PortRecord) (h : p ≠ q) :
    (s.modPort p f).port q = s.port q := by
  exact vector_get_set_of_ne s.ports _ h

theorem port_modPort (s : State) (p q : Port) (f : PortRecord → PortRecord) :
    (s.modPort p f).port q = if p = q then f (s.port q) else s.port q := by
  by_cases h : p = q
  · subst h; simp
  · simp [h, port_modPort_of_ne s f h]

@[simp] theorem chan_modChan_self (s : State) (n : ChannelNo) (f : Channel → Channel) :
    (s.modChan n f).chan n = f (s.chan n) := by
  exact vector_get_set_self s.channels n _

theorem chan_modChan_of_ne (s : State) {n m : ChannelNo} (f : Channel → Channel) (h : n ≠ m) :
    (s.modChan n f).chan m = s.chan m := by
  exact vector_get_set_of_ne s.channels _ h

theorem chan_modChan (s : State) (n m : ChannelNo) (f : Channel → Channel) :
    (s.modChan n f).chan m = if n = m then f (s.chan m) else s.chan m := by
  by_cases h : n = m
  · subst h; simp
  · simp [h, chan_modChan_of_ne s f h]

@[simp] theorem play_setPlay_self (s : State) (k : PlayerNo) (x : Option Play) : (s.setPlay k x).play k = x := by
  exact vector_get_set_self s.players k x

theorem play_setPlay_of_ne (s : State) {k j : PlayerNo} (x : Option Play) (h : k ≠ j) :
    (s.setPlay k x).play j = s.play j := by
  exact vector_get_set_of_ne s.players x h

theorem play_setPlay (s : State) (k j : PlayerNo) (x : Option Play) :
    (s.setPlay k x).play j = if k = j then x else s.play j := by
  by_cases h : k = j
  · subst h; simp
  · simp [h, play_setPlay_of_ne s x h]

/-! ### Reading a record after an update of another kind -/

@[simp] theorem chan_modPort (s : State) (p : Port) (f : PortRecord → PortRecord) (n : ChannelNo) :
    (s.modPort p f).chan n = s.chan n := rfl
@[simp] theorem play_modPort (s : State) (p : Port) (f : PortRecord → PortRecord) (k : PlayerNo) :
    (s.modPort p f).play k = s.play k := rfl
@[simp] theorem port_modChan (s : State) (n : ChannelNo) (f : Channel → Channel) (p : Port) :
    (s.modChan n f).port p = s.port p := rfl
@[simp] theorem play_modChan (s : State) (n : ChannelNo) (f : Channel → Channel) (k : PlayerNo) :
    (s.modChan n f).play k = s.play k := rfl
@[simp] theorem port_setPlay (s : State) (k : PlayerNo) (x : Option Play) (p : Port) :
    (s.setPlay k x).port p = s.port p := rfl
@[simp] theorem chan_setPlay (s : State) (k : PlayerNo) (x : Option Play) (n : ChannelNo) :
    (s.setPlay k x).chan n = s.chan n := rfl
@[simp] theorem port_setTaps (s : State) (taps : Memory) (p : Port) : (s.setTaps taps).port p = s.port p := rfl
@[simp] theorem chan_setTaps (s : State) (taps : Memory) (n : ChannelNo) : (s.setTaps taps).chan n = s.chan n := rfl
@[simp] theorem play_setTaps (s : State) (taps : Memory) (k : PlayerNo) : (s.setTaps taps).play k = s.play k := rfl
@[simp] theorem port_setMover (s : State) (orders : List Order) (p : Port) : (s.setMover orders).port p = s.port p := rfl
@[simp] theorem chan_setMover (s : State) (orders : List Order) (n : ChannelNo) : (s.setMover orders).chan n = s.chan n := rfl
@[simp] theorem play_setMover (s : State) (orders : List Order) (k : PlayerNo) : (s.setMover orders).play k = s.play k := rfl
@[simp] theorem port_setProbeQueue (s : State) (queue : List ChannelNo) (p : Port) : (s.setProbeQueue queue).port p = s.port p := rfl
@[simp] theorem chan_setProbeQueue (s : State) (queue : List ChannelNo) (n : ChannelNo) : (s.setProbeQueue queue).chan n = s.chan n := rfl
@[simp] theorem play_setProbeQueue (s : State) (queue : List ChannelNo) (k : PlayerNo) : (s.setProbeQueue queue).play k = s.play k := rfl
@[simp] theorem port_setCache (s : State) (entries : List CacheEntry) (p : Port) : (s.setCache entries).port p = s.port p := rfl
@[simp] theorem chan_setCache (s : State) (entries : List CacheEntry) (n : ChannelNo) : (s.setCache entries).chan n = s.chan n := rfl
@[simp] theorem play_setCache (s : State) (entries : List CacheEntry) (k : PlayerNo) : (s.setCache entries).play k = s.play k := rfl
@[simp] theorem port_setClaim (s : State) (holder : Option Port) (p : Port) : (s.setClaim holder).port p = s.port p := rfl
@[simp] theorem chan_setClaim (s : State) (holder : Option Port) (n : ChannelNo) : (s.setClaim holder).chan n = s.chan n := rfl
@[simp] theorem play_setClaim (s : State) (holder : Option Port) (k : PlayerNo) : (s.setClaim holder).play k = s.play k := rfl
@[simp] theorem port_setConfig (s : State) (cfg : SharedConfig) (p : Port) : (s.setConfig cfg).port p = s.port p := rfl
@[simp] theorem chan_setConfig (s : State) (cfg : SharedConfig) (n : ChannelNo) : (s.setConfig cfg).chan n = s.chan n := rfl
@[simp] theorem play_setConfig (s : State) (cfg : SharedConfig) (k : PlayerNo) : (s.setConfig cfg).play k = s.play k := rfl
@[simp] theorem port_setFree (s : State) (free : List Nat) (p : Port) : (s.setFree free).port p = s.port p := rfl
@[simp] theorem chan_setFree (s : State) (free : List Nat) (n : ChannelNo) : (s.setFree free).chan n = s.chan n := rfl
@[simp] theorem play_setFree (s : State) (free : List Nat) (k : PlayerNo) : (s.setFree free).play k = s.play k := rfl
@[simp] theorem port_setFlag (s : State) (flag : PoolFlag) (p : Port) : (s.setFlag flag).port p = s.port p := rfl
@[simp] theorem chan_setFlag (s : State) (flag : PoolFlag) (n : ChannelNo) : (s.setFlag flag).chan n = s.chan n := rfl
@[simp] theorem play_setFlag (s : State) (flag : PoolFlag) (k : PlayerNo) : (s.setFlag flag).play k = s.play k := rfl
@[simp] theorem port_modHighway (s : State) (f : Highway → Highway) (p : Port) : (s.modHighway f).port p = s.port p := rfl
@[simp] theorem chan_modHighway (s : State) (f : Highway → Highway) (n : ChannelNo) : (s.modHighway f).chan n = s.chan n := rfl
@[simp] theorem play_modHighway (s : State) (f : Highway → Highway) (k : PlayerNo) : (s.modHighway f).play k = s.play k := rfl
@[simp] theorem port_spendFree (s : State) (p : Port) : (s.spendFree).port p = s.port p := rfl
@[simp] theorem chan_spendFree (s : State) (n : ChannelNo) : (s.spendFree).chan n = s.chan n := rfl
@[simp] theorem play_spendFree (s : State) (k : PlayerNo) : (s.spendFree).play k = s.play k := rfl

/-! ### Two updates of one record, and of two kinds -/

@[simp] theorem modPort_modPort (s : State) (p : Port) (f g : PortRecord → PortRecord) :
    (s.modPort p f).modPort p g = s.modPort p fun r => g (f r) := by
  show ({ s with ports := (s.ports.set p (f (s.port p))).set p (g ((s.modPort p f).port p)) } : State) = _
  rw [vector_set_set, port_modPort_self]
  rfl

theorem modPort_id (s : State) (p : Port) (f : PortRecord → PortRecord) (h : f (s.port p) = s.port p) :
    s.modPort p f = s := by
  show ({ s with ports := s.ports.set p (f (s.port p)) } : State) = s
  rw [h]
  show ({ s with ports := s.ports.set p (s.ports.get p) } : State) = s
  rw [vector_set_get]

theorem modPort_congr (s : State) (p : Port) (f g : PortRecord → PortRecord) (h : f (s.port p) = g (s.port p)) :
    s.modPort p f = s.modPort p g := by
  simp [State.modPort, h]

@[simp] theorem modChan_modChan (s : State) (n : ChannelNo) (f g : Channel → Channel) :
    (s.modChan n f).modChan n g = s.modChan n fun c => g (f c) := by
  show ({ s with channels := (s.channels.set n (f (s.chan n))).set n (g ((s.modChan n f).chan n)) } : State) = _
  rw [vector_set_set, chan_modChan_self]
  rfl

theorem modChan_congr (s : State) (n : ChannelNo) (f g : Channel → Channel) (h : f (s.chan n) = g (s.chan n)) :
    s.modChan n f = s.modChan n g := by
  simp [State.modChan, h]

theorem modPort_modChan (s : State) (p : Port) (f : PortRecord → PortRecord) (n : ChannelNo) (g : Channel → Channel) :
    (s.modPort p f).modChan n g = (s.modChan n g).modPort p f := rfl

theorem modPort_setPlay (s : State) (p : Port) (f : PortRecord → PortRecord) (k : PlayerNo) (x : Option Play) :
    (s.modPort p f).setPlay k x = (s.setPlay k x).modPort p f := rfl

theorem modPort_comm (s : State) {p q : Port} (f g : PortRecord → PortRecord) (h : p ≠ q) :
    (s.modPort p f).modPort q g = (s.modPort q g).modPort p f := by
  have e : p.val ≠ q.val := fun e => h (Fin.ext e)
  have hp : (s.modPort q g).port p = s.port p := port_modPort_of_ne s g (Ne.symm h)
  have hq : (s.modPort p f).port q = s.port q := port_modPort_of_ne s f h
  show ({ s with ports := (s.ports.set p (f (s.port p))).set q (g ((s.modPort p f).port q)) } : State)
    = { s with ports := (s.ports.set q (g (s.port q))).set p (f ((s.modPort q g).port p)) }
  rw [hp, hq, Vector.set_comm _ _ e]

end Sys2Proof.Machine
end

