-- ==== Sys2Proof/Laws/Ports.lean ====
section
/-! SUPPORT. Notices at ports: what an arrival leaves, and what every operation that raises notices can touch outside
the calls and their stores (`State.Within`). -/

namespace Sys2Proof.Machine

/-! ### One arrival (R167) -/

@[simp] theorem judgeAttn_link (r : PortRecord) : r.judgeAttn.link = r.link := rfl
@[simp] theorem judgeAttn_lease (r : PortRecord) : r.judgeAttn.lease = r.lease := rfl
@[simp] theorem judgeAttn_queue (r : PortRecord) : r.judgeAttn.queue = r.queue := rfl
@[simp] theorem judgeAttn_mask (r : PortRecord) : r.judgeAttn.mask = r.mask := rfl
@[simp] theorem judgeAttn_overflow (r : PortRecord) : r.judgeAttn.overflow = r.overflow := rfl
@[simp] theorem judgeAttn_held (r : PortRecord) : r.judgeAttn.held = r.held := rfl
@[simp] theorem judgeAttn_linkOut (r : PortRecord) : r.judgeAttn.linkOut = r.linkOut := rfl

theorem arrive_merge (r : PortRecord) (n : Notice) (h : r.queue.any (fun q => q.key == n.key) = true) :
    r.arrive n = ({ r with queue := mergeNotice n r.queue }).judgeAttn := by
  simp [PortRecord.arrive, h]

theorem arrive_place (r : PortRecord) (n : Notice) (h : r.queue.any (fun q => q.key == n.key) = false)
    (room : r.queue.length < 32) : r.arrive n = ({ r with queue := r.queue ++ [n] }).judgeAttn := by
  simp only [PortRecord.arrive, h, room, if_true]
  simp

theorem arrive_overflow (r : PortRecord) (n : Notice) (h : r.queue.any (fun q => q.key == n.key) = false)
    (full : 32 ≤ r.queue.length) : r.arrive n = { r with overflow := true } := by
  have : ¬ r.queue.length < 32 := by omega
  simp only [PortRecord.arrive, h, this, if_false]
  simp

/-- An arrival touches the queue, the overflow flag and ATTN alone. -/
theorem arrive_fields (r : PortRecord) (n : Notice) :
    (r.arrive n).link = r.link ∧ (r.arrive n).lease = r.lease ∧ (r.arrive n).mask = r.mask
      ∧ (r.arrive n).held = r.held ∧ (r.arrive n).linkOut = r.linkOut := by
  unfold PortRecord.arrive
  split
  · simp
  · split <;> simp

theorem arriveAll_fields (ns : List Notice) (r : PortRecord) :
    (ns.foldl PortRecord.arrive r).link = r.link ∧ (ns.foldl PortRecord.arrive r).lease = r.lease
      ∧ (ns.foldl PortRecord.arrive r).mask = r.mask ∧ (ns.foldl PortRecord.arrive r).held = r.held
      ∧ (ns.foldl PortRecord.arrive r).linkOut = r.linkOut := by
  induction ns generalizing r with
  | nil => simp
  | cons n ns ih =>
    have h := ih (r.arrive n)
    have h' := arrive_fields r n
    simp only [List.foldl_cons]
    refine ⟨h.1.trans h'.1, h.2.1.trans h'.2.1, h.2.2.1.trans h'.2.2.1, h.2.2.2.1.trans h'.2.2.2.1,
      h.2.2.2.2.trans h'.2.2.2.2⟩

theorem arriveAll_joined (ns : List Notice) (r : PortRecord) :
    (ns.foldl PortRecord.arrive r).joined = r.joined := by
  simp [PortRecord.joined, (arriveAll_fields ns r).1]

/-- A merge keeps the keys of the queue in their order. -/
theorem mergeNotice_keys (n : Notice) (queue : List Notice) :
    (mergeNotice n queue).map Notice.key = queue.map Notice.key := by
  induction queue with
  | nil => rfl
  | cons q rest ih =>
    simp only [mergeNotice, List.map_cons, List.map_map] at ih ⊢
    rw [ih]
    congr 1
    split
    · next h => exact h.symm
    · rfl

theorem mergeNotice_length (n : Notice) (queue : List Notice) : (mergeNotice n queue).length = queue.length := by
  simp [mergeNotice]

/-- The arrival of a notice at a joined port keeps its record sound. -/
theorem arrive_sound {r : PortRecord} (n : Notice) (h : r.Sound) (j : r.joined = true) : (r.arrive n).Sound := by
  have present : r.link ≠ .absent := by simpa [PortRecord.joined] using j
  cases m : r.queue.any (fun q => q.key == n.key) with
  | true =>
    rw [arrive_merge r n m]
    refine ⟨rfl, ?_, ?_, fun a => absurd a present, fun _ => h.joined present⟩
    · simpa [mergeNotice_length] using h.length
    · simpa [mergeNotice_keys] using h.keys
  | false =>
    by_cases room : r.queue.length < 32
    · rw [arrive_place r n m room]
      refine ⟨rfl, ?_, ?_, fun a => absurd a present, fun _ => h.joined present⟩
      · simp only [judgeAttn_queue, List.length_append, List.length_cons, List.length_nil]; omega
      · simp only [judgeAttn_queue, List.map_append, List.map_cons, List.map_nil]
        rw [List.nodup_append]
        refine ⟨h.keys, by simp, ?_⟩
        intro a ha b hb e
        simp only [List.mem_cons, List.not_mem_nil, or_false] at hb
        obtain ⟨q, hq, rfl⟩ := List.mem_map.1 ha
        have : r.queue.any (fun q => q.key == n.key) = true :=
          List.any_eq_true.2 ⟨q, hq, by simp [e, hb]⟩
        simp [m] at this
    · rw [arrive_overflow r n m (by omega)]
      exact ⟨h.attn, h.length, h.keys, fun a => absurd a present, fun _ => h.joined present⟩

theorem arriveAll_sound {r : PortRecord} (ns : List Notice) (h : r.Sound) (j : r.joined = true) :
    (ns.foldl PortRecord.arrive r).Sound := by
  induction ns generalizing r with
  | nil => exact h
  | cons n ns ih =>
    refine ih (arrive_sound n h j) ?_
    simpa [PortRecord.joined, (arrive_fields r n).1] using j

/-! ### Heard and Within -/

theorem State.Heard.refl (s : State) : s.Heard s := fun q => ⟨[], by simp⟩

theorem State.Heard.trans {s t u : State} (h : s.Heard t) (h' : t.Heard u) : s.Heard u := by
  intro q
  obtain ⟨ns, e⟩ := h q
  obtain ⟨ms, e'⟩ := h' q
  by_cases j : (s.port q).joined = true
  · rw [if_pos j] at e
    rw [e, arriveAll_joined, if_pos j] at e'
    exact ⟨ns ++ ms, by rw [if_pos j, List.foldl_append, e']⟩
  · rw [if_neg j] at e
    rw [e, if_neg j] at e'
    exact ⟨[], by rw [if_neg j, e']⟩

/-- What an operation heard at each port keeps of it. -/
theorem State.Heard.fields {s t : State} (h : s.Heard t) (q : Port) :
    (t.port q).link = (s.port q).link ∧ (t.port q).lease = (s.port q).lease ∧ (t.port q).mask = (s.port q).mask
      ∧ (t.port q).held = (s.port q).held ∧ (t.port q).linkOut = (s.port q).linkOut := by
  obtain ⟨ns, e⟩ := h q
  rw [e]
  split
  · exact arriveAll_fields ns _
  · simp

theorem State.Heard.joined {s t : State} (h : s.Heard t) (q : Port) : (t.port q).joined = (s.port q).joined := by
  simp [PortRecord.joined, (h.fields q).1]

theorem State.Heard.of_absent {s t : State} (h : s.Heard t) {q : Port} (a : (s.port q).joined = false) :
    t.port q = s.port q := by
  obtain ⟨ns, e⟩ := h q
  simpa [a] using e

theorem State.Heard.sound {s t : State} (h : s.Heard t) {q : Port} (i : (s.port q).Sound) : (t.port q).Sound := by
  obtain ⟨ns, e⟩ := h q
  rw [e]
  split
  · next j => exact arriveAll_sound ns i j
  · exact i

theorem State.Heard.of_ports {s t : State} (h : t.ports = s.ports) : s.Heard t :=
  fun q => ⟨[], by
    have e : t.port q = s.port q := by simp only [State.port, h]
    simp [e]⟩

theorem State.Within.refl (s : State) : s.Within s := ⟨rfl, rfl, rfl, rfl, rfl, rfl, .refl s⟩

theorem State.Within.trans {s t u : State} (h : s.Within t) (h' : t.Within u) : s.Within u :=
  ⟨h'.pending.trans h.pending, h'.freeIndex.trans h.freeIndex, h'.claim.trans h.claim, h'.config.trans h.config,
    h'.highway.trans h.highway, h'.timebase.trans h.timebase, h.heard.trans h'.heard⟩

/-- A fold of operations each of which stays within. -/
theorem within_foldl {α : Type} (f : State → α → State) (h : ∀ (s : State) (a : α), s.Within (f s a)) (items : List α) (s : State) :
    s.Within (items.foldl f s) := by
  induction items generalizing s with
  | nil => exact .refl s
  | cons a rest ih => exact (h s a).trans (ih (f s a))

/-! ### The operations -/

theorem notify_within (s : State) (p : Port) (n : Notice) : s.Within (s.notify p n) := by
  unfold State.notify
  split
  · next j =>
    refine ⟨rfl, rfl, rfl, rfl, rfl, rfl, fun q => ?_⟩
    by_cases e : p = q
    · subst e; exact ⟨[n], by simp [j]⟩
    · exact ⟨[], by simp [port_modPort_of_ne _ _ e]⟩
  · exact .refl s

theorem notifyLessee_within (s : State) (lessee : Option Port) (n : Notice) : s.Within (s.notifyLessee lessee n) := by
  unfold State.notifyLessee
  split
  · exact notify_within s _ n
  · exact .refl s

theorem broadcast_within (s : State) (n : Notice) : s.Within (s.broadcast n) :=
  within_foldl _ (fun s p => notify_within s p n) _ s

theorem broadcastExcept_within (s : State) (but : Port) (n : Notice) : s.Within (s.broadcastExcept but n) := by
  refine within_foldl _ (fun s p => ?_) _ s
  split
  · exact .refl s
  · exact notify_within s p n

theorem modChan_within (s : State) (n : ChannelNo) (f : Channel → Channel) : s.Within (s.modChan n f) :=
  ⟨rfl, rfl, rfl, rfl, rfl, rfl, .of_ports rfl⟩

theorem setPlay_within (s : State) (k : PlayerNo) (x : Option Play) : s.Within (s.setPlay k x) :=
  ⟨rfl, rfl, rfl, rfl, rfl, rfl, .of_ports rfl⟩

theorem setTaps_within (s : State) (taps : Memory) : s.Within (s.setTaps taps) :=
  ⟨rfl, rfl, rfl, rfl, rfl, rfl, .of_ports rfl⟩

theorem writeLive_within (s : State) (n : ChannelNo) (bank : Bank) (indices : List Nat) (f : Nat → Tap) :
    s.Within (s.writeLive n bank indices f) := setTaps_within s _

theorem writeInitialTaps_within (s : State) (n : ChannelNo) : s.Within (s.writeInitialTaps n) :=
  ((writeLive_within s n .near _ _).trans (writeLive_within _ n .far _ _)).trans (writeLive_within _ n .equal _ _)

theorem setFree_within (s : State) (free : List Nat) : s.Within (s.setFree free) :=
  ⟨rfl, rfl, rfl, rfl, rfl, rfl, .of_ports rfl⟩

theorem setFlag_within (s : State) (flag : PoolFlag) : s.Within (s.setFlag flag) :=
  ⟨rfl, rfl, rfl, rfl, rfl, rfl, .of_ports rfl⟩

theorem takeSegments_within (s : State) (k : Nat) : s.Within (s.takeSegments k).2 := setFree_within s _

theorem returnSegments_within (s : State) (segments : List Nat) : s.Within (s.returnSegments segments) :=
  (setFree_within s _).trans (setTaps_within _ _)

theorem comparePool_within (s : State) : s.Within s.comparePool := by
  unfold State.comparePool
  dsimp only
  split
  · exact (setFlag_within s .low).trans (broadcast_within _ _)
  · split
    · exact (setFlag_within s .normal).trans (broadcast_within _ _)
    · exact .refl s

theorem setProbeQueue_within (s : State) (q : List ChannelNo) : s.Within (s.setProbeQueue q) :=
  ⟨rfl, rfl, rfl, rfl, rfl, rfl, .of_ports rfl⟩

theorem setMover_within (s : State) (orders : List Order) : s.Within (s.setMover orders) :=
  ⟨rfl, rfl, rfl, rfl, rfl, rfl, .of_ports rfl⟩

theorem setCache_within (s : State) (entries : List CacheEntry) : s.Within (s.setCache entries) :=
  ⟨rfl, rfl, rfl, rfl, rfl, rfl, .of_ports rfl⟩

theorem enterQueued_within (s : State) (n : ChannelNo) : s.Within (s.enterQueued n) :=
  (setProbeQueue_within s _).trans (modChan_within _ n _)

theorem leaveQueue_within (s : State) (n : ChannelNo) : s.Within (s.leaveQueue n) := setProbeQueue_within s _

theorem freePlayer_within (s : State) (n : ChannelNo) : s.Within (s.freePlayer n) := by
  unfold State.freePlayer
  split
  · exact (setPlay_within s _ none).trans (modChan_within _ n _)
  · exact .refl s

theorem grantOne_within (s : State) : s.Within s.grantOne := by
  unfold State.grantOne
  split
  · exact ((setProbeQueue_within s _).trans (setPlay_within _ _ _)).trans (modChan_within _ _ _)
  · exact .refl s

theorem grants_within (s : State) : s.Within s.grants :=
  (((grantOne_within s).trans (grantOne_within _)).trans (grantOne_within _)).trans (grantOne_within _)

theorem closeEvent_within (s₀ s : State) : s.Within (s₀.closeEvent s) := by
  unfold State.closeEvent
  dsimp only
  split
  · exact grants_within s
  · exact (grants_within s).trans (comparePool_within _)

theorem removeSnapshot_within (s : State) (n : ChannelNo) (id : Nat) : s.Within (s.removeSnapshot n id) :=
  (modChan_within s n _).trans (returnSegments_within _ _)

theorem pin_within (s : State) (w : Work) : s.Within (s.pin w) :=
  within_foldl (α := ChannelNo × Nat) _ (fun s r => modChan_within s r.1 _) _ s

theorem unpin_within (s : State) (w : Work) : s.Within (s.unpin w) :=
  within_foldl (α := ChannelNo × Nat) _ (fun s r => modChan_within s r.1 _) _ s

theorem markHead_within (s : State) : s.Within s.markHead := by
  unfold State.markHead
  split
  · exact .refl s
  · split
    · refine within_foldl _ (fun s r => ?_) _ s
      dsimp only
      split
      · exact modChan_within s _ _
      · exact .refl s
    · exact .refl s

theorem enqueue_within (s : State) (o : Order) : s.Within (s.enqueue o) := by
  unfold State.enqueue
  dsimp only
  have h := (setMover_within s (s.mover ++ [o])).trans (pin_within _ o.work)
  split
  · exact h.trans (markHead_within _)
  · exact h

theorem dropRollback_within (s : State) (o : Order) : s.Within (s.dropRollback o) := by
  unfold State.dropRollback
  split
  · exact modChan_within s _ _
  · exact .refl s

theorem giveUp_within (s : State) (w : Work) : s.Within (s.giveUp w) := by
  unfold State.giveUp
  split
  · exact removeSnapshot_within s _ _
  all_goals exact unpin_within s _

theorem endEarly_within (how : OrderEnd) (s : State) (o : Order) : s.Within (State.endEarly how s o) :=
  ((giveUp_within s o.work).trans (dropRollback_within _ o)).trans (notify_within _ _ _)

theorem abortOrders_within (s : State) (which : Order → Bool) : s.Within (s.abortOrders which) :=
  ((setMover_within s _).trans (within_foldl _ (endEarly_within .aborted) _ _)).trans (markHead_within _)

theorem finishWork_within (s : State) (w : Work) : s.Within (s.finishWork w) := by
  unfold State.finishWork
  split
  · exact modChan_within s _ _
  · exact modChan_within s _ _
  all_goals exact .refl s

theorem setGuard_within (s : State) (o : Order) : s.Within (s.setGuard o) := by
  unfold State.setGuard
  dsimp only
  split
  · exact modChan_within s _ _
  · exact .refl s

theorem endComplete_within (s : State) (o : Order) : s.Within (s.endComplete o) :=
  ((((finishWork_within s _).trans (unpin_within _ _)).trans (setGuard_within _ o)).trans
    (dropRollback_within _ o)).trans (notify_within _ _ _)

theorem completeHead_within (s : State) : s.Within s.completeHead := by
  unfold State.completeHead
  split
  · exact .refl s
  · exact ((setMover_within s _).trans (endComplete_within _ _)).trans (markHead_within _)

theorem evict_within (reason : EvictReason) (s : State) (e : CacheEntry) : s.Within (State.evict reason s e) :=
  ((setCache_within s _).trans (returnSegments_within _ _)).trans (broadcast_within _ _)

theorem evictSame_within (s : State) (tag : Nat) : s.Within (s.evictSame tag) := by
  unfold State.evictSame
  split
  · exact evict_within _ s _
  · exact .refl s

theorem makeRoom_within (s : State) : s.Within s.makeRoom := by
  unfold State.makeRoom
  split
  · split
    · exact evict_within _ s _
    · exact .refl s
  · exact .refl s

theorem addEntry_within (s : State) (c : Channel) : s.Within (s.addEntry c) :=
  ⟨rfl, rfl, rfl, rfl, rfl, rfl, .of_ports rfl⟩

theorem park_within (s : State) (n : ChannelNo) : s.Within (s.park n) :=
  ((evictSame_within s _).trans (makeRoom_within _)).trans (addEntry_within _ _)

theorem vacate_within (s : State) (n : ChannelNo) (park : Bool) : s.Within (s.vacate n park) := by
  unfold State.vacate
  dsimp only
  refine State.Within.trans ?_ (modChan_within _ n _)
  refine State.Within.trans ?_ (returnSegments_within _ _)
  have h := ((abortOrders_within s fun o => o.work.touches n).trans (leaveQueue_within _ n)).trans
    (freePlayer_within _ n)
  split
  · exact h.trans (park_within _ n)
  · exact h.trans (returnSegments_within _ _)

theorem completeRelease_within (s : State) (n : ChannelNo) : s.Within (s.completeRelease n) := vacate_within s n _

/-! ### Which port hears a notice (R163, R165, R167) -/

theorem port_notify (s : State) (p q : Port) (n : Notice) :
    (s.notify p n).port q = if p = q ∧ (s.port q).joined = true then (s.port q).arrive n else s.port q := by
  unfold State.notify
  by_cases e : p = q
  · subst e
    by_cases j : (s.port p).joined = true
    · simp [j]
    · simp [j]
  · by_cases j : (s.port p).joined = true
    · rw [if_pos j, port_modPort_of_ne _ _ e, if_neg fun h => e h.1]
    · rw [if_neg j, if_neg fun h => e h.1]

theorem port_notifyAll (items : List Port) (nodup : items.Nodup) (s : State) (q : Port) (n : Notice) :
    (items.foldl (fun s p => s.notify p n) s).port q
      = if q ∈ items ∧ (s.port q).joined = true then (s.port q).arrive n else s.port q := by
  induction items generalizing s with
  | nil => simp
  | cons p rest ih =>
    have nd := List.nodup_cons.1 nodup
    rw [List.foldl_cons, ih nd.2, port_notify]
    by_cases e : p = q
    · subst e
      by_cases j : (s.port p).joined = true <;> simp [nd.1, j]
    · simp [e, Ne.symm e]

/-- A broadcast reaches every port in GRACE or LIVE, once (R165). -/
theorem port_broadcast (s : State) (q : Port) (n : Notice) :
    (s.broadcast n).port q = if (s.port q).joined = true then (s.port q).arrive n else s.port q := by
  have m : q ∈ allPorts := by
    match q with
    | 0 | 1 | 2 | 3 => decide
  rw [State.broadcast, port_notifyAll _ (by decide)]
  simp [m]

/-- After it has arrived, a notice stands in the queue or was dropped at a full one (R167). -/
theorem told_arrive (r : PortRecord) (n : Notice) : (r.arrive n).Told n := by
  by_cases q : r.queue.any (fun x => x.key == n.key) = true
  · left
    rw [(arrive_merge r n q)]
    obtain ⟨x, hx, e⟩ := List.any_eq_true.1 q
    simp only [judgeAttn_queue, mergeNotice, List.mem_map]
    exact ⟨x, hx, if_pos (by simpa using e)⟩
  · have q' : r.queue.any (fun x => x.key == n.key) = false := by simpa using q
    by_cases l : r.queue.length < 32
    · left; rw [arrive_place r n q' l]; simp
    · right; rw [arrive_overflow r n q' (by omega)]

/-- A notice of another key leaves it there. -/
theorem told_arrive_of_ne {r : PortRecord} {n x : Notice} (h : r.Told n) (ne : x.key ≠ n.key) : (r.arrive x).Told n := by
  by_cases q : r.queue.any (fun y => y.key == x.key) = true
  · rw [arrive_merge r x q]
    rcases h with h | h
    · left
      simp only [judgeAttn_queue, mergeNotice, List.mem_map]
      exact ⟨n, h, if_neg (Ne.symm ne)⟩
    · right; exact h
  · have q' : r.queue.any (fun y => y.key == x.key) = false := by simpa using q
    by_cases l : r.queue.length < 32
    · rw [arrive_place r x q' l]
      rcases h with h | h
      · left; simp [h]
      · right; exact h
    · rw [arrive_overflow r x q' (by omega)]; right; rfl

theorem told_broadcast {s : State} {q : Port} (j : (s.port q).joined = true) (n : Notice) :
    ((s.broadcast n).port q).Told n := by
  rw [port_broadcast, if_pos j]; exact told_arrive _ _

theorem told_broadcast_of_ne {s : State} {q : Port} {n : Notice} (h : (s.port q).Told n) {x : Notice}
    (ne : x.key ≠ n.key) : ((s.broadcast x).port q).Told n := by
  rw [port_broadcast]; split
  · exact told_arrive_of_ne h ne
  · exact h

end Sys2Proof.Machine
end

