-- ==== Sys2Proof/Laws/Calls.lean ====
section
/-! SUPPORT. What the shared operations leave of the calls: a notice touches no call; the end of an order touches of a
channel only its ring, its record of a rollback order and its marks; an entry to QUEUED, a freed player and a grant
touch what R9, R93 and R100 say. -/

namespace Sys2Proof.Machine

/-! ### Notices touch the ports alone -/

theorem notify_eq (s : State) (p : Port) (n : Notice) : ∃ ports, s.notify p n = { s with ports := ports } := by
  unfold State.notify
  split
  · exact ⟨_, rfl⟩
  · exact ⟨s.ports, rfl⟩

theorem notifyLessee_eq (s : State) (lessee : Option Port) (n : Notice) :
    ∃ ports, s.notifyLessee lessee n = { s with ports := ports } := by
  unfold State.notifyLessee
  split
  · exact notify_eq s _ n
  · exact ⟨s.ports, rfl⟩

theorem notifyFold_eq (f : State → Port → State) (h : ∀ (s : State) (p : Port), ∃ ports, f s p = { s with ports := ports })
    (items : List Port) (s : State) : ∃ ports, items.foldl f s = { s with ports := ports } := by
  induction items generalizing s with
  | nil => exact ⟨s.ports, rfl⟩
  | cons p rest ih =>
    obtain ⟨a, e⟩ := h s p
    obtain ⟨b, e'⟩ := ih (f s p)
    exact ⟨b, by rw [List.foldl_cons, e', e]⟩

theorem broadcast_eq (s : State) (n : Notice) : ∃ ports, s.broadcast n = { s with ports := ports } :=
  notifyFold_eq _ (fun s p => notify_eq s p n) _ s

theorem broadcastExcept_eq (s : State) (but : Port) (n : Notice) :
    ∃ ports, s.broadcastExcept but n = { s with ports := ports } := by
  refine notifyFold_eq _ (fun s p => ?_) _ s
  split
  · exact ⟨s.ports, rfl⟩
  · exact notify_eq s p n


@[simp] theorem notify_pending (s : State) (p : Port) (n : Notice) : (s.notify p n).pending = s.pending := by
  obtain ⟨_, e⟩ := notify_eq s p n; rw [e]
@[simp] theorem notify_freeIndex (s : State) (p : Port) (n : Notice) : (s.notify p n).freeIndex = s.freeIndex := by
  obtain ⟨_, e⟩ := notify_eq s p n; rw [e]
@[simp] theorem notify_claim (s : State) (p : Port) (n : Notice) : (s.notify p n).claim = s.claim := by
  obtain ⟨_, e⟩ := notify_eq s p n; rw [e]
@[simp] theorem notify_config (s : State) (p : Port) (n : Notice) : (s.notify p n).config = s.config := by
  obtain ⟨_, e⟩ := notify_eq s p n; rw [e]
@[simp] theorem notify_channels (s : State) (p : Port) (n : Notice) : (s.notify p n).channels = s.channels := by
  obtain ⟨_, e⟩ := notify_eq s p n; rw [e]
@[simp] theorem notify_pool (s : State) (p : Port) (n : Notice) : (s.notify p n).pool = s.pool := by
  obtain ⟨_, e⟩ := notify_eq s p n; rw [e]
@[simp] theorem notify_players (s : State) (p : Port) (n : Notice) : (s.notify p n).players = s.players := by
  obtain ⟨_, e⟩ := notify_eq s p n; rw [e]
@[simp] theorem notify_probeQueue (s : State) (p : Port) (n : Notice) : (s.notify p n).probeQueue = s.probeQueue := by
  obtain ⟨_, e⟩ := notify_eq s p n; rw [e]
@[simp] theorem notify_mover (s : State) (p : Port) (n : Notice) : (s.notify p n).mover = s.mover := by
  obtain ⟨_, e⟩ := notify_eq s p n; rw [e]
@[simp] theorem notify_cache (s : State) (p : Port) (n : Notice) : (s.notify p n).cache = s.cache := by
  obtain ⟨_, e⟩ := notify_eq s p n; rw [e]
@[simp] theorem notify_parkCounter (s : State) (p : Port) (n : Notice) : (s.notify p n).parkCounter = s.parkCounter := by
  obtain ⟨_, e⟩ := notify_eq s p n; rw [e]
@[simp] theorem notify_highway (s : State) (p : Port) (n : Notice) : (s.notify p n).highway = s.highway := by
  obtain ⟨_, e⟩ := notify_eq s p n; rw [e]
@[simp] theorem notify_timebase (s : State) (p : Port) (n : Notice) : (s.notify p n).timebase = s.timebase := by
  obtain ⟨_, e⟩ := notify_eq s p n; rw [e]
@[simp] theorem chan_notify (s : State) (p : Port) (n : Notice) (m : ChannelNo) : (s.notify p n).chan m = s.chan m := by
  simp [State.chan]
@[simp] theorem play_notify (s : State) (p : Port) (n : Notice) (k : PlayerNo) : (s.notify p n).play k = s.play k := by
  simp [State.play]

@[simp] theorem notifyLessee_pending (s : State) (l : Option Port) (n : Notice) : (s.notifyLessee l n).pending = s.pending := by
  obtain ⟨_, e⟩ := notifyLessee_eq s l n; rw [e]
@[simp] theorem notifyLessee_freeIndex (s : State) (l : Option Port) (n : Notice) : (s.notifyLessee l n).freeIndex = s.freeIndex := by
  obtain ⟨_, e⟩ := notifyLessee_eq s l n; rw [e]
@[simp] theorem notifyLessee_claim (s : State) (l : Option Port) (n : Notice) : (s.notifyLessee l n).claim = s.claim := by
  obtain ⟨_, e⟩ := notifyLessee_eq s l n; rw [e]
@[simp] theorem notifyLessee_config (s : State) (l : Option Port) (n : Notice) : (s.notifyLessee l n).config = s.config := by
  obtain ⟨_, e⟩ := notifyLessee_eq s l n; rw [e]
@[simp] theorem notifyLessee_channels (s : State) (l : Option Port) (n : Notice) : (s.notifyLessee l n).channels = s.channels := by
  obtain ⟨_, e⟩ := notifyLessee_eq s l n; rw [e]
@[simp] theorem notifyLessee_pool (s : State) (l : Option Port) (n : Notice) : (s.notifyLessee l n).pool = s.pool := by
  obtain ⟨_, e⟩ := notifyLessee_eq s l n; rw [e]
@[simp] theorem notifyLessee_players (s : State) (l : Option Port) (n : Notice) : (s.notifyLessee l n).players = s.players := by
  obtain ⟨_, e⟩ := notifyLessee_eq s l n; rw [e]
@[simp] theorem notifyLessee_probeQueue (s : State) (l : Option Port) (n : Notice) : (s.notifyLessee l n).probeQueue = s.probeQueue := by
  obtain ⟨_, e⟩ := notifyLessee_eq s l n; rw [e]
@[simp] theorem notifyLessee_mover (s : State) (l : Option Port) (n : Notice) : (s.notifyLessee l n).mover = s.mover := by
  obtain ⟨_, e⟩ := notifyLessee_eq s l n; rw [e]
@[simp] theorem notifyLessee_cache (s : State) (l : Option Port) (n : Notice) : (s.notifyLessee l n).cache = s.cache := by
  obtain ⟨_, e⟩ := notifyLessee_eq s l n; rw [e]
@[simp] theorem notifyLessee_parkCounter (s : State) (l : Option Port) (n : Notice) : (s.notifyLessee l n).parkCounter = s.parkCounter := by
  obtain ⟨_, e⟩ := notifyLessee_eq s l n; rw [e]
@[simp] theorem notifyLessee_highway (s : State) (l : Option Port) (n : Notice) : (s.notifyLessee l n).highway = s.highway := by
  obtain ⟨_, e⟩ := notifyLessee_eq s l n; rw [e]
@[simp] theorem notifyLessee_timebase (s : State) (l : Option Port) (n : Notice) : (s.notifyLessee l n).timebase = s.timebase := by
  obtain ⟨_, e⟩ := notifyLessee_eq s l n; rw [e]
@[simp] theorem chan_notifyLessee (s : State) (l : Option Port) (n : Notice) (m : ChannelNo) : (s.notifyLessee l n).chan m = s.chan m := by
  simp [State.chan]
@[simp] theorem play_notifyLessee (s : State) (l : Option Port) (n : Notice) (k : PlayerNo) : (s.notifyLessee l n).play k = s.play k := by
  simp [State.play]

@[simp] theorem broadcast_pending (s : State) (n : Notice) : (s.broadcast n).pending = s.pending := by
  obtain ⟨_, e⟩ := broadcast_eq s n; rw [e]
@[simp] theorem broadcast_freeIndex (s : State) (n : Notice) : (s.broadcast n).freeIndex = s.freeIndex := by
  obtain ⟨_, e⟩ := broadcast_eq s n; rw [e]
@[simp] theorem broadcast_claim (s : State) (n : Notice) : (s.broadcast n).claim = s.claim := by
  obtain ⟨_, e⟩ := broadcast_eq s n; rw [e]
@[simp] theorem broadcast_config (s : State) (n : Notice) : (s.broadcast n).config = s.config := by
  obtain ⟨_, e⟩ := broadcast_eq s n; rw [e]
@[simp] theorem broadcast_channels (s : State) (n : Notice) : (s.broadcast n).channels = s.channels := by
  obtain ⟨_, e⟩ := broadcast_eq s n; rw [e]
@[simp] theorem broadcast_pool (s : State) (n : Notice) : (s.broadcast n).pool = s.pool := by
  obtain ⟨_, e⟩ := broadcast_eq s n; rw [e]
@[simp] theorem broadcast_players (s : State) (n : Notice) : (s.broadcast n).players = s.players := by
  obtain ⟨_, e⟩ := broadcast_eq s n; rw [e]
@[simp] theorem broadcast_probeQueue (s : State) (n : Notice) : (s.broadcast n).probeQueue = s.probeQueue := by
  obtain ⟨_, e⟩ := broadcast_eq s n; rw [e]
@[simp] theorem broadcast_mover (s : State) (n : Notice) : (s.broadcast n).mover = s.mover := by
  obtain ⟨_, e⟩ := broadcast_eq s n; rw [e]
@[simp] theorem broadcast_cache (s : State) (n : Notice) : (s.broadcast n).cache = s.cache := by
  obtain ⟨_, e⟩ := broadcast_eq s n; rw [e]
@[simp] theorem broadcast_parkCounter (s : State) (n : Notice) : (s.broadcast n).parkCounter = s.parkCounter := by
  obtain ⟨_, e⟩ := broadcast_eq s n; rw [e]
@[simp] theorem broadcast_highway (s : State) (n : Notice) : (s.broadcast n).highway = s.highway := by
  obtain ⟨_, e⟩ := broadcast_eq s n; rw [e]
@[simp] theorem broadcast_timebase (s : State) (n : Notice) : (s.broadcast n).timebase = s.timebase := by
  obtain ⟨_, e⟩ := broadcast_eq s n; rw [e]
@[simp] theorem chan_broadcast (s : State) (n : Notice) (m : ChannelNo) : (s.broadcast n).chan m = s.chan m := by
  simp [State.chan]
@[simp] theorem play_broadcast (s : State) (n : Notice) (k : PlayerNo) : (s.broadcast n).play k = s.play k := by
  simp [State.play]

@[simp] theorem broadcastExcept_pending (s : State) (p : Port) (n : Notice) : (s.broadcastExcept p n).pending = s.pending := by
  obtain ⟨_, e⟩ := broadcastExcept_eq s p n; rw [e]
@[simp] theorem broadcastExcept_freeIndex (s : State) (p : Port) (n : Notice) : (s.broadcastExcept p n).freeIndex = s.freeIndex := by
  obtain ⟨_, e⟩ := broadcastExcept_eq s p n; rw [e]
@[simp] theorem broadcastExcept_claim (s : State) (p : Port) (n : Notice) : (s.broadcastExcept p n).claim = s.claim := by
  obtain ⟨_, e⟩ := broadcastExcept_eq s p n; rw [e]
@[simp] theorem broadcastExcept_config (s : State) (p : Port) (n : Notice) : (s.broadcastExcept p n).config = s.config := by
  obtain ⟨_, e⟩ := broadcastExcept_eq s p n; rw [e]
@[simp] theorem broadcastExcept_channels (s : State) (p : Port) (n : Notice) : (s.broadcastExcept p n).channels = s.channels := by
  obtain ⟨_, e⟩ := broadcastExcept_eq s p n; rw [e]
@[simp] theorem broadcastExcept_pool (s : State) (p : Port) (n : Notice) : (s.broadcastExcept p n).pool = s.pool := by
  obtain ⟨_, e⟩ := broadcastExcept_eq s p n; rw [e]
@[simp] theorem broadcastExcept_players (s : State) (p : Port) (n : Notice) : (s.broadcastExcept p n).players = s.players := by
  obtain ⟨_, e⟩ := broadcastExcept_eq s p n; rw [e]
@[simp] theorem broadcastExcept_probeQueue (s : State) (p : Port) (n : Notice) : (s.broadcastExcept p n).probeQueue = s.probeQueue := by
  obtain ⟨_, e⟩ := broadcastExcept_eq s p n; rw [e]
@[simp] theorem broadcastExcept_mover (s : State) (p : Port) (n : Notice) : (s.broadcastExcept p n).mover = s.mover := by
  obtain ⟨_, e⟩ := broadcastExcept_eq s p n; rw [e]
@[simp] theorem broadcastExcept_cache (s : State) (p : Port) (n : Notice) : (s.broadcastExcept p n).cache = s.cache := by
  obtain ⟨_, e⟩ := broadcastExcept_eq s p n; rw [e]
@[simp] theorem broadcastExcept_parkCounter (s : State) (p : Port) (n : Notice) : (s.broadcastExcept p n).parkCounter = s.parkCounter := by
  obtain ⟨_, e⟩ := broadcastExcept_eq s p n; rw [e]
@[simp] theorem broadcastExcept_highway (s : State) (p : Port) (n : Notice) : (s.broadcastExcept p n).highway = s.highway := by
  obtain ⟨_, e⟩ := broadcastExcept_eq s p n; rw [e]
@[simp] theorem broadcastExcept_timebase (s : State) (p : Port) (n : Notice) : (s.broadcastExcept p n).timebase = s.timebase := by
  obtain ⟨_, e⟩ := broadcastExcept_eq s p n; rw [e]
@[simp] theorem chan_broadcastExcept (s : State) (p : Port) (n : Notice) (m : ChannelNo) : (s.broadcastExcept p n).chan m = s.chan m := by
  simp [State.chan]
@[simp] theorem play_broadcastExcept (s : State) (p : Port) (n : Notice) (k : PlayerNo) : (s.broadcastExcept p n).play k = s.play k := by
  simp [State.play]


/-! ### The end of an order -/

/-- `d` is `c` but for the ring, the record of a rollback order and the marks of the epoch: what the enqueue or the end of
an order can touch (R53, R65, R85, R116, R117). -/
def Channel.Kept (c d : Channel) : Prop :=
  ∃ ring rollback marks, d = { c with ring := ring, rollback := rollback, marks := marks }

theorem Channel.Kept.refl (c : Channel) : c.Kept c := ⟨c.ring, c.rollback, c.marks, rfl⟩

theorem Channel.Kept.trans {c d e : Channel} (h : c.Kept d) (h' : d.Kept e) : c.Kept e := by
  obtain ⟨_, _, _, rfl⟩ := h
  obtain ⟨a, b, m, rfl⟩ := h'
  exact ⟨a, b, m, rfl⟩

/-- `t` holds the calls of `s` but for what the end of an order touches: rings with pins, records of rollback orders,
marks, the mover queue, the free set and the taps of what returned to it, and notices. -/
structure State.KeepsCalls (s t : State) : Prop where
  chan : ∀ m, (s.chan m).Kept (t.chan m)
  players : t.players = s.players
  probeQueue : t.probeQueue = s.probeQueue
  cache : t.cache = s.cache
  parkCounter : t.parkCounter = s.parkCounter

theorem State.KeepsCalls.refl (s : State) : s.KeepsCalls s := ⟨fun _ => .refl _, rfl, rfl, rfl, rfl⟩

theorem State.KeepsCalls.trans {s t u : State} (h : s.KeepsCalls t) (h' : t.KeepsCalls u) : s.KeepsCalls u :=
  ⟨fun m => (h.chan m).trans (h'.chan m), h'.players.trans h.players, h'.probeQueue.trans h.probeQueue,
    h'.cache.trans h.cache, h'.parkCounter.trans h.parkCounter⟩

theorem keepsCalls_foldl {α : Type} (f : State → α → State) (h : ∀ (s : State) (a : α), s.KeepsCalls (f s a))
    (items : List α) (s : State) : s.KeepsCalls (items.foldl f s) := by
  induction items generalizing s with
  | nil => exact .refl s
  | cons a rest ih => exact (h s a).trans (ih (f s a))

theorem notify_keeps (s : State) (p : Port) (n : Notice) : s.KeepsCalls (s.notify p n) :=
  ⟨fun m => by rw [chan_notify]; exact .refl _, by simp, by simp, by simp, by simp⟩

theorem setMover_keeps (s : State) (orders : List Order) : s.KeepsCalls (s.setMover orders) :=
  ⟨fun _ => .refl _, rfl, rfl, rfl, rfl⟩

theorem modChan_keeps (s : State) (n : ChannelNo) (f : Channel → Channel) (h : (s.chan n).Kept (f (s.chan n))) :
    s.KeepsCalls (s.modChan n f) := by
  refine ⟨fun m => ?_, rfl, rfl, rfl, rfl⟩
  rw [chan_modChan]
  split
  · next e => subst e; exact h
  · exact .refl _

theorem returnSegments_keeps (s : State) (segments : List Nat) : s.KeepsCalls (s.returnSegments segments) :=
  ⟨fun _ => .refl _, rfl, rfl, rfl, rfl⟩

theorem modSnapshot_kept (c : Channel) (id : Nat) (f : Snapshot → Snapshot) : c.Kept (c.modSnapshot id f) :=
  ⟨_, c.rollback, c.marks, rfl⟩

theorem dropSnapshot_kept (c : Channel) (id : Nat) : c.Kept (c.dropSnapshot id) := ⟨_, c.rollback, c.marks, rfl⟩

theorem removeSnapshot_keeps (s : State) (n : ChannelNo) (id : Nat) : s.KeepsCalls (s.removeSnapshot n id) :=
  (modChan_keeps s n _ (dropSnapshot_kept _ id)).trans (returnSegments_keeps _ _)

theorem pin_keeps (s : State) (w : Work) : s.KeepsCalls (s.pin w) :=
  keepsCalls_foldl (α := ChannelNo × Nat) _ (fun s r => modChan_keeps s r.1 _ (modSnapshot_kept _ _ _)) _ s

theorem unpin_keeps (s : State) (w : Work) : s.KeepsCalls (s.unpin w) :=
  keepsCalls_foldl (α := ChannelNo × Nat) _ (fun s r => modChan_keeps s r.1 _ (modSnapshot_kept _ _ _)) _ s

theorem markHead_keeps (s : State) : s.KeepsCalls s.markHead := by
  unfold State.markHead
  split
  · exact .refl s
  · split
    · refine keepsCalls_foldl _ (fun s r => ?_) _ s
      split
      · exact modChan_keeps s _ _ ⟨(s.chan r.channel).ring, (s.chan r.channel).rollback, _, rfl⟩
      · exact .refl s
    · exact .refl s

theorem enqueue_keeps (s : State) (o : Order) : s.KeepsCalls (s.enqueue o) := by
  have h := (setMover_keeps s (s.mover ++ [o])).trans (pin_keeps _ o.work)
  unfold State.enqueue
  dsimp only
  split
  · exact h.trans (markHead_keeps _)
  · exact h

theorem dropRollback_keeps (s : State) (o : Order) : s.KeepsCalls (s.dropRollback o) := by
  unfold State.dropRollback
  split
  · exact modChan_keeps s _ _ ⟨(s.chan o.work.channel).ring, none, (s.chan o.work.channel).marks, rfl⟩
  · exact .refl s

theorem giveUp_keeps (s : State) (w : Work) : s.KeepsCalls (s.giveUp w) := by
  unfold State.giveUp
  split
  · exact removeSnapshot_keeps s _ _
  all_goals exact unpin_keeps s _

theorem endEarly_keeps (how : OrderEnd) (s : State) (o : Order) : s.KeepsCalls (State.endEarly how s o) :=
  ((giveUp_keeps s o.work).trans (dropRollback_keeps _ o)).trans (notify_keeps _ _ _)

theorem abortOrders_keeps (s : State) (which : Order → Bool) : s.KeepsCalls (s.abortOrders which) :=
  ((setMover_keeps s _).trans (keepsCalls_foldl _ (endEarly_keeps .aborted) _ _)).trans (markHead_keeps _)

/-! ### The mover queue -/

theorem mover_foldl {α : Type} (f : State → α → State) (h : ∀ (s : State) (a : α), (f s a).mover = s.mover)
    (items : List α) (s : State) : (items.foldl f s).mover = s.mover := by
  induction items generalizing s with
  | nil => rfl
  | cons a rest ih => rw [List.foldl_cons, ih, h]

@[simp] theorem pin_mover (s : State) (w : Work) : (s.pin w).mover = s.mover :=
  mover_foldl (α := ChannelNo × Nat) _ (fun s r => modChan_mover s r.1 _) _ s

@[simp] theorem unpin_mover (s : State) (w : Work) : (s.unpin w).mover = s.mover :=
  mover_foldl (α := ChannelNo × Nat) _ (fun s r => modChan_mover s r.1 _) _ s

@[simp] theorem markHead_mover (s : State) : s.markHead.mover = s.mover := by
  unfold State.markHead
  split
  · rfl
  · split
    · exact mover_foldl _ (fun s r => by split <;> rfl) _ s
    · rfl

@[simp] theorem giveUp_mover (s : State) (w : Work) : (s.giveUp w).mover = s.mover := by
  unfold State.giveUp
  split
  · rfl
  all_goals exact unpin_mover s _

@[simp] theorem dropRollback_mover (s : State) (o : Order) : (s.dropRollback o).mover = s.mover := by
  unfold State.dropRollback
  split <;> rfl

@[simp] theorem endEarly_mover (how : OrderEnd) (s : State) (o : Order) : (State.endEarly how s o).mover = s.mover := by
  simp [State.endEarly]

/-- An order joins the back of the queue (R112, R113). -/
@[simp] theorem enqueue_mover (s : State) (o : Order) : (s.enqueue o).mover = s.mover ++ [o] := by
  unfold State.enqueue
  dsimp only
  split <;> simp

/-- The orders named leave the queue, and the others keep their order (R113, R119). -/
@[simp] theorem abortOrders_mover (s : State) (which : Order → Bool) :
    (s.abortOrders which).mover = s.mover.filter fun o => !which o := by
  simp only [State.abortOrders, markHead_mover]
  rw [mover_foldl _ (fun s o => endEarly_mover .aborted s o)]
  rfl

/-! ### Players and the probe queue -/

/-- What freeing a player leaves of each channel (R100). -/
theorem freePlayer_chan (s : State) (n m : ChannelNo) :
    (s.freePlayer n).chan m = if n = m then { s.chan m with player := none } else s.chan m := by
  unfold State.freePlayer
  split
  · rw [chan_modChan]; simp
  · next e =>
    split
    · next e' => subst e'; rw [← e]
    · rfl

@[simp] theorem freePlayer_probeQueue (s : State) (n : ChannelNo) : (s.freePlayer n).probeQueue = s.probeQueue := by
  unfold State.freePlayer
  split <;> rfl

@[simp] theorem freePlayer_mover (s : State) (n : ChannelNo) : (s.freePlayer n).mover = s.mover := by
  unfold State.freePlayer
  split <;> rfl

@[simp] theorem freePlayer_pool (s : State) (n : ChannelNo) : (s.freePlayer n).pool = s.pool := by
  unfold State.freePlayer
  split <;> rfl

@[simp] theorem freePlayer_cache (s : State) (n : ChannelNo) : (s.freePlayer n).cache = s.cache := by
  unfold State.freePlayer
  split <;> rfl

/-- A channel that is not queued is not granted a player (R93). -/
theorem grantOne_chan_of_not_queued (s : State) {m : ChannelNo} (h : m ∉ s.probeQueue) :
    s.grantOne.chan m = s.chan m ∧ m ∉ s.grantOne.probeQueue := by
  unfold State.grantOne
  split
  · next n rest k e _ =>
    rw [e] at h
    simp only [List.mem_cons, not_or] at h
    refine ⟨?_, ?_⟩
    · rw [chan_modChan_of_ne _ _ (fun e => h.1 e.symm)]
      rfl
    · simpa using h.2
  · exact ⟨rfl, h⟩

theorem grants_chan_of_not_queued (s : State) {m : ChannelNo} (h : m ∉ s.probeQueue) :
    s.grants.chan m = s.chan m ∧ m ∉ s.grants.probeQueue := by
  have h1 := grantOne_chan_of_not_queued s h
  have h2 := grantOne_chan_of_not_queued _ h1.2
  have h3 := grantOne_chan_of_not_queued _ h2.2
  have h4 := grantOne_chan_of_not_queued _ h3.2
  exact ⟨h4.1.trans (h3.1.trans (h2.1.trans h1.1)), h4.2⟩

theorem Channel.GrantedOr.trans {c d e : Channel} (h : c.GrantedOr d) (h' : d.GrantedOr e) : c.GrantedOr e := by
  rcases h with rfl | ⟨k, rfl⟩
  · exact h'
  · rcases h' with rfl | ⟨j, rfl⟩
    · exact .inr ⟨k, rfl⟩
    · exact .inr ⟨j, rfl⟩

theorem grantOne_chan (s : State) (m : ChannelNo) : (s.chan m).GrantedOr (s.grantOne.chan m) := by
  unfold State.grantOne
  split
  · next n rest k _ _ =>
    rw [chan_modChan]
    split
    · exact .inr ⟨k, rfl⟩
    · exact .inl rfl
  · exact .inl rfl

theorem grants_chan (s : State) (m : ChannelNo) : (s.chan m).GrantedOr (s.grants.chan m) :=
  (((grantOne_chan s m).trans (grantOne_chan _ m)).trans (grantOne_chan _ m)).trans (grantOne_chan _ m)

@[simp] theorem grantOne_mover (s : State) : s.grantOne.mover = s.mover := by
  unfold State.grantOne; split <;> rfl

@[simp] theorem grantOne_pool (s : State) : s.grantOne.pool = s.pool := by
  unfold State.grantOne; split <;> rfl

@[simp] theorem grantOne_cache (s : State) : s.grantOne.cache = s.cache := by
  unfold State.grantOne; split <;> rfl

@[simp] theorem grants_mover (s : State) : s.grants.mover = s.mover := by simp [State.grants]
@[simp] theorem grants_pool (s : State) : s.grants.pool = s.pool := by simp [State.grants]
@[simp] theorem grants_cache (s : State) : s.grants.cache = s.cache := by simp [State.grants]

/-- With no queued channel, or with no IDLE player, nothing is granted. -/
theorem grantOne_of_empty (s : State) (h : s.probeQueue = []) : s.grantOne = s := by
  unfold State.grantOne; rw [h]

theorem grants_of_empty (s : State) (h : s.probeQueue = []) : s.grants = s := by
  simp [State.grants, grantOne_of_empty s h]

theorem grantOne_of_no_idle (s : State) (h : s.idlePlayer = none) : s.grantOne = s := by
  unfold State.grantOne; rw [h]; split <;> simp_all

theorem grants_of_no_idle (s : State) (h : s.idlePlayer = none) : s.grants = s := by
  simp [State.grants, grantOne_of_no_idle s h]

/-! ### The comparison of the pool (R48, R49) -/

@[simp] theorem comparePool_channels (s : State) : s.comparePool.channels = s.channels := by
  unfold State.comparePool; dsimp only; split
  · simp
  · split <;> simp
@[simp] theorem comparePool_mover (s : State) : s.comparePool.mover = s.mover := by
  unfold State.comparePool; dsimp only; split
  · simp
  · split <;> simp
@[simp] theorem comparePool_cache (s : State) : s.comparePool.cache = s.cache := by
  unfold State.comparePool; dsimp only; split
  · simp
  · split <;> simp
@[simp] theorem comparePool_probeQueue (s : State) : s.comparePool.probeQueue = s.probeQueue := by
  unfold State.comparePool; dsimp only; split
  · simp
  · split <;> simp
@[simp] theorem comparePool_players (s : State) : s.comparePool.players = s.players := by
  unfold State.comparePool; dsimp only; split
  · simp
  · split <;> simp
@[simp] theorem comparePool_taps (s : State) : s.comparePool.pool.taps = s.pool.taps := by
  unfold State.comparePool; dsimp only; split
  · simp
  · split <;> simp
@[simp] theorem comparePool_free (s : State) : s.comparePool.pool.free = s.pool.free := by
  unfold State.comparePool; dsimp only; split
  · simp
  · split <;> simp
@[simp] theorem comparePool_chan (s : State) (m : ChannelNo) : s.comparePool.chan m = s.chan m := by
  simp [State.chan]

/-! ### The end of an event -/

@[simp] theorem closeEvent_mover (s₀ s : State) : (s₀.closeEvent s).mover = s.mover := by
  unfold State.closeEvent; dsimp only; split <;> simp
@[simp] theorem closeEvent_cache (s₀ s : State) : (s₀.closeEvent s).cache = s.cache := by
  unfold State.closeEvent; dsimp only; split <;> simp
@[simp] theorem closeEvent_taps (s₀ s : State) : (s₀.closeEvent s).pool.taps = s.pool.taps := by
  unfold State.closeEvent; dsimp only; split <;> simp
@[simp] theorem closeEvent_free (s₀ s : State) : (s₀.closeEvent s).pool.free = s.pool.free := by
  unfold State.closeEvent; dsimp only; split <;> simp

theorem closeEvent_chan (s₀ s : State) (m : ChannelNo) : (s.chan m).GrantedOr ((s₀.closeEvent s).chan m) := by
  unfold State.closeEvent; dsimp only; split
  · exact grants_chan s m
  · rw [comparePool_chan]; exact grants_chan s m

theorem closeEvent_chan_of_not_queued (s₀ s : State) {m : ChannelNo} (h : m ∉ s.probeQueue) :
    (s₀.closeEvent s).chan m = s.chan m ∧ m ∉ (s₀.closeEvent s).probeQueue := by
  have g := grants_chan_of_not_queued s h
  unfold State.closeEvent; dsimp only; split
  · exact g
  · simpa using g

end Sys2Proof.Machine
end

