-- ==== Sys2Proof/Laws/Memory.lean ====
section
/-! SUPPORT. The tap store: its canonical form, kept by every write and every clearing, and what a read gives after
them. -/

namespace Sys2Proof.Machine

/-- The canonical form, said of the whole list: addresses strictly rising, no value 0. -/
theorem wf_iff (m : Memory) : m.wf = true ↔ m.Pairwise (fun a b => a.1 < b.1) ∧ ∀ c ∈ m, c.2 ≠ 0 := by
  induction m with
  | nil => simp [Memory.wf]
  | cons c rest ih =>
    cases rest with
    | nil => simp [Memory.wf]
    | cons d rest =>
      have e : Memory.wf (c :: d :: rest) = (decide (c.2 ≠ 0) && decide (c.1 < d.1) && Memory.wf (d :: rest)) := rfl
      rw [e]
      simp only [Bool.and_eq_true, decide_eq_true_eq, ih]
      constructor
      · rintro ⟨⟨hc, hlt⟩, hp, hv⟩
        refine ⟨List.pairwise_cons.2 ⟨?_, hp⟩, ?_⟩
        · intro x hx
          rcases List.mem_cons.1 hx with rfl | hx
          · exact hlt
          · exact Nat.lt_trans hlt (List.rel_of_pairwise_cons hp hx)
        · intro x hx
          rcases List.mem_cons.1 hx with rfl | hx
          · exact hc
          · exact hv x hx
      · rintro ⟨hp, hv⟩
        have hp' := List.pairwise_cons.1 hp
        exact ⟨⟨hv c (by simp), hp'.1 d (by simp)⟩, hp'.2, fun x hx => hv x (List.mem_cons_of_mem _ hx)⟩

/-- An address below every listed one reads 0. -/
theorem read_eq_zero_of_lt {m : Memory} {a : Nat} (h : ∀ c ∈ m, a < c.1) : m.read a = 0 := by
  induction m with
  | nil => rfl
  | cons c rest ih =>
    have := h c (by simp)
    rw [Memory.read, if_neg (by omega)]
    exact ih fun x hx => h x (List.mem_cons_of_mem _ hx)

/-- The cells of a write are the old ones and the written one. -/
theorem mem_write {m : Memory} {a : Nat} {v : Tap} {c : Nat × Tap} (h : c ∈ m.write a v) :
    c ∈ m ∨ (c = (a, v) ∧ v ≠ 0) := by
  induction m with
  | nil =>
    by_cases e : v = 0
    · simp [Memory.write, e] at h
    · simp only [Memory.write, e, if_false, List.mem_cons, List.not_mem_nil, or_false] at h
      exact .inr ⟨h, e⟩
  | cons d rest ih =>
    obtain ⟨k, x⟩ := d
    rw [Memory.write] at h
    split at h
    · split at h
      · exact .inl h
      · next e =>
        rcases List.mem_cons.1 h with rfl | h
        · exact .inr ⟨rfl, e⟩
        · exact .inl h
    · split at h
      · split at h
        · exact .inl (List.mem_cons_of_mem _ h)
        · next e =>
          rcases List.mem_cons.1 h with rfl | h
          · exact .inr ⟨rfl, e⟩
          · exact .inl (List.mem_cons_of_mem _ h)
      · rcases List.mem_cons.1 h with rfl | h
        · exact .inl (by simp)
        · rcases ih h with h | h
          · exact .inl (List.mem_cons_of_mem _ h)
          · exact .inr h

/-- A write keeps the canonical form. -/
theorem write_wf {m : Memory} (a : Nat) (v : Tap) (h : m.wf = true) : (m.write a v).wf = true := by
  rw [wf_iff] at h ⊢
  refine ⟨?_, ?_⟩
  · have hp := h.1
    clear h
    induction m with
    | nil =>
      by_cases e : v = 0 <;> simp [Memory.write, e]
    | cons d rest ih =>
      obtain ⟨k, x⟩ := d
      have hd := List.pairwise_cons.1 hp
      rw [Memory.write]
      split
      · next lt =>
        split
        · exact hp
        · refine List.pairwise_cons.2 ⟨fun y hy => ?_, hp⟩
          rcases List.mem_cons.1 hy with rfl | hy
          · exact lt
          · exact Nat.lt_trans lt (hd.1 y hy)
      · split
        · next e =>
          split
          · exact hd.2
          · exact List.pairwise_cons.2 ⟨fun y hy => e ▸ hd.1 y hy, hd.2⟩
        · next h1 h2 =>
          refine List.pairwise_cons.2 ⟨fun y hy => ?_, ih hd.2⟩
          rcases mem_write hy with hy | ⟨rfl, _⟩
          · exact hd.1 y hy
          · show k < a
            omega
  · intro c hc
    rcases mem_write hc with hc | ⟨rfl, e⟩
    · exact h.2 c hc
    · exact e

/-- A read of the written address gives the value. -/
theorem read_write_self {m : Memory} (a : Nat) (v : Tap) (h : m.wf = true) : (m.write a v).read a = v := by
  rw [wf_iff] at h
  have hp := h.1
  clear h
  induction m with
  | nil => by_cases e : v = 0 <;> simp [Memory.write, Memory.read, e]
  | cons d rest ih =>
    obtain ⟨k, x⟩ := d
    have hd := List.pairwise_cons.1 hp
    rw [Memory.write]
    split
    · next lt =>
      split
      · next e =>
        rw [e]
        refine read_eq_zero_of_lt fun c hc => ?_
        rcases List.mem_cons.1 hc with rfl | hc
        · exact lt
        · exact Nat.lt_trans lt (hd.1 c hc)
      · simp [Memory.read]
    · split
      · next e =>
        split
        · next z =>
          rw [z, e]
          exact read_eq_zero_of_lt hd.1
        · simp [Memory.read]
      · next h1 h2 =>
        rw [Memory.read, if_neg (by omega)]
        exact ih hd.2

/-- A read of any other address is unchanged. -/
theorem read_write_of_ne {m : Memory} {a b : Nat} (v : Tap) (h : m.wf = true) (ne : a ≠ b) :
    (m.write a v).read b = m.read b := by
  rw [wf_iff] at h
  have hp := h.1
  clear h
  induction m with
  | nil => by_cases e : v = 0 <;> simp [Memory.write, Memory.read, e, ne]
  | cons d rest ih =>
    obtain ⟨k, x⟩ := d
    have hd := List.pairwise_cons.1 hp
    rw [Memory.write]
    split
    · split
      · rfl
      · rw [Memory.read, if_neg ne]
    · split
      · next e =>
        split
        · rw [Memory.read, if_neg (by omega)]
        · rw [Memory.read, if_neg ne, Memory.read, if_neg (by omega)]
      · rw [Memory.read, Memory.read, ih hd.2]

theorem writeAt_wf {m : Memory} (at_ : Option Nat) (v : Tap) (h : m.wf = true) : (m.writeAt at_ v).wf = true := by
  cases at_ with
  | none => exact h
  | some a => exact write_wf a v h

/-- A fold of writes keeps the canonical form. -/
theorem writeAll_wf {α : Type} (items : List α) (place : α → Option Nat) (value : α → Tap) {m : Memory}
    (h : m.wf = true) : (items.foldl (fun m i => m.writeAt (place i) (value i)) m).wf = true := by
  induction items generalizing m with
  | nil => exact h
  | cons i rest ih => exact ih (writeAt_wf _ _ h)

/-- Clearing segments keeps the canonical form. -/
theorem clearSegments_wf {m : Memory} (segments : List Nat) (h : m.wf = true) : (m.clearSegments segments).wf = true := by
  rw [wf_iff] at h ⊢
  exact ⟨h.1.filter _, fun c hc => h.2 c (List.mem_filter.1 hc).1⟩

/-- After clearing segments every tap of them is 0 and every other is as it was. -/
theorem read_clearSegments (m : Memory) (segments : List Nat) (a : Nat) :
    (m.clearSegments segments).read a = if a / 32 ∈ segments then 0 else m.read a := by
  induction m with
  | nil => simp [Memory.clearSegments, Memory.read]
  | cons d rest ih =>
    obtain ⟨k, x⟩ := d
    unfold Memory.clearSegments at ih ⊢
    rw [List.filter_cons]
    split
    · next keep =>
      rw [Memory.read, Memory.read, ih]
      by_cases e : k = a
      · subst e
        have : k / 32 ∉ segments := by simpa using keep
        simp [this]
      · simp [e]
    · next keep =>
      rw [ih, Memory.read]
      by_cases e : k = a
      · subst e
        have : k / 32 ∈ segments := by simpa using keep
        simp [this]
      · simp [e]

end Sys2Proof.Machine
end

