-- ==== Sys2Proof/Laws/Stores.lean ====
section
/-! SUPPORT. The stores that events share (taps, free set, mover queue, cache) stay sound through every operation. -/

namespace Sys2Proof.Machine

/-! ### The free set -/

theorem mem_insertSegment {x y : Nat} {free : List Nat} : y ∈ insertSegment x free ↔ y = x ∨ y ∈ free := by
  induction free with
  | nil => simp [insertSegment]
  | cons z rest ih =>
    rw [insertSegment]
    split
    · simp
    · split
      · next h => subst h; simp
      · simp only [List.mem_cons, ih]
        constructor
        · rintro (h | h | h) <;> simp [h]
        · rintro (h | h | h) <;> simp [h]

theorem insertSegment_sorted {free : List Nat} (x : Nat) (h : free.Pairwise (· < ·)) :
    (insertSegment x free).Pairwise (· < ·) := by
  induction free with
  | nil => simp [insertSegment]
  | cons z rest ih =>
    have hz := List.pairwise_cons.1 h
    rw [insertSegment]
    split
    · next lt =>
      refine List.pairwise_cons.2 ⟨fun y hy => ?_, h⟩
      rcases List.mem_cons.1 hy with rfl | hy
      · exact lt
      · exact Nat.lt_trans lt (hz.1 y hy)
    · split
      · exact h
      · refine List.pairwise_cons.2 ⟨fun y hy => ?_, ih hz.2⟩
        rcases mem_insertSegment.1 hy with rfl | hy
        · omega
        · exact hz.1 y hy

theorem insertSegments_sorted (segments : List Nat) {free : List Nat} (h : free.Pairwise (· < ·)) :
    (segments.foldl (fun f x => insertSegment x f) free).Pairwise (· < ·) := by
  induction segments generalizing free with
  | nil => exact h
  | cons x rest ih => exact ih (insertSegment_sorted x h)

/-- What returning segments leaves in the free set: what was in it, and they (R43). -/
theorem mem_insertSegments {y : Nat} (segments free : List Nat) :
    y ∈ segments.foldl (fun f x => insertSegment x f) free ↔ y ∈ segments ∨ y ∈ free := by
  induction segments generalizing free with
  | nil => simp
  | cons x rest ih =>
    rw [List.foldl_cons, ih, mem_insertSegment, List.mem_cons]
    constructor
    · rintro (h | h | h) <;> simp [h]
    · rintro ((h | h) | h) <;> simp [h]

/-! ### Updates of one store -/

theorem StoresLegal.setTaps {taps taps' : Memory} {free : List Nat} {orders : List Order} {entries : List CacheEntry}
    (h : StoresLegal taps free orders entries) (w : taps'.wf = true) : StoresLegal taps' free orders entries :=
  ⟨w, h.ascending, h.places, h.quotas, h.size, h.tags⟩

theorem StoresLegal.setFree {taps : Memory} {free free' : List Nat} {orders : List Order} {entries : List CacheEntry}
    (h : StoresLegal taps free orders entries) (w : free'.Pairwise (· < ·)) : StoresLegal taps free' orders entries :=
  ⟨h.canonical, w, h.places, h.quotas, h.size, h.tags⟩

/-- Orders that leave the queue. -/
theorem StoresLegal.shrinkMover {taps : Memory} {free : List Nat} {orders orders' : List Order}
    {entries : List CacheEntry} (h : StoresLegal taps free orders entries) (sub : orders'.Sublist orders) :
    StoresLegal taps free orders' entries :=
  ⟨h.canonical, h.ascending, Nat.le_trans sub.length_le h.places, fun p => Nat.le_trans (sub.countP_le) (h.quotas p),
    h.size, h.tags⟩

/-- An order that joins the back of a queue with room. -/
theorem StoresLegal.addOrder {taps : Memory} {free : List Nat} {orders : List Order} {entries : List CacheEntry}
    (h : StoresLegal taps free orders entries) (o : Order) (room : orders.length < 16)
    (quota : o.origin = .command → orders.countP (fun x => x.origin == .command && x.port == o.port) < 6) :
    StoresLegal taps free (orders ++ [o]) entries := by
  refine ⟨h.canonical, h.ascending, by simp; omega, fun p => ?_, h.size, h.tags⟩
  have hp := h.quotas p
  rw [List.countP_append]
  by_cases c : o.origin = .command ∧ o.port = p
  · obtain ⟨c, rfl⟩ := c
    have := quota c
    simp only [List.countP_cons, List.countP_nil, c, beq_self_eq_true, Bool.and_self, if_true]
    omega
  · have : (o.origin == .command && o.port == p) = false := by
      simp only [Bool.and_eq_false_iff, beq_eq_false_iff_ne]
      by_cases d : o.origin = .command
      · exact .inr fun e => c ⟨d, e⟩
      · exact .inl d
    simp only [List.countP_cons, List.countP_nil, this]
    simpa using hp

/-- Entries that leave the cache. -/
theorem StoresLegal.shrinkCache {taps : Memory} {free : List Nat} {orders : List Order}
    {entries entries' : List CacheEntry} (h : StoresLegal taps free orders entries) (sub : entries'.Sublist entries) :
    StoresLegal taps free orders entries' :=
  ⟨h.canonical, h.ascending, h.places, h.quotas, Nat.le_trans sub.length_le h.size, h.tags.sublist (sub.map _)⟩

/-! ### The operations -/

theorem stores_foldl {α : Type} (f : State → α → State) (h : ∀ (s : State) (a : α), s.StoresSound → (f s a).StoresSound)
    (items : List α) (s : State) (i : s.StoresSound) : (items.foldl f s).StoresSound := by
  induction items generalizing s with
  | nil => exact i
  | cons a rest ih => exact ih (f s a) (h s a i)

theorem modPort_stores {s : State} (p : Port) (f : PortRecord → PortRecord) (h : s.StoresSound) :
    (s.modPort p f).StoresSound := h

theorem modChan_stores {s : State} (n : ChannelNo) (f : Channel → Channel) (h : s.StoresSound) :
    (s.modChan n f).StoresSound := h

theorem setPlay_stores {s : State} (k : PlayerNo) (x : Option Play) (h : s.StoresSound) :
    (s.setPlay k x).StoresSound := h

theorem modHighway_stores {s : State} (f : Highway → Highway) (h : s.StoresSound) : (s.modHighway f).StoresSound := h

theorem notify_stores {s : State} (p : Port) (n : Notice) (h : s.StoresSound) : (s.notify p n).StoresSound := by
  unfold State.notify
  split
  · exact modPort_stores _ _ h
  · exact h

theorem notifyLessee_stores {s : State} (lessee : Option Port) (n : Notice) (h : s.StoresSound) :
    (s.notifyLessee lessee n).StoresSound := by
  unfold State.notifyLessee
  split
  · exact notify_stores _ _ h
  · exact h

theorem broadcast_stores {s : State} (n : Notice) (h : s.StoresSound) : (s.broadcast n).StoresSound :=
  stores_foldl _ (fun _ p => notify_stores p n) _ s h

theorem broadcastExcept_stores {s : State} (but : Port) (n : Notice) (h : s.StoresSound) :
    (s.broadcastExcept but n).StoresSound := by
  refine stores_foldl _ (fun s p i => ?_) _ s h
  split
  · exact i
  · exact notify_stores p n i

theorem modAllChannels_stores {s : State} (f : Channel → Channel) (h : s.StoresSound) :
    (s.modAllChannels f).StoresSound :=
  stores_foldl (α := ChannelNo) _ (fun _ n => modChan_stores n f) _ s h

theorem modAllPlays_stores {s : State} (f : Play → Play) (h : s.StoresSound) : (s.modAllPlays f).StoresSound :=
  stores_foldl (α := PlayerNo) _ (fun s k => setPlay_stores k ((s.play k).map f)) _ s h

theorem writeLive_stores {s : State} (n : ChannelNo) (bank : Bank) (indices : List Nat) (f : Nat → Tap)
    (h : s.StoresSound) : (s.writeLive n bank indices f).StoresSound :=
  StoresLegal.setTaps h (writeAll_wf _ _ _ h.canonical)

theorem writeInitialTaps_stores {s : State} (n : ChannelNo) (h : s.StoresSound) : (s.writeInitialTaps n).StoresSound :=
  writeLive_stores _ _ _ _ (writeLive_stores _ _ _ _ (writeLive_stores _ _ _ _ h))

theorem takeSegments_stores {s : State} (k : Nat) (h : s.StoresSound) : (s.takeSegments k).2.StoresSound :=
  StoresLegal.setFree h (h.ascending.sublist (List.drop_sublist _ _))

theorem returnSegments_stores {s : State} (segments : List Nat) (h : s.StoresSound) :
    (s.returnSegments segments).StoresSound :=
  StoresLegal.setTaps (StoresLegal.setFree h (insertSegments_sorted segments h.ascending)) (clearSegments_wf _ h.canonical)

theorem comparePool_stores {s : State} (h : s.StoresSound) : s.comparePool.StoresSound := by
  unfold State.comparePool
  dsimp only
  split
  · exact broadcast_stores _ h
  · split
    · exact broadcast_stores _ h
    · exact h

theorem enterQueued_stores {s : State} (n : ChannelNo) (h : s.StoresSound) : (s.enterQueued n).StoresSound := h

theorem leaveQueue_stores {s : State} (n : ChannelNo) (h : s.StoresSound) : (s.leaveQueue n).StoresSound := h

theorem freePlayer_stores {s : State} (n : ChannelNo) (h : s.StoresSound) : (s.freePlayer n).StoresSound := by
  unfold State.freePlayer
  split <;> exact h

theorem grantOne_stores {s : State} (h : s.StoresSound) : s.grantOne.StoresSound := by
  unfold State.grantOne
  split <;> exact h

theorem grants_stores {s : State} (h : s.StoresSound) : s.grants.StoresSound :=
  grantOne_stores (grantOne_stores (grantOne_stores (grantOne_stores h)))

theorem closeEvent_stores (s₀ : State) {s : State} (h : s.StoresSound) : (s₀.closeEvent s).StoresSound := by
  unfold State.closeEvent
  dsimp only
  split
  · exact grants_stores h
  · exact comparePool_stores (grants_stores h)

theorem removeSnapshot_stores {s : State} (n : ChannelNo) (id : Nat) (h : s.StoresSound) :
    (s.removeSnapshot n id).StoresSound :=
  returnSegments_stores _ (modChan_stores n _ h)

theorem pin_stores {s : State} (w : Work) (h : s.StoresSound) : (s.pin w).StoresSound :=
  stores_foldl (α := ChannelNo × Nat) _ (fun _ r => modChan_stores r.1 _) _ s h

theorem unpin_stores {s : State} (w : Work) (h : s.StoresSound) : (s.unpin w).StoresSound :=
  stores_foldl (α := ChannelNo × Nat) _ (fun _ r => modChan_stores r.1 _) _ s h

theorem markHead_stores {s : State} (h : s.StoresSound) : s.markHead.StoresSound := by
  unfold State.markHead
  split
  · exact h
  · split
    · refine stores_foldl _ (fun s r i => ?_) _ s h
      split <;> exact i
    · exact h

/-- An order enqueued with room, and, a COMMAND order, within its port's quota (R113). -/
theorem enqueue_stores {s : State} (o : Order) (h : s.StoresSound) (room : s.mover.length < 16)
    (quota : o.origin = .command → s.commandOrders o.port < 6) : (s.enqueue o).StoresSound := by
  have i : ((s.setMover (s.mover ++ [o])).pin o.work).StoresSound :=
    pin_stores (s := s.setMover (s.mover ++ [o])) o.work (StoresLegal.addOrder h o room quota)
  unfold State.enqueue
  dsimp only
  split
  · exact markHead_stores i
  · exact i

theorem dropRollback_stores {s : State} (o : Order) (h : s.StoresSound) : (s.dropRollback o).StoresSound := by
  unfold State.dropRollback
  split <;> exact h

theorem giveUp_stores {s : State} (w : Work) (h : s.StoresSound) : (s.giveUp w).StoresSound := by
  unfold State.giveUp
  split
  · exact removeSnapshot_stores _ _ h
  all_goals exact unpin_stores _ h

theorem endEarly_stores (how : OrderEnd) {s : State} (o : Order) (h : s.StoresSound) :
    (State.endEarly how s o).StoresSound :=
  notify_stores _ _ (dropRollback_stores o (giveUp_stores o.work h))

theorem shrinkMover_stores {s : State} {orders : List Order} (h : s.StoresSound) (sub : orders.Sublist s.mover) :
    (s.setMover orders).StoresSound :=
  StoresLegal.shrinkMover h sub

theorem abortOrders_stores {s : State} (which : Order → Bool) (h : s.StoresSound) : (s.abortOrders which).StoresSound :=
  markHead_stores (stores_foldl _ (fun _ o => endEarly_stores .aborted o) _ _
    (shrinkMover_stores h (List.filter_sublist)))

theorem finishWork_stores {s : State} (w : Work) (h : s.StoresSound) : (s.finishWork w).StoresSound := by
  unfold State.finishWork
  split <;> exact h

theorem setGuard_stores {s : State} (o : Order) (h : s.StoresSound) : (s.setGuard o).StoresSound := by
  unfold State.setGuard
  dsimp only
  split <;> exact h

theorem endComplete_stores {s : State} (o : Order) (h : s.StoresSound) : (s.endComplete o).StoresSound :=
  notify_stores _ _ (dropRollback_stores o (setGuard_stores o (unpin_stores _ (finishWork_stores _ h))))

theorem completeHead_stores {s : State} (h : s.StoresSound) : s.completeHead.StoresSound := by
  unfold State.completeHead
  split
  · exact h
  · next o rest e =>
    refine markHead_stores (endComplete_stores o (shrinkMover_stores h ?_))
    rw [e]
    exact List.sublist_cons_self o rest

theorem shrinkCache_stores {s : State} {entries : List CacheEntry} (h : s.StoresSound)
    (sub : entries.Sublist s.cache) : (s.setCache entries).StoresSound :=
  StoresLegal.shrinkCache h sub

theorem evict_stores (reason : EvictReason) {s : State} (e : CacheEntry) (h : s.StoresSound) :
    (State.evict reason s e).StoresSound :=
  broadcast_stores _ (returnSegments_stores _ (shrinkCache_stores h List.filter_sublist))

/-- The cache that an eviction leaves. -/
theorem evict_cache (reason : EvictReason) (s : State) (e : CacheEntry) :
    (State.evict reason s e).cache = s.cache.filter fun x => x.routeTag ≠ e.routeTag := by
  simp only [State.evict, broadcast_cache]
  rfl

theorem evictSame_stores {s : State} (tag : Nat) (h : s.StoresSound) : (s.evictSame tag).StoresSound := by
  unfold State.evictSame
  split
  · exact evict_stores _ _ h
  · exact h

/-- After the replacement no entry holds the tag (R125 step 1). -/
theorem evictSame_fresh (s : State) (tag : Nat) : ∀ e ∈ (s.evictSame tag).cache, e.routeTag ≠ tag := by
  intro e he
  unfold State.evictSame at he
  split at he
  · next old found =>
    rw [evict_cache] at he
    have hold : old.routeTag = tag := by
      have := List.find?_some found
      simpa using this
    have := (List.mem_filter.1 he).2
    simpa [hold] using this
  · next none_ =>
    have := List.find?_eq_none.1 none_ e he
    simpa using this

theorem makeRoom_stores {s : State} (h : s.StoresSound) : s.makeRoom.StoresSound := by
  unfold State.makeRoom
  split
  · split
    · exact evict_stores _ _ h
    · exact h
  · exact h

/-- After making room there is room, and what is left was there (R125 step 2). -/
theorem makeRoom_room {s : State} (h : s.cache.length ≤ 16) :
    s.makeRoom.cache.length < 16 ∧ s.makeRoom.cache.Sublist s.cache := by
  unfold State.makeRoom
  split
  · next oldest rest e =>
    split
    · rw [evict_cache]
      refine ⟨?_, List.filter_sublist⟩
      have : (s.cache.filter fun x => x.routeTag ≠ oldest.routeTag).length ≤ rest.length := by
        rw [e, List.filter_cons]
        simp only [ne_eq, not_true_eq_false, decide_false]
        exact List.length_filter_le _ _
      have hl : s.cache.length = rest.length + 1 := by rw [e]; rfl
      omega
    · exact ⟨by omega, .refl _⟩
  · next e => rw [e]; exact ⟨by simp, .refl _⟩

theorem park_stores {s : State} (n : ChannelNo) (h : s.StoresSound) : (s.park n).StoresSound := by
  have h1 := evictSame_stores (s.chan n).policy.routeTag h
  have h2 := makeRoom_stores h1
  have room := makeRoom_room h1.size
  have fresh := evictSame_fresh s (s.chan n).policy.routeTag
  refine ⟨h2.canonical, h2.ascending, h2.places, h2.quotas, ?_, ?_⟩
  · show (_ ++ [_]).length ≤ 16
    simp only [List.length_append, List.length_cons, List.length_nil]
    omega
  · show (List.map CacheEntry.routeTag (_ ++ [_])).Nodup
    rw [List.map_append, List.nodup_append]
    refine ⟨h2.tags, by simp, ?_⟩
    intro a ha b hb e
    obtain ⟨x, hx, rfl⟩ := List.mem_map.1 ha
    simp only [List.map_cons, List.map_nil, List.mem_cons, List.not_mem_nil, or_false] at hb
    subst hb
    exact fresh x (room.2.subset hx) e

theorem vacate_stores {s : State} (n : ChannelNo) (park : Bool) (h : s.StoresSound) : (s.vacate n park).StoresSound := by
  have h1 := freePlayer_stores n (leaveQueue_stores n (abortOrders_stores (fun o => o.work.touches n) h))
  unfold State.vacate
  dsimp only
  refine modChan_stores n _ (returnSegments_stores _ ?_)
  split
  · exact park_stores n h1
  · exact returnSegments_stores _ h1

theorem completeRelease_stores {s : State} (n : ChannelNo) (h : s.StoresSound) : (s.completeRelease n).StoresSound :=
  vacate_stores n _ h

end Sys2Proof.Machine
end

