-- ==== Sys2Proof/Laws/Epoch.lean ====
section
/-! SUPPORT. What the end of play, the work of each block at an epoch end, the epoch end and `State.settle` can touch,
and that they keep the stores sound. -/

namespace Sys2Proof.Machine

/-! ### The end of play -/

theorem applyFinding_within (s : State) (n : ChannelNo) (sums : LocatorSums) : s.Within (s.applyFinding n sums) := by
  unfold State.applyFinding
  dsimp only
  split
  · refine State.Within.trans ?_ (modChan_within _ n _)
    split
    · exact .refl s
    · exact writeLive_within s n .far _ _
  · exact (writeLive_within s n .far _ _).trans (modChan_within _ n _)

theorem applyFinding_stores {s : State} (n : ChannelNo) (sums : LocatorSums) (h : s.StoresSound) :
    (s.applyFinding n sums).StoresSound := by
  unfold State.applyFinding
  dsimp only
  split
  · refine modChan_stores n _ ?_
    split
    · exact h
    · exact writeLive_stores n .far _ _ h
  · exact modChan_stores n _ (writeLive_stores n .far _ _ h)

theorem endOfPlay_within (s : State) (k : PlayerNo) : s.Within (s.endOfPlay k) := by
  unfold State.endOfPlay
  split
  · split
    · dsimp only
      refine State.Within.trans ?_ (grants_within _)
      refine State.Within.trans ?_ (modChan_within _ _ _)
      refine State.Within.trans ?_ (setPlay_within _ k none)
      split
      · exact applyFinding_within s _ _
      · exact .refl s
    · exact .refl s
  · exact .refl s

theorem endOfPlay_stores {s : State} (k : PlayerNo) (h : s.StoresSound) : (s.endOfPlay k).StoresSound := by
  unfold State.endOfPlay
  split
  · split
    · dsimp only
      refine grants_stores (modChan_stores _ _ (setPlay_stores k none ?_))
      split
      · exact applyFinding_stores _ _ h
      · exact h
    · exact h
  · exact h

/-- A player whose sequence has codes left is not at its end of play. -/
theorem endOfPlay_of_not_ended (s : State) (k : PlayerNo) (h : (s.play k).any Play.ended = false) :
    s.endOfPlay k = s := by
  unfold State.endOfPlay
  split
  · next play e =>
    have : play.ended = false := by simpa [e] using h
    simp [this]
  · rfl

/-! ### The mover -/

theorem moveOffset_within (w : Work) (s : State) (offset : Nat) : s.Within (s.moveOffset w offset) := by
  unfold State.moveOffset
  dsimp only
  split
  · exact setTaps_within s _
  · exact .refl s

theorem moveOffset_stores (w : Work) {s : State} (offset : Nat) (h : s.StoresSound) :
    (s.moveOffset w offset).StoresSound := by
  unfold State.moveOffset
  dsimp only
  split
  · exact StoresLegal.setTaps h (writeAt_wf _ _ h.canonical)
  · exact h

theorem moveOffset_mover (w : Work) (s : State) (offset : Nat) : (s.moveOffset w offset).mover = s.mover := by
  unfold State.moveOffset
  dsimp only
  split <;> rfl

theorem moveOffsets_mover (w : Work) (offsets : List Nat) (first : Nat) (s : State) :
    (offsets.foldl (fun s i => s.moveOffset w (first + i)) s).mover = s.mover := by
  induction offsets generalizing s with
  | nil => rfl
  | cons i rest ih => rw [List.foldl_cons, ih, moveOffset_mover]

theorem advanceHead_within (s : State) : s.Within s.advanceHead := by
  unfold State.advanceHead
  split
  · exact .refl s
  · next o rest e =>
    dsimp only
    have h := (within_foldl (α := Nat) (fun s i => s.moveOffset o.work (o.progress + i))
      (fun s i => moveOffset_within o.work s _) (List.range (min 256 (o.total - o.progress))) s).trans
      (setMover_within _ ({ o with progress := o.progress + min 256 (o.total - o.progress) } :: rest))
    split
    · exact h.trans (completeHead_within _)
    · exact h

theorem advanceHead_stores {s : State} (h : s.StoresSound) : s.advanceHead.StoresSound := by
  unfold State.advanceHead
  split
  · exact h
  · next o rest e =>
    dsimp only
    have i := stores_foldl (α := Nat) (fun s i => s.moveOffset o.work (o.progress + i))
      (fun s i => moveOffset_stores o.work _) (List.range (min 256 (o.total - o.progress))) s h
    have j := moveOffsets_mover o.work (List.range (min 256 (o.total - o.progress))) o.progress s
    have k : ((List.range (min 256 (o.total - o.progress))).foldl
        (fun s i => s.moveOffset o.work (o.progress + i)) s |>.setMover
          ({ o with progress := o.progress + min 256 (o.total - o.progress) } :: rest)).StoresSound := by
      refine ⟨i.canonical, i.ascending, ?_, fun p => ?_, i.size, i.tags⟩
      · have := h.places; rw [e] at this; simpa using this
      · have := h.quotas p; rw [e] at this; simpa [List.countP_cons] using this
    split
    · exact completeHead_stores k
    · exact k

/-! ### The engine and the supervisor -/

theorem detect_within (s : State) (n : ChannelNo) (m : Option Measurements) : s.Within (s.detect n m) := by
  unfold State.detect
  dsimp only
  split
  · split
    · exact .refl s
    · split
      · split
        · exact modChan_within s n _
        · exact (modChan_within s n _).trans (notifyLessee_within _ _ _)
      · exact modChan_within s n _
  · exact modChan_within s n _

theorem detect_stores {s : State} (n : ChannelNo) (m : Option Measurements) (h : s.StoresSound) :
    (s.detect n m).StoresSound := by
  unfold State.detect
  dsimp only
  split
  · split
    · exact h
    · split
      · split
        · exact h
        · exact notifyLessee_stores _ _ h
      · exact h
  · exact h

theorem updateTaps_within (s : State) (n : ChannelNo) : s.Within (s.updateTaps n) := by
  unfold State.updateTaps
  dsimp only
  refine State.Within.trans ?_ (writeLive_within _ n .equal _ _)
  split
  · exact (writeLive_within s n .near _ _).trans (writeLive_within _ n .far _ _)
  · exact writeLive_within s n .near _ _

theorem updateTaps_stores {s : State} (n : ChannelNo) (h : s.StoresSound) : (s.updateTaps n).StoresSound := by
  unfold State.updateTaps
  dsimp only
  refine writeLive_stores n .equal _ _ ?_
  split
  · exact writeLive_stores n .far _ _ (writeLive_stores n .near _ _ h)
  · exact writeLive_stores n .near _ _ h

theorem spendBudget_within (s : State) (n : ChannelNo) : s.Within (s.spendBudget n) := by
  unfold State.spendBudget
  dsimp only
  split
  · split
    · exact (modChan_within s n _).trans (notifyLessee_within _ _ _)
    · exact modChan_within s n _
  · exact .refl s

theorem spendBudget_stores {s : State} (n : ChannelNo) (h : s.StoresSound) : (s.spendBudget n).StoresSound := by
  unfold State.spendBudget
  dsimp only
  split
  · split
    · exact notifyLessee_stores _ _ h
    · exact h
  · exact h

theorem adaptChannel_within (s : State) (c₀ : Channel) (n : ChannelNo) : s.Within (s.adaptChannel c₀ n) := by
  unfold State.adaptChannel
  split
  · exact ((updateTaps_within s n).trans (spendBudget_within _ n)).trans (modChan_within _ n _)
  · exact .refl s

theorem adaptChannel_stores {s : State} (c₀ : Channel) (n : ChannelNo) (h : s.StoresSound) :
    (s.adaptChannel c₀ n).StoresSound := by
  unfold State.adaptChannel
  split
  · exact modChan_stores n _ (spendBudget_stores n (updateTaps_stores n h))
  · exact h

theorem retrainDiverged_within (s : State) (n : ChannelNo) : s.Within (s.retrainDiverged n) :=
  (enterQueued_within s n).trans (notifyLessee_within _ _ _)

theorem retrainDiverged_stores {s : State} (n : ChannelNo) (h : s.StoresSound) : (s.retrainDiverged n).StoresSound :=
  notifyLessee_stores _ _ (enterQueued_stores n h)

theorem diverge_within (s : State) (n : ChannelNo) : s.Within (s.diverge n) := by
  unfold State.diverge
  dsimp only
  split
  · exact (modChan_within s n _).trans (notifyLessee_within _ _ _)
  · exact retrainDiverged_within s n
  · split
    · exact retrainDiverged_within s n
    · split
      · split
        · exact ((modChan_within s n _).trans (enqueue_within _ _)).trans (notifyLessee_within _ _ _)
        · exact retrainDiverged_within s n
      · exact retrainDiverged_within s n

theorem diverge_stores {s : State} (n : ChannelNo) (h : s.StoresSound) : (s.diverge n).StoresSound := by
  unfold State.diverge
  dsimp only
  split
  · exact notifyLessee_stores _ _ (modChan_stores n _ h)
  · exact retrainDiverged_stores n h
  · split
    · exact retrainDiverged_stores n h
    · split
      · split
        · next room =>
          exact notifyLessee_stores _ _ (enqueue_stores _ (modChan_stores n _ h) room (fun e => nomatch e))
        · exact retrainDiverged_stores n h
      · exact retrainDiverged_stores n h

theorem converge_within (s : State) (n : ChannelNo) : s.Within (s.converge n) :=
  (modChan_within s n _).trans (notifyLessee_within _ _ _)

theorem stall_within (s : State) (n : ChannelNo) : s.Within (s.stall n) :=
  (modChan_within s n _).trans (notifyLessee_within _ _ _)

theorem judgeProving_within (s : State) (n : ChannelNo) : s.Within (s.judgeProving n) := by
  unfold State.judgeProving
  dsimp only
  split
  · exact (modChan_within s n _).trans (notifyLessee_within _ _ _)
  · split
    · exact (enterQueued_within s n).trans (notifyLessee_within _ _ _)
    · exact .refl s

theorem judgeProving_stores {s : State} (n : ChannelNo) (h : s.StoresSound) : (s.judgeProving n).StoresSound := by
  unfold State.judgeProving
  dsimp only
  split
  · exact notifyLessee_stores _ _ (modChan_stores n _ h)
  · split
    · exact notifyLessee_stores _ _ (enterQueued_stores n h)
    · exact h

theorem judgeChannel_within (s : State) (n : ChannelNo) : s.Within (s.judgeChannel n) := by
  unfold State.judgeChannel
  dsimp only
  split
  · split
    · exact converge_within s n
    · split
      · exact stall_within s n
      · exact .refl s
  · split
    · exact converge_within s n
    · exact .refl s
  · split
    · exact judgeProving_within s n
    · split
      · exact diverge_within s n
      · exact .refl s
  all_goals exact .refl s

theorem judgeChannel_stores {s : State} (n : ChannelNo) (h : s.StoresSound) : (s.judgeChannel n).StoresSound := by
  unfold State.judgeChannel
  dsimp only
  split
  · split
    · exact notifyLessee_stores _ _ (modChan_stores n _ h)
    · split
      · exact notifyLessee_stores _ _ (modChan_stores n _ h)
      · exact h
  · split
    · exact notifyLessee_stores _ _ (modChan_stores n _ h)
    · exact h
  · split
    · exact judgeProving_stores n h
    · split
      · exact diverge_stores n h
      · exact h
  all_goals exact h

theorem engineWork_within (s₀ s : State) (n : ChannelNo) : s.Within (s₀.engineWork s n) := by
  unfold State.engineWork
  dsimp only
  have act := (((((modChan_within s n (Channel.record (s₀.chan n).handed)).trans
    (detect_within _ n (s₀.chan n).handed)).trans
    (modChan_within _ n fun c => { c with freeze := (s₀.chan n).freezeReasons s₀.config })).trans
    (adaptChannel_within _ (s₀.chan n) n)).trans
    (modChan_within _ n (Channel.countEpoch (s₀.chan n).guard))).trans (judgeChannel_within _ n)
  split
  · exact .refl s
  · exact modChan_within s n _
  all_goals exact act

theorem engineWork_stores (s₀ : State) {s : State} (n : ChannelNo) (h : s.StoresSound) :
    (s₀.engineWork s n).StoresSound := by
  unfold State.engineWork
  dsimp only
  have act := judgeChannel_stores n (modChan_stores n (Channel.countEpoch (s₀.chan n).guard)
    (adaptChannel_stores (s₀.chan n) n (modChan_stores n
      (fun c => { c with freeze := (s₀.chan n).freezeReasons s₀.config })
      (detect_stores n (s₀.chan n).handed (modChan_stores n (Channel.record (s₀.chan n).handed) h)))))
  split
  · exact h
  · exact modChan_stores n _ h
  all_goals exact act

theorem levelWork_within (s₀ s : State) (n : ChannelNo) : s.Within (s₀.levelWork s n) := by
  unfold State.levelWork
  dsimp only
  split
  · exact .refl s
  · exact .refl s
  · split
    · exact modChan_within s n _
    · exact (modChan_within s n _).trans (notifyLessee_within _ _ _)

theorem levelWork_stores (s₀ : State) {s : State} (n : ChannelNo) (h : s.StoresSound) :
    (s₀.levelWork s n).StoresSound := by
  unfold State.levelWork
  dsimp only
  split
  · exact h
  · exact h
  · split
    · exact h
    · exact notifyLessee_stores _ _ h

/-! ### The epoch end -/

theorem modAllChannels_within (s : State) (f : Channel → Channel) : s.Within (s.modAllChannels f) :=
  within_foldl (α := ChannelNo) _ (fun s n => modChan_within s n f) _ s

theorem modAllPlays_within (s : State) (f : Play → Play) : s.Within (s.modAllPlays f) :=
  within_foldl (α := PlayerNo) _ (fun s k => setPlay_within s k ((s.play k).map f)) _ s

theorem runWork_within (s₀ s : State) (w : EpochWork) : s.Within (s₀.runWork s w) := by
  cases w with
  | engine n => exact engineWork_within s₀ s n
  | level n => exact levelWork_within s₀ s n
  | players => exact modAllPlays_within s _
  | mover =>
    show s.Within (s₀.moverWork s)
    unfold State.moverWork
    split
    · exact .refl s
    · exact advanceHead_within s

theorem runWork_stores (s₀ : State) {s : State} (w : EpochWork) (h : s.StoresSound) : (s₀.runWork s w).StoresSound := by
  cases w with
  | engine n => exact engineWork_stores s₀ n h
  | level n => exact levelWork_stores s₀ n h
  | players => exact modAllPlays_stores _ h
  | mover =>
    show (s₀.moverWork s).StoresSound
    unfold State.moverWork
    split
    · exact h
    · exact advanceHead_stores h

/-- The highway after an epoch end: the frame count at 0, the epoch counter one higher (R36). -/
def Highway.nextEpoch (h : Highway) : Highway := { h with epochFrames := 0, epochCounter := h.epochCounter + 1 }

/-- Whatever the order of the blocks' work, an epoch end touches the highway items as R36 says, and otherwise the calls
and their stores, and notices arrive. -/
theorem epochEndIn_within (works : List EpochWork) (s : State) :
    (s.modHighway Highway.nextEpoch).Within (State.epochEndIn works s) :=
  (((within_foldl s.runWork (fun t w => runWork_within s t w) works (s.modHighway Highway.nextEpoch)).trans
    (modAllChannels_within _ _)).trans (markHead_within _)).trans (closeEvent_within s _)

theorem epochEndIn_stores (works : List EpochWork) {s : State} (h : s.StoresSound) :
    (State.epochEndIn works s).StoresSound :=
  closeEvent_stores s (markHead_stores (modAllChannels_stores _
    (stores_foldl s.runWork (fun _ w i => runWork_stores s w i) works (s.modHighway Highway.nextEpoch) h)))

theorem epochEnd_within (s : State) : (s.spendFree.modHighway Highway.nextEpoch).Within s.epochEnd :=
  epochEndIn_within _ s.spendFree

theorem epochEnd_stores {s : State} (h : s.StoresSound) : s.epochEnd.StoresSound :=
  epochEndIn_stores _ (s := s.spendFree) h

/-! ### What comes before a command (log 6) -/

theorem settle_of_quiet {s : State} (h : s.quiet = true) : s.settle = s := by
  simp only [State.quiet, Bool.and_eq_true, List.all_eq_true, Bool.not_eq_true'] at h
  have e : allPlayers.foldl State.endOfPlay s = s := by
    simp only [allPlayers, List.foldl_cons, List.foldl_nil]
    rw [endOfPlay_of_not_ended s 0 (h.1 0 (by decide)), endOfPlay_of_not_ended s 1 (h.1 1 (by decide)),
      endOfPlay_of_not_ended s 2 (h.1 2 (by decide)), endOfPlay_of_not_ended s 3 (h.1 3 (by decide))]
  simp [State.settle, e, h.2]

/-- What is due is taken within the highway: its epoch items move by an epoch end, or not at all. -/
theorem settle_within (s : State) :
    ∃ u : State, u.Within s.settle ∧ ((u = s ∧ s.epochDue = false)
      ∨ (s.epochDue = true ∧ ∃ v : State, s.Within v ∧ u = v.spendFree.modHighway Highway.nextEpoch)) := by
  have h : s.Within (allPlayers.foldl State.endOfPlay s) := within_foldl _ endOfPlay_within _ s
  have due : (allPlayers.foldl State.endOfPlay s).epochDue = s.epochDue := by
    simp [State.epochDue, h.highway]
  unfold State.settle
  dsimp only
  rw [due]
  cases e : s.epochDue with
  | false => exact ⟨s, by simpa using h, .inl ⟨rfl, rfl⟩⟩
  | true => exact ⟨_, by simpa using epochEnd_within _, .inr ⟨rfl, _, h, rfl⟩⟩

theorem settle_stores {s : State} (h : s.StoresSound) : s.settle.StoresSound := by
  have i : (allPlayers.foldl State.endOfPlay s).StoresSound := stores_foldl _ (fun _ k => endOfPlay_stores k) _ s h
  unfold State.settle
  dsimp only
  split
  · exact epochEnd_stores i
  · exact i

/-- The parts of the state that what is due does not touch. -/
theorem settle_frame (s : State) :
    s.settle.pending = s.pending ∧ s.settle.claim = s.claim ∧ s.settle.config = s.config
      ∧ s.settle.timebase = s.timebase ∧ s.settle.highway.sync = s.highway.sync ∧ s.Heard s.settle := by
  obtain ⟨u, h, ⟨rfl, _⟩ | ⟨_, v, w, rfl⟩⟩ := settle_within s
  · exact ⟨h.pending, h.claim, h.config, h.timebase, by rw [h.highway], h.heard⟩
  · refine ⟨h.pending.trans w.pending, h.claim.trans w.claim, h.config.trans w.config, h.timebase.trans w.timebase, ?_,
      w.heard.trans h.heard⟩
    rw [h.highway]
    have e : v.highway.sync = s.highway.sync := by rw [w.highway]
    exact e

end Sys2Proof.Machine
end

