-- ==== Sys2Proof/Laws/Frames.lean ====
section
/-! SUPPORT. The frames of a link (R173, R174, R176): the check byte makes the sum 0, a laid frame is good, and a good
frame reads back as the command it was laid for. -/

namespace Sys2Proof

theorem byteSum_append (a b : List Byte) : byteSum (a ++ b) = byteSum a + byteSum b := by
  induction a with
  | nil => simp [byteSum]
  | cons x rest ih =>
    have e : byteSum (x :: rest ++ b) = x + byteSum (rest ++ b) := rfl
    have e' : byteSum (x :: rest) = x + byteSum rest := rfl
    rw [e, ih, e', BitVec.add_assoc]

/-- The check byte makes the sum of all bytes 0 modulo 256 (R173, R176). -/
theorem byteSum_check (body : List Byte) : byteSum (body ++ [checkByte body]) = 0 := by
  rw [byteSum_append]
  have e : byteSum [checkByte body] = -byteSum body := by simp [byteSum, checkByte]
  rw [e]
  exact BitVec.add_right_neg _

theorem layFrame_sum (first tag : Byte) (content : List Byte) : byteSum (layFrame first tag content) = 0 :=
  byteSum_check _

theorem layFrame_length (first tag : Byte) (content : List Byte) :
    (layFrame first tag content).length = 4 + content.length := by
  simp [layFrame]; omega

theorem lengthByte {n : Nat} (h : n ≤ 60) : (BitVec.ofNat 8 n).toNat = n := by
  simp only [BitVec.toNat_ofNat]; omega

/-- A frame with at most 60 parameter bytes is good (R174). -/
theorem layFrame_good (code tag : Byte) {params : List Byte} (h : params.length ≤ 60) :
    frameIsBad (layFrame code tag params) false = false := by
  have hl := layFrame_length code tag params
  have h2 : ((layFrame code tag params).getD 2 0).toNat = params.length := lengthByte h
  simp only [frameIsBad, h2, hl, layFrame_sum]
  simp; omega

/-- A frame reads back as its code, tag and parameters give (R173, R177, R180). -/
theorem transferCommand_layFrame (p : Port) {code : Byte} (tag : Byte) {params : List Byte} (c : code ≠ 0)
    (h : params.length ≤ 60) :
    transferCommand p (layFrame code tag params) false
      = some ((tableCommand p code tag params).getD (.unknownCommand p code tag params)) := by
  have good := layFrame_good code tag h
  have e : layFrame code tag params = code :: tag :: BitVec.ofNat 8 params.length ::
      (params ++ [checkByte (code :: tag :: BitVec.ofNat 8 params.length :: params)]) := rfl
  rw [e] at good ⊢
  rw [transferCommand, if_neg c, if_neg (by rw [good]; exact Bool.false_ne_true)]
  simp

end Sys2Proof
end

