-- ==== Sys2Proof/Laws/Highway.lean ====
section
/-! SUPPORT. What a LOCKED frame finds of a channel's player (R63, R64, R94). -/

namespace Sys2Proof.Machine

/-- The player that a channel in PROBING names, with what it holds (R91). -/
def State.playerOf (s : State) (n : ChannelNo) : Option (PlayerNo × Play) :=
  if (s.chan n).state = .training .probing then (s.chan n).player.bind fun k => (s.play k).map (k, ·) else none

/-- A PLAYING player plays one code for the frame, a PAUSED one none (R94). -/
theorem probeOf_eq (s : State) (n : ChannelNo) :
    s.probeOf n = ((s.playerOf n).filter fun x => !x.2.paused).map fun x => (x.1, x.2.playCode) := by
  unfold State.probeOf State.playerOf
  by_cases h : (s.chan n).state = .training .probing
  · rw [if_pos h, if_pos h]
    cases (s.chan n).player with
    | none => rfl
    | some k =>
      cases e : s.play k with
      | none => simp [e]
      | some play => cases p : play.paused <;> simp [Play.playing, e, p, Option.filter]
  · rw [if_neg h, if_neg h]; rfl

theorem foundPaused_eq (s : State) (n : ChannelNo) : s.foundPaused n = (s.playerOf n).any fun x => x.2.paused := by
  unfold State.foundPaused State.playerOf
  by_cases h : (s.chan n).state = .training .probing
  · rw [if_pos h]
    simp only [h, beq_self_eq_true, Bool.true_and]
    cases (s.chan n).player with
    | none => rfl
    | some k => cases e : s.play k <;> simp [e]
  · simp [h]

/-- The frame finds the channel in an adapting state (R63). -/
theorem adaptingNow_eq (s : State) (n : ChannelNo) : s.adaptingNow n =
    (((s.playerOf n).filter fun x => !x.2.paused).isSome || (s.chan n).state == .training .settling
      || (s.chan n).state == .training .stalled || (s.chan n).state == .tracking) := by
  unfold State.adaptingNow State.playerOf
  dsimp only
  split
  · next h =>
    simp only [h, if_true]
    cases (s.chan n).player with
    | none => simp
    | some k =>
      cases e : s.play k with
      | none => simp [e]
      | some play => cases p : play.paused <;> simp [e, p, Option.filter]
  all_goals (next h => simp [h])

end Sys2Proof.Machine
end

