-- ==== Sys2Proof/Laws/Link.lean ====
section
/-! SUPPORT. How a command is taken and answered: one lemma per step of the acceptance (R10, R177), and what the answer
leaves at the port. -/

namespace Sys2Proof.Machine

/-- A channel number as a parameter byte. -/
theorem dec1_channel (n : ChannelNo) : dec1 (BitVec.ofNat 8 n.val) = n.val := by
  have := n.isLt
  simp only [dec1, BitVec.toNat_ofNat]
  omega

@[simp] theorem channelOf_val (n : ChannelNo) : channelOf n.val = some n := by
  simp [channelOf, n.isLt]

theorem channelOf_of_le {n : Nat} (h : 48 ≤ n) : channelOf n = none := by
  simp [channelOf]; omega

/-! ### Acceptance -/

theorem beginCommand_of_quiet {s : State} (h : s.quiet = true) (p : Port) (params : List Byte) :
    s.beginCommand p params = s.driveLink p (commandEcho params) := by
  rw [State.beginCommand, settle_of_quiet h]

/-- Driving the link does not change whether a port is joined. -/
theorem driveLink_joined (s : State) (p q : Port) (bytes : List Byte) :
    ((s.driveLink p bytes).port q).joined = (s.port q).joined := by
  unfold State.driveLink
  by_cases e : p = q
  · subst e; simp [PortRecord.joined]
  · rw [port_modPort_of_ne _ _ e]

theorem takeCommand_of_joined {s : State} {p : Port} (h : s.quiet = true) (j : (s.port p).joined = true) (tag : Byte)
    (params : List Byte) (act : State → Reply) :
    takeCommand p tag params act s = (act (s.driveLink p (commandEcho params))).finish p tag := by
  simp [takeCommand, beginCommand_of_quiet h, driveLink_joined, j]

theorem takeCommand_of_absent {s : State} {p : Port} (h : s.quiet = true) (j : (s.port p).joined = false) (tag : Byte)
    (params : List Byte) (act : State → Reply) :
    takeCommand p tag params act s = s.answeredAbsent p params ⟨.notJoined, tag, []⟩ := by
  simp only [takeCommand, beginCommand_of_quiet h, driveLink_joined, j, Bool.false_eq_true, if_false]
  simp [State.hold, State.driveLink, State.answeredAbsent]

theorem withParams_some {α : Type} {parse : List Byte → Option α} {params : List Byte} {a : α}
    (h : parse params = some a) (act : α → State → Reply) (s : State) : withParams parse params act s = act a s := by
  simp [withParams, h]

theorem withParams_none {α : Type} {parse : List Byte → Option α} {params : List Byte}
    (h : parse params = none) (act : α → State → Reply) (s : State) :
    withParams parse params act s = s.refuse .badParam := by
  simp [withParams, h]

@[simp] theorem withChannel_val (n : ChannelNo) (act : ChannelNo → State → Reply) (s : State) :
    withChannel n.val act s = act n s := by
  simp [withChannel]

theorem withLessee_of_lessee {s : State} {p : Port} {n : ChannelNo} (h : (s.chan n).lessee = some p)
    (act : ChannelNo → State → Reply) : withLessee p n.val act s = act n s := by
  simp [withLessee, h]

theorem withLessee_of_none {s : State} {n : ChannelNo} (h : (s.chan n).lessee = none) (p : Port)
    (act : ChannelNo → State → Reply) : withLessee p n.val act s = s.refuse .wrongState := by
  simp [withLessee, h]

theorem withLessee_of_other {s : State} {p q : Port} {n : ChannelNo} (h : (s.chan n).lessee = some q) (ne : q ≠ p)
    (act : ChannelNo → State → Reply) : withLessee p n.val act s = s.refuse .notLessee := by
  simp [withLessee, h, ne]

/-! ### Answers -/

theorem renew_of_joined {s : State} {p : Port} (j : (s.port p).joined = true) :
    s.renew p = s.modPort p fun r => { r with link := .live, lease := some s.config.leasePeriod } := by
  simp [State.renew, j]

theorem finish_of_joined {r : Reply} {p : Port} (j : (r.state.port p).joined = true) (tag : Byte) :
    r.finish p tag = r.state.modPort p fun q =>
      { q with link := .live, lease := some r.state.config.leasePeriod, held := some ⟨r.status, tag, r.payload⟩ } := by
  simp [Reply.finish, renew_of_joined j, State.hold]

/-- A command whose block leaves the ports as the transfer found them, and whatever else of the state it changes: the
answer is that state with the port answered. -/
theorem finish_driveLink {s : State} {p : Port} (j : (s.port p).joined = true) (tag : Byte) (params : List Byte)
    (status : Status) (payload : List Byte) :
    Reply.finish ⟨s.driveLink p (commandEcho params), status, payload⟩ p tag
      = s.answered p params ⟨status, tag, payload⟩ := by
  rw [finish_of_joined (by simpa [driveLink_joined] using j)]
  simp [State.driveLink, State.answered]

/-- What an answered command leaves at its port and at the others. -/
theorem answered_port (s : State) (p q : Port) (params : List Byte) (r : Response) :
    (s.answered p params r).port q = if p = q then
      { s.port q with link := .live, lease := some s.config.leasePeriod, held := some r, linkOut := commandEcho params }
      else s.port q := by
  rw [State.answered, port_modPort]

/-- The held response and the renewal that end a command taken from a joined port, whatever its block did, if the port
is still joined (R137, R175). -/
theorem finish_port {r : Reply} {p : Port} (j : (r.state.port p).joined = true) (tag : Byte) :
    ((r.finish p tag).port p) = { r.state.port p with
      link := .live, lease := some r.state.config.leasePeriod, held := some ⟨r.status, tag, r.payload⟩ } := by
  rw [finish_of_joined j, port_modPort_self]

theorem finish_port_of_ne (r : Reply) {p q : Port} (h : p ≠ q) (tag : Byte) :
    (r.finish p tag).port q = r.state.port q := by
  simp only [Reply.finish, State.hold, port_modPort_of_ne _ _ h]
  unfold State.renew
  split
  · rw [port_modPort_of_ne _ _ h]
  · rfl

/-- Beyond the ports, the end of a command changes nothing. -/
theorem finish_frame (r : Reply) (p : Port) (tag : Byte) :
    (r.finish p tag).pending = r.state.pending ∧ (r.finish p tag).freeIndex = r.state.freeIndex
      ∧ (r.finish p tag).claim = r.state.claim ∧ (r.finish p tag).config = r.state.config
      ∧ (r.finish p tag).channels = r.state.channels ∧ (r.finish p tag).pool = r.state.pool
      ∧ (r.finish p tag).players = r.state.players ∧ (r.finish p tag).probeQueue = r.state.probeQueue
      ∧ (r.finish p tag).mover = r.state.mover ∧ (r.finish p tag).cache = r.state.cache
      ∧ (r.finish p tag).parkCounter = r.state.parkCounter ∧ (r.finish p tag).highway = r.state.highway
      ∧ (r.finish p tag).timebase = r.state.timebase := by
  unfold Reply.finish State.renew State.hold
  split <;> simp

theorem finish_chan (r : Reply) (p : Port) (tag : Byte) (n : ChannelNo) :
    (r.finish p tag).chan n = r.state.chan n := by
  unfold State.chan
  rw [(finish_frame r p tag).2.2.2.2.1]

/-! ### LINK DO -/

@[simp] theorem driveLink_pending (s : State) (p : Port) (b : List Byte) : (s.driveLink p b).pending = s.pending := rfl
@[simp] theorem driveLink_freeIndex (s : State) (p : Port) (b : List Byte) : (s.driveLink p b).freeIndex = s.freeIndex := rfl
@[simp] theorem driveLink_claim (s : State) (p : Port) (b : List Byte) : (s.driveLink p b).claim = s.claim := rfl
@[simp] theorem driveLink_config (s : State) (p : Port) (b : List Byte) : (s.driveLink p b).config = s.config := rfl
@[simp] theorem driveLink_channels (s : State) (p : Port) (b : List Byte) : (s.driveLink p b).channels = s.channels := rfl
@[simp] theorem driveLink_pool (s : State) (p : Port) (b : List Byte) : (s.driveLink p b).pool = s.pool := rfl
@[simp] theorem driveLink_players (s : State) (p : Port) (b : List Byte) : (s.driveLink p b).players = s.players := rfl
@[simp] theorem driveLink_probeQueue (s : State) (p : Port) (b : List Byte) : (s.driveLink p b).probeQueue = s.probeQueue := rfl
@[simp] theorem driveLink_mover (s : State) (p : Port) (b : List Byte) : (s.driveLink p b).mover = s.mover := rfl
@[simp] theorem driveLink_cache (s : State) (p : Port) (b : List Byte) : (s.driveLink p b).cache = s.cache := rfl
@[simp] theorem driveLink_parkCounter (s : State) (p : Port) (b : List Byte) : (s.driveLink p b).parkCounter = s.parkCounter := rfl
@[simp] theorem driveLink_highway (s : State) (p : Port) (b : List Byte) : (s.driveLink p b).highway = s.highway := rfl
@[simp] theorem driveLink_timebase (s : State) (p : Port) (b : List Byte) : (s.driveLink p b).timebase = s.timebase := rfl
@[simp] theorem driveLink_chan (s : State) (p : Port) (b : List Byte) (n : ChannelNo) : (s.driveLink p b).chan n = s.chan n := rfl
@[simp] theorem driveLink_play (s : State) (p : Port) (b : List Byte) (n : PlayerNo) : (s.driveLink p b).play n = s.play n := rfl
@[simp] theorem driveLink_port_link (s : State) (p : Port) (b : List Byte) (q : Port) : ((s.driveLink p b).port q).link = (s.port q).link := by
  simp only [State.driveLink, port_modPort]; split <;> rfl
@[simp] theorem driveLink_port_lease (s : State) (p : Port) (b : List Byte) (q : Port) : ((s.driveLink p b).port q).lease = (s.port q).lease := by
  simp only [State.driveLink, port_modPort]; split <;> rfl
@[simp] theorem driveLink_port_queue (s : State) (p : Port) (b : List Byte) (q : Port) : ((s.driveLink p b).port q).queue = (s.port q).queue := by
  simp only [State.driveLink, port_modPort]; split <;> rfl
@[simp] theorem driveLink_port_mask (s : State) (p : Port) (b : List Byte) (q : Port) : ((s.driveLink p b).port q).mask = (s.port q).mask := by
  simp only [State.driveLink, port_modPort]; split <;> rfl
@[simp] theorem driveLink_port_overflow (s : State) (p : Port) (b : List Byte) (q : Port) : ((s.driveLink p b).port q).overflow = (s.port q).overflow := by
  simp only [State.driveLink, port_modPort]; split <;> rfl
@[simp] theorem driveLink_port_joined (s : State) (p : Port) (b : List Byte) (q : Port) : ((s.driveLink p b).port q).joined = (s.port q).joined := driveLink_joined s p q b
theorem modChan_driveLink (s : State) (p : Port) (b : List Byte) (n : ChannelNo) (f : Channel → Channel) :
    (s.driveLink p b).modChan n f = (s.modChan n f).driveLink p b := rfl
theorem setPlay_driveLink (s : State) (p : Port) (b : List Byte) (k : PlayerNo) (x : Option Play) :
    (s.driveLink p b).setPlay k x = (s.setPlay k x).driveLink p b := rfl


/-! ### Commands that a joined port sends -/

/-- A command whose block leaves the state `u`, the ports as they stand in it: the answer is `u` with the port answered. -/
theorem takeCommand_answered {s : State} {p : Port} (h : s.Ready p) (tag : Byte) (params : List Byte)
    (act : State → Reply) {u : State} {status : Status} {payload : List Byte}
    (e : act (s.driveLink p (commandEcho params)) = ⟨u.driveLink p (commandEcho params), status, payload⟩)
    (j : (u.port p).joined = true) : takeCommand p tag params act s = u.answered p params ⟨status, tag, payload⟩ := by
  rw [takeCommand_of_joined h.quiet h.joined, e, finish_driveLink j]

/-- A refused command changes nothing but the answered port. -/
theorem takeCommand_refused {s : State} {p : Port} (h : s.Ready p) (tag : Byte) (params : List Byte)
    (act : State → Reply) {status : Status}
    (e : act (s.driveLink p (commandEcho params)) = (s.driveLink p (commandEcho params)).refuse status) :
    takeCommand p tag params act s = s.answered p params ⟨status, tag, []⟩ :=
  takeCommand_answered h tag params act e h.joined

theorem parseByte_chan (n : ChannelNo) : parseByte [chanByte n] = some n.val := by
  simp [parseByte, chanByte, dec1_channel]
@[simp] theorem dec1_chanByte (n : ChannelNo) : dec1 (chanByte n) = n.val := dec1_channel n

/-- Notices that arrive touch the queue, the overflow flag and ATTN, and depend on no more than these and the mask. -/
theorem arriveAll_update (ns : List Notice) (r : PortRecord) (link : LinkState) (lease : Option Nat)
    (held : Option Response) (out : List Byte) :
    { ns.foldl PortRecord.arrive r with link := link, lease := lease, held := held, linkOut := out }
      = ns.foldl PortRecord.arrive { r with link := link, lease := lease, held := held, linkOut := out } := by
  induction ns generalizing r with
  | nil => rfl
  | cons n rest ih =>
    rw [List.foldl_cons, List.foldl_cons, ih]
    congr 1
    unfold PortRecord.arrive
    simp only [PortRecord.judgeAttn]
    split
    · rfl
    · split <;> rfl

/-- A command whose block changes calls and stores and raises notices: beside the answered port, only that. -/
theorem takeCommand_within {s : State} {p : Port} (h : s.Ready p) (tag : Byte) (params : List Byte)
    (act : State → Reply) {u : State} {status : Status} {payload : List Byte}
    (e : act (s.driveLink p (commandEcho params)) = ⟨u, status, payload⟩)
    (w : (s.driveLink p (commandEcho params)).Within u) :
    (s.answered p params ⟨status, tag, payload⟩).Within (takeCommand p tag params act s) := by
  have j : (u.port p).joined = true := by rw [w.heard.joined p, driveLink_joined]; exact h.joined
  rw [takeCommand_of_joined h.quiet h.joined, e]
  have f := finish_frame ⟨u, status, payload⟩ p tag
  refine ⟨f.1.trans w.pending, f.2.1.trans w.freeIndex, f.2.2.1.trans w.claim, f.2.2.2.1.trans w.config,
    f.2.2.2.2.2.2.2.2.2.2.2.1.trans w.highway, f.2.2.2.2.2.2.2.2.2.2.2.2.trans w.timebase, fun q => ?_⟩
  obtain ⟨ns, hn⟩ := w.heard q
  refine ⟨ns, ?_⟩
  by_cases c : p = q
  · subst c
    have a : ((s.answered p params ⟨status, tag, payload⟩).port p).joined = true := by
      rw [answered_port]; simp [PortRecord.joined]
    rw [driveLink_joined, h.joined, if_pos rfl] at hn
    rw [a, if_pos rfl, finish_port j, answered_port, if_pos rfl, hn]
    rw [show (s.driveLink p (commandEcho params)).port p = { s.port p with linkOut := commandEcho params } by
      rw [State.driveLink, port_modPort_self]]
    rw [show u.config = s.config from w.config]
    rw [← arriveAll_update ns (s.port p) .live (some s.config.leasePeriod) (some ⟨status, tag, payload⟩)
      (commandEcho params)]
    rw [← arriveAll_update ns (s.port p) (s.port p).link (s.port p).lease (s.port p).held (commandEcho params)]
  · rw [finish_port_of_ne _ c, answered_port, if_neg c, hn]
    rw [show (s.driveLink p (commandEcho params)).port q = s.port q by rw [State.driveLink, port_modPort_of_ne _ _ c]]

/-- What a command taken from a joined port leaves of the calls and the stores is what its block leaves. -/
theorem takeCommand_frame {s : State} {p : Port} (h : s.Ready p) (tag : Byte) (params : List Byte)
    (act : State → Reply) {r : Reply} (e : act (s.driveLink p (commandEcho params)) = r) :
    (takeCommand p tag params act s).channels = r.state.channels
      ∧ (takeCommand p tag params act s).pool = r.state.pool
      ∧ (takeCommand p tag params act s).players = r.state.players
      ∧ (takeCommand p tag params act s).probeQueue = r.state.probeQueue
      ∧ (takeCommand p tag params act s).mover = r.state.mover
      ∧ (takeCommand p tag params act s).cache = r.state.cache
      ∧ (takeCommand p tag params act s).parkCounter = r.state.parkCounter := by
  rw [takeCommand_of_joined h.quiet h.joined, e]
  have f := finish_frame r p tag
  exact ⟨f.2.2.2.2.1, f.2.2.2.2.2.1, f.2.2.2.2.2.2.1, f.2.2.2.2.2.2.2.1, f.2.2.2.2.2.2.2.2.1, f.2.2.2.2.2.2.2.2.2.1,
    f.2.2.2.2.2.2.2.2.2.2.1⟩

end Sys2Proof.Machine
end

