-- ==== Sys2Proof/Laws/Orders.lean ====
section
/-! SUPPORT. What the ends of orders leave of each channel, field by field (R114, R116, R117), and what the comparison of
the pool at the end of an event leaves (R48, R49). -/

namespace Sys2Proof.Machine

/-! ### Pins -/

theorem pairNames_nodup (names : List (ChannelNo × Nat)) (h : names.length ≤ 2) :
    (match names with
      | [a, b] => if a = b then [a] else [a, b]
      | other => other).Nodup := by
  match names with
  | [] => exact List.nodup_nil
  | [a] => exact List.nodup_singleton a
  | [a, b] =>
    show (if a = b then [a] else [a, b]).Nodup
    split
    · exact List.nodup_singleton a
    · next ne => simp [ne]
  | _ :: _ :: _ :: _ => simp at h

/-- An order names each record once (R53). -/
theorem snapshots_nodup (w : Work) : w.snapshots.Nodup :=
  pairNames_nodup _ (le_trans (List.length_filterMap_le _ _) (by cases w <;> simp [Work.regions]))

@[simp] theorem snapshots_capture (n : ChannelNo) (id : Nat) : (Work.capture n id).snapshots = [(n, id)] := rfl
@[simp] theorem snapshots_restore (n : ChannelNo) (id : Nat) : (Work.restore n id).snapshots = [(n, id)] := rfl

/-- A change made to each record of a list of names, each once, is made to the records it names. -/
theorem modSnapshots_chan (f : Snapshot → Snapshot) (hid : ∀ r, (f r).id = r.id) (names : List (ChannelNo × Nat))
    (nodup : names.Nodup) (s : State) (m : ChannelNo) :
    (names.foldl (fun s r => s.modChan r.1 fun c => c.modSnapshot r.2 f) s).chan m
      = { s.chan m with ring := (s.chan m).ring.map fun r => if (m, r.id) ∈ names then f r else r } := by
  induction names generalizing s with
  | nil => simp
  | cons x rest ih =>
    obtain ⟨notin, nodup'⟩ := List.nodup_cons.1 nodup
    rw [List.foldl_cons, ih nodup', chan_modChan]
    split
    · next e =>
      subst e
      simp only [Channel.modSnapshot, List.map_map]
      congr 1
      refine List.map_congr_left fun r _ => ?_
      simp only [Function.comp_apply]
      by_cases h : r.id = x.2
      · rw [if_pos h, hid, if_neg (by rw [h]; exact notin), if_pos (by rw [h]; exact List.mem_cons_self)]
      · rw [if_neg h]
        by_cases k : (x.1, r.id) ∈ rest
        · rw [if_pos k, if_pos (List.mem_cons_of_mem _ k)]
        · rw [if_neg k, if_neg]
          rw [List.mem_cons, not_or]
          exact ⟨fun e => h (congrArg Prod.snd e), k⟩
    · next e =>
      dsimp only
      congr 1
      refine List.map_congr_left fun r _ => ?_
      by_cases k : (m, r.id) ∈ rest
      · rw [if_pos k, if_pos (List.mem_cons_of_mem _ k)]
      · rw [if_neg k, if_neg]
        rw [List.mem_cons, not_or]
        exact ⟨fun e' => e (congrArg Prod.fst e').symm, k⟩

/-- Each record that an order names loses a pin, and no other changes (R53). -/
theorem unpin_chan (s : State) (w : Work) (m : ChannelNo) :
    (s.unpin w).chan m = { s.chan m with
      ring := (s.chan m).ring.map fun r => if (m, r.id) ∈ w.snapshots then { r with pins := r.pins - 1 } else r } :=
  modSnapshots_chan (fun r => { r with pins := r.pins - 1 }) (fun _ => rfl) w.snapshots (snapshots_nodup w) s m

/-- Each record that an order names gains a pin, and no other changes (R53). -/
theorem pin_chan (s : State) (w : Work) (m : ChannelNo) :
    (s.pin w).chan m = { s.chan m with
      ring := (s.chan m).ring.map fun r => if (m, r.id) ∈ w.snapshots then { r with pins := r.pins + 1 } else r } :=
  modSnapshots_chan (fun r => { r with pins := r.pins + 1 }) (fun _ => rfl) w.snapshots (snapshots_nodup w) s m

/-! ### The end of one order before its completion (R117) -/

theorem dropRollback_chan (s : State) (o : Order) (m : ChannelNo) :
    (s.dropRollback o).chan m = { s.chan m with
      rollback := if o.rollback = true ∧ m = o.work.channel then none else (s.chan m).rollback } := by
  unfold State.dropRollback
  by_cases h : o.rollback = true
  · rw [if_pos h, chan_modChan]
    by_cases e : o.work.channel = m
    · subst e; simp [h]
    · rw [if_neg e, if_neg fun x => e x.2.symm]
  · rw [if_neg h, if_neg fun x => h x.1]

/-- The records that an order named when it ends early: a CAPTURE's leaves, others lose a pin (R117 steps 1 and 2). -/
theorem giveUp_chan (s : State) (w : Work) (m : ChannelNo) :
    (s.giveUp w).chan m = { s.chan m with
      ring := match w with
        | .capture n id => if m = n then (s.chan m).ring.filter fun r => r.id ≠ id else (s.chan m).ring
        | w => (s.chan m).ring.map fun r => if (m, r.id) ∈ w.snapshots then { r with pins := r.pins - 1 } else r } := by
  cases w with
  | capture n id =>
    show (s.modChan n fun c => c.dropSnapshot id).chan m = _
    rw [chan_modChan]
    by_cases e : n = m
    · subst e; rw [if_pos rfl]; simp [Channel.dropSnapshot]
    · rw [if_neg e]
      simp only [if_neg (Ne.symm e)]
  | _ => exact unpin_chan s _ m

theorem endEarly_chan (how : OrderEnd) (s : State) (o : Order) (m : ChannelNo) :
    (State.endEarly how s o).chan m = { s.chan m with
      ring := match o.work with
        | .capture n id => if m = n then (s.chan m).ring.filter fun r => r.id ≠ id else (s.chan m).ring
        | w => (s.chan m).ring.map fun r => if (m, r.id) ∈ w.snapshots then { r with pins := r.pins - 1 } else r
      rollback := if o.rollback = true ∧ m = o.work.channel then none else (s.chan m).rollback } := by
  rw [State.endEarly, chan_notify, dropRollback_chan, giveUp_chan]

/-- The ring that the early end of one order leaves, in the words of `Channel.afterAborts`. -/
theorem endedRing_eq (w : Work) (m : ChannelNo) (ring : List Snapshot) :
    (match w with
      | .capture n id => if m = n then ring.filter fun r => r.id ≠ id else ring
      | w => ring.map fun r => if (m, r.id) ∈ w.snapshots then { r with pins := r.pins - 1 } else r)
      = (ring.filter fun r => !(w == .capture m r.id)).map fun r =>
        { r with pins := r.pins - if (m, r.id) ∈ w.snapshots then 1 else 0 } := by
  have other : (∀ n id, w ≠ .capture n id) →
      (ring.map fun r => if (m, r.id) ∈ w.snapshots then { r with pins := r.pins - 1 } else r)
        = (ring.filter fun r => !(w == .capture m r.id)).map fun r =>
          { r with pins := r.pins - if (m, r.id) ∈ w.snapshots then 1 else 0 } := fun h => by
    rw [List.filter_eq_self.2 fun r _ => by simp [h m r.id]]
    refine List.map_congr_left fun r _ => ?_
    by_cases k : (m, r.id) ∈ w.snapshots <;> simp [k]
  cases w with
  | capture n id =>
    by_cases e : m = n
    · subst e
      rw [List.map_congr_left (g := fun r => r) fun r hr => by
        have ne : id ≠ r.id := by simpa using (List.mem_filter.1 hr).2
        simp [Ne.symm ne]]
      rw [List.map_id']
      show (if m = m then ring.filter fun r => decide (r.id ≠ id) else ring) = _
      rw [if_pos rfl]
      refine List.filter_congr fun r _ => ?_
      by_cases k : r.id = id
      · simp [k]
      · simp [k, Ne.symm k]
    · rw [List.filter_eq_self.2 fun r _ => by simp [Ne.symm e],
        List.map_congr_left (g := fun r => r) fun r _ => by simp [e]]
      simp [e]
  | copy a b k => exact other (by simp)
  | fill a v => exact other (by simp)
  | expand a k f b t => exact other (by simp)
  | blend a b k => exact other (by simp)
  | restore n id => exact other (by simp)

/-- The early end of one order, in the words of the statements. -/
theorem endEarly_afterAborts (how : OrderEnd) (s : State) (o : Order) (m : ChannelNo) :
    (State.endEarly how s o).chan m = (s.chan m).afterAborts [o] m := by
  rw [endEarly_chan, endedRing_eq]
  simp only [Channel.afterAborts, List.any_cons, List.any_nil, Bool.or_false, List.countP_cons, List.countP_nil,
    Nat.zero_add, decide_eq_true_eq]
  congr 1
  by_cases h : o.rollback = true <;> by_cases e : m = o.work.channel
  · simp [h, e]
  · simp [h, e, Ne.symm e]
  · simp [h]
  · simp [h]

theorem afterAborts_nil (c : Channel) (n : ChannelNo) : c.afterAborts [] n = c := by
  simp [Channel.afterAborts]

theorem afterAborts_append (c : Channel) (n : ChannelNo) (a b : List Order) :
    (c.afterAborts a n).afterAborts b n = c.afterAborts (a ++ b) n := by
  simp only [Channel.afterAborts, List.filter_map, List.map_map, List.filter_filter, List.any_append,
    List.countP_append]
  congr 1
  · congr 1
    · funext r
      simp [Nat.sub_sub]
    · refine List.filter_congr fun r _ => ?_
      simp [Bool.and_comm]
  · cases a.any fun o => o.rollback && o.work.channel == n <;> simp

theorem endEarlyAll_chan (how : OrderEnd) (orders : List Order) (s : State) (m : ChannelNo) :
    (orders.foldl (State.endEarly how) s).chan m = (s.chan m).afterAborts orders m := by
  induction orders generalizing s with
  | nil => exact (afterAborts_nil _ _).symm
  | cons o rest ih => rw [List.foldl_cons, ih, endEarly_afterAborts, afterAborts_append]; rfl

/-! ### The head of the queue (R65, R114) -/

theorem markRegions_chan (items : List Region) (s : State) (m : ChannelNo) :
    (items.foldl (fun s r =>
      if r.copy = .live then s.modChan r.channel fun c => { c with marks := { c.marks with mover := true } } else s)
        s).chan m
      = { s.chan m with marks := if (items.any fun r => r.channel == m && r.copy == .live) = true then
          { (s.chan m).marks with mover := true } else (s.chan m).marks } := by
  induction items generalizing s with
  | nil => simp
  | cons r rest ih =>
    rw [List.foldl_cons, ih]
    by_cases h : r.copy = .live
    · rw [if_pos h, chan_modChan]
      by_cases e : r.channel = m
      · subst e; simp [h]
      · simp [h, e]
    · rw [if_neg h]
      simp [h]

/-- The head of the queue marks the channels whose live taps it reads or writes, and touches nothing else of a channel. -/
theorem markHead_chan (s : State) (m : ChannelNo) :
    s.markHead.chan m = { s.chan m with
      marks := if s.highway.sync = .locked ∧ s.mover.head?.any (fun o => o.work.touchesLive m) = true then
        { (s.chan m).marks with mover := true } else (s.chan m).marks } := by
  unfold State.markHead
  split
  · next e => simp [e]
  · next o rest e =>
    split
    · next l =>
      rw [markRegions_chan]
      simp [e, l, Work.touchesLive]
    · next l => simp [l]

/-- The orders named are aborted (R119): what is left of each channel. -/
theorem abortOrders_chan (s : State) (which : Order → Bool) (m : ChannelNo) :
    (s.chan m).OrdersEnded (s.mover.filter which) m ((s.abortOrders which).chan m) := by
  have h := markHead_chan ((s.mover.filter which).foldl (State.endEarly .aborted)
    (s.setMover (s.mover.filter fun o => !which o))) m
  rw [endEarlyAll_chan] at h
  exact ⟨_, h⟩

theorem unpin_pool (s : State) (w : Work) : (s.unpin w).pool = s.pool := by
  unfold State.unpin
  generalize w.snapshots = items
  induction items generalizing s with
  | nil => rfl
  | cons r rest ih => rw [List.foldl_cons, ih]; rfl

theorem markHead_pool (s : State) : s.markHead.pool = s.pool := by
  have fold : ∀ (items : List Region) (u : State), (items.foldl (fun s r =>
      if r.copy = .live then s.modChan r.channel fun c => { c with marks := { c.marks with mover := true } } else s)
        u).pool = u.pool := fun items => by
    induction items with
    | nil => exact fun _ => rfl
    | cons r rest ih =>
      intro u
      rw [List.foldl_cons, ih]
      split <;> rfl
  unfold State.markHead
  split
  · rfl
  · split
    · exact fold _ s
    · rfl

theorem dropRollback_pool (s : State) (o : Order) : (s.dropRollback o).pool = s.pool := by
  unfold State.dropRollback
  split <;> rfl

/-- The early end of an order leaves the flag to the comparison at the event's end (R48; log 31). -/
theorem endEarly_flag (how : OrderEnd) (s : State) (o : Order) :
    (State.endEarly how s o).pool.flag = s.pool.flag := by
  have give : (s.giveUp o.work).pool.flag = s.pool.flag := by
    unfold State.giveUp
    split
    · rfl
    all_goals rw [unpin_pool]
  rw [State.endEarly, notify_pool, dropRollback_pool, give]

theorem abortOrders_flag (s : State) (which : Order → Bool) : (s.abortOrders which).pool.flag = s.pool.flag := by
  have fold : ∀ (orders : List Order) (u : State),
      (orders.foldl (State.endEarly .aborted) u).pool.flag = u.pool.flag := fun orders => by
    induction orders with
    | nil => exact fun _ => rfl
    | cons o rest ih => intro u; rw [List.foldl_cons, ih, endEarly_flag]
  rw [State.abortOrders, markHead_pool, fold]
  rfl

/-! ### The completion of an order (R116) -/

theorem finishWork_chan (s : State) (w : Work) (m : ChannelNo) :
    (s.finishWork w).chan m = { s.chan m with
      ring := (s.chan m).ring.map fun r =>
        if w = .capture m r.id then { r with window := (s.chan m).window, ready := true } else r
      window := match w with
        | .restore n id => if m = n then (((s.chan m).ring.find? fun r => r.id == id).map Snapshot.window).getD
            (s.chan m).window else (s.chan m).window
        | _ => (s.chan m).window } := by
  have same : ∀ ring : List Snapshot, (∀ n id, w ≠ .capture n id) →
      (ring.map fun r => if w = .capture m r.id then { r with window := (s.chan m).window, ready := true } else r) = ring :=
    fun ring h => by simp [h]
  cases hw : w with
  | capture n id =>
    show (s.modChan n _).chan m = _
    rw [chan_modChan]
    by_cases e : n = m
    · subst e
      simp [Channel.modSnapshot, eq_comm]
    · simp [e]
  | restore n id =>
    rw [← hw, same _ (by simp [hw])]
    show (s.finishWork w).chan m = _
    rw [hw]
    show (s.modChan n _).chan m = _
    rw [chan_modChan]
    by_cases e : n = m
    · subst e; simp [Channel.snapshot?]
    · simp only [if_neg e, if_neg (Ne.symm e)]
  | copy a b k => rw [← hw, same _ (by simp [hw])]; rw [hw]; rfl
  | fill a v => rw [← hw, same _ (by simp [hw])]; rw [hw]; rfl
  | expand a k f b t => rw [← hw, same _ (by simp [hw])]; rw [hw]; rfl
  | blend a b k => rw [← hw, same _ (by simp [hw])]; rw [hw]; rfl

theorem setGuard_chan (s : State) (o : Order) (m : ChannelNo) :
    (s.setGuard o).chan m = { s.chan m with
      guard := if o.rollback = true ∧ m = o.work.channel ∧ (s.chan m).rollback = some true ∧ (s.chan m).state = .tracking
        then some 100 else (s.chan m).guard } := by
  unfold State.setGuard
  dsimp only
  by_cases h : o.rollback = true ∧ (s.chan o.work.channel).rollback = some true
      ∧ (s.chan o.work.channel).state = .tracking
  · rw [if_pos h, chan_modChan]
    by_cases e : o.work.channel = m
    · subst e
      rw [if_pos rfl, if_pos ⟨h.1, rfl, h.2⟩]
    · rw [if_neg e, if_neg fun x => e x.2.1.symm]
  · rw [if_neg h, if_neg fun x => h (by obtain ⟨a, rfl, b⟩ := x; exact ⟨a, b⟩)]

/-- The completion of the head order (R116): what is left of each channel. -/
theorem completeHead_chan {s : State} {o : Order} {rest : List Order} (h : s.mover = o :: rest) (m : ChannelNo) :
    let c := s.chan m
    let filled (r : Snapshot) : Snapshot :=
      if o.work = .capture m r.id then { r with window := c.window, ready := true } else r
    s.completeHead.chan m = { c with
      ring := c.ring.map fun r =>
        if (m, r.id) ∈ o.work.snapshots then { filled r with pins := r.pins - 1 } else filled r
      window := match o.work with
        | .restore n id =>
          if m = n then ((c.ring.find? fun r => r.id == id).map Snapshot.window).getD c.window else c.window
        | _ => c.window
      guard := if o.rollback = true ∧ m = o.work.channel ∧ c.rollback = some true ∧ c.state = .tracking then some 100
        else c.guard
      rollback := if o.rollback = true ∧ m = o.work.channel then none else c.rollback
      marks := if s.highway.sync = .locked ∧ rest.head?.any (fun x => x.work.touchesLive m) = true then
        { c.marks with mover := true } else c.marks } := by
  intro c filled
  have inside : ∀ u : State, (u.endComplete o).mover = u.mover ∧ (u.endComplete o).highway = u.highway := fun u => by
    refine ⟨?_, (endComplete_within u o).highway⟩
    have finish : (u.finishWork o.work).mover = u.mover := by unfold State.finishWork; split <;> rfl
    have guard : ∀ v : State, (v.setGuard o).mover = v.mover := fun v => by
      unfold State.setGuard; dsimp only; split <;> rfl
    rw [State.endComplete, notify_mover, dropRollback_mover, guard, unpin_mover, finish]
  unfold State.completeHead
  rw [h]
  dsimp only
  rw [markHead_chan, (inside _).1, (inside _).2, State.endComplete, chan_notify, dropRollback_chan, setGuard_chan,
    unpin_chan, finishWork_chan]
  simp only [List.map_map]
  have ring : ∀ r : Snapshot, (if (m, (filled r).id) ∈ o.work.snapshots then
      { filled r with pins := (filled r).pins - 1 } else filled r)
      = if (m, r.id) ∈ o.work.snapshots then { filled r with pins := r.pins - 1 } else filled r := fun r => by
    have e : (filled r).id = r.id ∧ (filled r).pins = r.pins := by
      by_cases k : o.work = .capture m r.id <;> simp [filled, k]
    rw [e.1, e.2]
  congr 1
  exact List.map_congr_left fun r _ => ring r

/-- The cancel of one order (R117): what is left of each channel. -/
theorem cancelOrder_chan (s : State) (place : Nat) (o : Order) (m : ChannelNo) :
    (s.cancelOrder place o).chan m = { s.chan m with
      ring := match o.work with
        | .capture n id => if m = n then (s.chan m).ring.filter fun r => r.id ≠ id else (s.chan m).ring
        | w => (s.chan m).ring.map fun r => if (m, r.id) ∈ w.snapshots then { r with pins := r.pins - 1 } else r
      rollback := if o.rollback = true ∧ m = o.work.channel then none else (s.chan m).rollback
      marks := if s.highway.sync = .locked
          ∧ (s.mover.eraseIdx place).head?.any (fun x => x.work.touchesLive m) = true then
        { (s.chan m).marks with mover := true } else (s.chan m).marks } := by
  rw [State.cancelOrder, markHead_chan, endEarly_chan, endEarly_mover, (endEarly_within _ _ _).highway]
  rfl

/-! ### The comparison of the pool (R48, R49) -/

theorem comparePool_judged (s t : State) (flag : t.pool.flag = s.pool.flag)
    (moved : ¬(t.pool.free.length = s.pool.free.length ∧ t.config.poolLowWater = s.config.poolLowWater)) :
    s.PoolJudged t.comparePool := by
  have w := comparePool_within t
  have free := comparePool_free t
  have cfg := w.config
  have value : t.comparePool.pool.flag = if t.pool.free.length < t.config.poolLowWater then .low
      else if t.config.poolLowWater + 16 ≤ t.pool.free.length then .normal else t.pool.flag := by
    unfold State.comparePool
    dsimp only
    cases h : t.pool.flag <;> by_cases a : t.pool.free.length < t.config.poolLowWater <;>
      by_cases b : t.config.poolLowWater + 16 ≤ t.pool.free.length <;>
      first | omega | simp [h, a, b, State.setFlag]
  refine ⟨?_, fun n l q j => ?_, fun n l q j => ?_⟩
  · rw [free, cfg, if_neg moved, value, flag]
  · rw [w.heard.joined q] at j
    rw [value, flag, n] at l
    have a : t.pool.free.length < t.config.poolLowWater := by
      by_contra a
      rw [if_neg a] at l
      split at l <;> cases l
    rw [free, cfg]
    unfold State.comparePool
    dsimp only
    rw [if_pos ⟨a, flag.trans n⟩]
    exact told_broadcast (s := t.setFlag .low) j _
  · rw [w.heard.joined q] at j
    rw [value, flag, n] at l
    have a : ¬t.pool.free.length < t.config.poolLowWater := fun a => by rw [if_pos a] at l; cases l
    have b : t.config.poolLowWater + 16 ≤ t.pool.free.length := by
      by_contra b
      rw [if_neg a, if_neg b] at l
      cases l
    rw [free, cfg]
    unfold State.comparePool
    dsimp only
    rw [if_neg fun x => a x.1, if_pos ⟨b, flag.trans n⟩]
    exact told_broadcast (s := t.setFlag .normal) j _

theorem State.PoolJudged.of_same {s t : State} (pool : t.pool.flag = s.pool.flag)
    (free : t.pool.free.length = s.pool.free.length) (mark : t.config.poolLowWater = s.config.poolLowWater) :
    s.PoolJudged t :=
  ⟨by rw [if_pos ⟨free, mark⟩, pool], fun n l => absurd (n.symm.trans (pool.symm.trans l)) (by decide),
    fun n l => absurd (n.symm.trans (pool.symm.trans l)) (by decide)⟩

/-- An event that has not touched the flag or the mark is judged at its end (R48). -/
theorem closeEvent_judged (s t : State) (flag : t.pool.flag = s.pool.flag)
    (mark : t.config.poolLowWater = s.config.poolLowWater) : s.PoolJudged (s.closeEvent t) := by
  have cfg := (grants_within t).config
  unfold State.closeEvent
  dsimp only
  split
  · next e => exact .of_same (by rw [grants_pool]; exact flag) e (by rw [cfg]; exact mark)
  · next e => exact comparePool_judged s _ (by rw [grants_pool]; exact flag) fun x => e x.1

/-- A later notice of another key leaves the judgment as it was. -/
theorem State.PoolJudged.broadcast {s t : State} (h : s.PoolJudged t) (x : Notice) (low : x.kind ≠ .poolLow)
    (recovered : x.kind ≠ .poolRecovered) : s.PoolJudged (t.broadcast x) := by
  have w := broadcast_within t x
  have key : ∀ kind : NoticeKind, x.kind ≠ kind → kind ≠ .moveDone → ∀ d : List Int,
      x.key ≠ (⟨kind, none, d⟩ : Notice).key := fun kind ne m d e => by
    unfold Notice.key at e
    rw [if_neg m] at e
    split at e
    · next k => exact ne (congrArg Prod.fst e)
    · exact ne (congrArg Prod.fst e)
  refine ⟨by simpa [w.config] using h.flag, fun n l q j => ?_, fun n l q j => ?_⟩
  · rw [w.heard.joined q] at j
    have := h.low n (by simpa using l) q j
    rw [broadcast_pool, w.config]
    exact told_broadcast_of_ne this (key _ low (by decide) _)
  · rw [w.heard.joined q] at j
    have := h.recovered n (by simpa using l) q j
    rw [broadcast_pool, w.config]
    exact told_broadcast_of_ne this (key _ recovered (by decide) _)

end Sys2Proof.Machine
end

