-- ==== Sys2Proof/Laws/PerInstr.lean ====
section
/-! SUPPORT. The family LinkRoundTrip: a link command's own transfer reads back as that command, with every operand.
The other commands are no transfers of a link, and the statement says nothing of them. -/

namespace Sys2Proof.Laws.LinkRoundTrip

/-- The transfer that a well-formed command is reads back as the command. -/
def Statement (i : Instr) : Prop :=
  i.wellFormed = true → ∀ p bytes stray, transferBytes i = some (p, bytes, stray) →
    transferCommand p bytes stray = some i

/-- A command frame of Table 11-1. -/
theorem tableFrame {i : Instr} {p : Port} {code tag : Byte} {params : List Byte} (nonzero : code ≠ 0)
    (fits : paramsFit params = true) (table : tableCommand p code tag params = some i)
    {q : Port} {bytes : List Byte} {stray : Bool}
    (h : some (p, layFrame code tag params, false) = some (q, bytes, stray)) :
    transferCommand q bytes stray = some i := by
  cases h
  rw [transferCommand_layFrame p tag nonzero (by simpa [paramsFit] using fits), table]
  rfl

theorem join (port : Port) (tag : Byte) (params : List Byte) : Statement (.join port tag params) :=
  fun fits _ _ _ h => tableFrame (code := 0x10) (by decide) fits rfl h

theorem keep (port : Port) (tag : Byte) (params : List Byte) : Statement (.keep port tag params) :=
  fun fits _ _ _ h => tableFrame (code := 0x11) (by decide) fits rfl h

theorem leave (port : Port) (tag : Byte) (params : List Byte) : Statement (.leave port tag params) :=
  fun fits _ _ _ h => tableFrame (code := 0x12) (by decide) fits rfl h

theorem attach (port : Port) (tag : Byte) (params : List Byte) : Statement (.attach port tag params) :=
  fun fits _ _ _ h => tableFrame (code := 0x20) (by decide) fits rfl h

theorem release (port : Port) (tag : Byte) (params : List Byte) : Statement (.release port tag params) :=
  fun fits _ _ _ h => tableFrame (code := 0x21) (by decide) fits rfl h

theorem retrain (port : Port) (tag : Byte) (params : List Byte) : Statement (.retrain port tag params) :=
  fun fits _ _ _ h => tableFrame (code := 0x22) (by decide) fits rfl h

theorem adopt (port : Port) (tag : Byte) (params : List Byte) : Statement (.adopt port tag params) :=
  fun fits _ _ _ h => tableFrame (code := 0x23) (by decide) fits rfl h

theorem setPolicy (port : Port) (tag : Byte) (params : List Byte) : Statement (.setPolicy port tag params) :=
  fun fits _ _ _ h => tableFrame (code := 0x24) (by decide) fits rfl h

theorem clearHolds (port : Port) (tag : Byte) (params : List Byte) : Statement (.clearHolds port tag params) :=
  fun fits _ _ _ h => tableFrame (code := 0x25) (by decide) fits rfl h

theorem adapt (port : Port) (tag : Byte) (params : List Byte) : Statement (.adapt port tag params) :=
  fun fits _ _ _ h => tableFrame (code := 0x26) (by decide) fits rfl h

theorem query (port : Port) (tag : Byte) (params : List Byte) : Statement (.query port tag params) :=
  fun fits _ _ _ h => tableFrame (code := 0x27) (by decide) fits rfl h

theorem pauseProbe (port : Port) (tag : Byte) (params : List Byte) : Statement (.pauseProbe port tag params) :=
  fun fits _ _ _ h => tableFrame (code := 0x30) (by decide) fits rfl h

theorem resumeProbe (port : Port) (tag : Byte) (params : List Byte) : Statement (.resumeProbe port tag params) :=
  fun fits _ _ _ h => tableFrame (code := 0x31) (by decide) fits rfl h

theorem poolStatus (port : Port) (tag : Byte) (params : List Byte) : Statement (.poolStatus port tag params) :=
  fun fits _ _ _ h => tableFrame (code := 0x40) (by decide) fits rfl h

theorem snapshot (port : Port) (tag : Byte) (params : List Byte) : Statement (.snapshot port tag params) :=
  fun fits _ _ _ h => tableFrame (code := 0x41) (by decide) fits rfl h

theorem restore (port : Port) (tag : Byte) (params : List Byte) : Statement (.restore port tag params) :=
  fun fits _ _ _ h => tableFrame (code := 0x42) (by decide) fits rfl h

theorem dropSnapshot (port : Port) (tag : Byte) (params : List Byte) : Statement (.dropSnapshot port tag params) :=
  fun fits _ _ _ h => tableFrame (code := 0x43) (by decide) fits rfl h

theorem readTaps (port : Port) (tag : Byte) (params : List Byte) : Statement (.readTaps port tag params) :=
  fun fits _ _ _ h => tableFrame (code := 0x44) (by decide) fits rfl h

theorem move (port : Port) (tag : Byte) (params : List Byte) : Statement (.move port tag params) :=
  fun fits _ _ _ h => tableFrame (code := 0x50) (by decide) fits rfl h

theorem cancelMove (port : Port) (tag : Byte) (params : List Byte) : Statement (.cancelMove port tag params) :=
  fun fits _ _ _ h => tableFrame (code := 0x51) (by decide) fits rfl h

theorem moverStatus (port : Port) (tag : Byte) (params : List Byte) : Statement (.moverStatus port tag params) :=
  fun fits _ _ _ h => tableFrame (code := 0x52) (by decide) fits rfl h

theorem cacheList (port : Port) (tag : Byte) (params : List Byte) : Statement (.cacheList port tag params) :=
  fun fits _ _ _ h => tableFrame (code := 0x60) (by decide) fits rfl h

theorem cachePurge (port : Port) (tag : Byte) (params : List Byte) : Statement (.cachePurge port tag params) :=
  fun fits _ _ _ h => tableFrame (code := 0x61) (by decide) fits rfl h

theorem readNotices (port : Port) (tag : Byte) (params : List Byte) : Statement (.readNotices port tag params) :=
  fun fits _ _ _ h => tableFrame (code := 0x70) (by decide) fits rfl h

theorem maskNotices (port : Port) (tag : Byte) (params : List Byte) : Statement (.maskNotices port tag params) :=
  fun fits _ _ _ h => tableFrame (code := 0x71) (by decide) fits rfl h

theorem discardNotices (port : Port) (tag : Byte) (params : List Byte) : Statement (.discardNotices port tag params) :=
  fun fits _ _ _ h => tableFrame (code := 0x72) (by decide) fits rfl h

theorem claim (port : Port) (tag : Byte) (params : List Byte) : Statement (.claim port tag params) :=
  fun fits _ _ _ h => tableFrame (code := 0x80) (by decide) fits rfl h

theorem yieldClaim (port : Port) (tag : Byte) (params : List Byte) : Statement (.yieldClaim port tag params) :=
  fun fits _ _ _ h => tableFrame (code := 0x81) (by decide) fits rfl h

theorem setConfig (port : Port) (tag : Byte) (params : List Byte) : Statement (.setConfig port tag params) :=
  fun fits _ _ _ h => tableFrame (code := 0x82) (by decide) fits rfl h

theorem getConfig (port : Port) (tag : Byte) (params : List Byte) : Statement (.getConfig port tag params) :=
  fun fits _ _ _ h => tableFrame (code := 0x83) (by decide) fits rfl h

theorem resetPart (port : Port) (tag : Byte) (params : List Byte) : Statement (.resetPart port tag params) :=
  fun fits _ _ _ h => tableFrame (code := 0x84) (by decide) fits rfl h

theorem unknownCommand (port : Port) (code : Byte) (tag : Byte) (params : List Byte) : Statement (.unknownCommand port code tag params) := by
  intro w q bytes stray h
  cases h
  simp only [Instr.wellFormed, Bool.and_eq_true, decide_eq_true_eq, Bool.not_eq_true', codeInTable] at w
  have none_ : ∀ c : Byte, (tableCommand 0 c 0 []).isSome = false → tableCommand port c tag params = none := by
    intro c e
    unfold tableCommand at e ⊢
    split at e <;> simp_all
  rw [transferCommand_layFrame port tag w.2 (by simpa [paramsFit] using w.1.1), none_ code w.1.2]
  rfl

theorem badFrame (port : Port) (bytes : List Byte) (stray : Bool) : Statement (.badFrame port bytes stray) := by
  intro w q b st h
  cases h
  simp only [Instr.wellFormed, isBadTransfer, Bool.and_eq_true, decide_eq_true_eq] at w
  cases bytes with
  | nil => exact absurd rfl w.1.1
  | cons first rest =>
    have nonzero : first ≠ 0 := fun e => w.1.2 (by rw [e]; rfl)
    rw [transferCommand, if_neg nonzero, if_pos w.2]

theorem readTransfer (port : Port) (clocked : Nat) : Statement (.readTransfer port clocked) := by
  intro w q b st h
  cases h
  cases clocked with
  | zero => simp [Instr.wellFormed] at w
  | succ k => simp [List.replicate_succ, transferCommand]

theorem reset : Statement .reset :=
  fun _ _ _ _ h => nomatch h

theorem lockedFrame (lineIn pumpIn : Vector Slot 48) : Statement (.lockedFrame lineIn pumpIn) :=
  fun _ _ _ _ h => nomatch h

theorem endOfPlay (player : PlayerNo) : Statement (.endOfPlay player) :=
  fun _ _ _ _ h => nomatch h

theorem frameBoundary (pulseAt pulseElsewhere : Bool) : Statement (.frameBoundary pulseAt pulseElsewhere) :=
  fun _ _ _ _ h => nomatch h

theorem huntPulse (spacing : Option Nat) : Statement (.huntPulse spacing) :=
  fun _ _ _ _ h => nomatch h

theorem noClock : Statement .noClock :=
  fun _ _ _ _ h => nomatch h

theorem epochEnd : Statement .epochEnd :=
  fun _ _ _ _ h => nomatch h

theorem orderComplete : Statement .orderComplete :=
  fun _ _ _ _ h => nomatch h

theorem drainExpiry (chan : ChannelNo) : Statement (.drainExpiry chan) :=
  fun _ _ _ _ h => nomatch h

theorem leaseExpiry (port : Port) : Statement (.leaseExpiry port) :=
  fun _ _ _ _ h => nomatch h

theorem holdExpiry (chan : ChannelNo) : Statement (.holdExpiry chan) :=
  fun _ _ _ _ h => nomatch h

theorem strandExpiry (chan : ChannelNo) : Statement (.strandExpiry chan) :=
  fun _ _ _ _ h => nomatch h

theorem cacheAged : Statement .cacheAged :=
  fun _ _ _ _ h => nomatch h

theorem timebaseTick : Statement .timebaseTick :=
  fun _ _ _ _ h => nomatch h

end Sys2Proof.Laws.LinkRoundTrip
end

