-- ==== Sys2Proof/Laws/Told.lean ====
section
/-! SUPPORT. What joined ports hear of the ends of orders and of entries that leave the cache (`State.Raised`). -/

namespace Sys2Proof.Machine

/-! ### Raised -/

theorem State.Raised.of_port {s t : State} {q : Port} (h : t.port q = s.port q) : s.Raised t q [] [] := ⟨[], h, rfl, rfl⟩

theorem State.Raised.of_ports {s t : State} (h : t.ports = s.ports) (q : Port) : s.Raised t q [] [] :=
  .of_port (by simp only [State.port, h])

theorem State.Raised.trans {s t u : State} {q : Port} {a b c d : List Notice} (h : s.Raised t q a b)
    (h' : t.Raised u q c d) : s.Raised u q (a ++ c) (b ++ d) := by
  obtain ⟨all, e, ha, hb⟩ := h
  obtain ⟨more, e', hc, hd⟩ := h'
  exact ⟨all ++ more, by rw [e', e, List.foldl_append], by rw [List.filter_append, ha, hc],
    by rw [List.filter_append, hb, hd]⟩

/-- An update of the ports' other business does not matter to what they hear after it. -/
theorem State.Raised.congr {s s' t : State} {q : Port} {a b : List Notice} (h : s.Raised t q a b)
    (e : s'.port q = s.port q) : s'.Raised t q a b := by
  obtain ⟨all, p, rest⟩ := h
  exact ⟨all, by rw [p, e], rest⟩

theorem State.Raised.then_same {s t u : State} {q : Port} {a b : List Notice} (h : s.Raised t q a b)
    (e : u.ports = t.ports) : s.Raised u q a b := by
  obtain ⟨all, p, rest⟩ := h
  exact ⟨all, by rw [← p]; simp only [State.port, e], rest⟩

/-- One notice that reaches the port. -/
theorem State.Raised.of_arrive {s t : State} {q : Port} {n : Notice} (h : t.port q = (s.port q).arrive n) :
    s.Raised t q (if n.kind = .moveDone then [n] else []) (if n.kind = .cacheEvicted then [n] else []) := by
  refine ⟨[n], h, ?_, ?_⟩ <;> by_cases k : n.kind = .moveDone <;> by_cases k' : n.kind = .cacheEvicted <;> simp [k, k']

theorem broadcast_raised (s : State) {q : Port} (j : (s.port q).joined = true) (n : Notice) :
    s.Raised (s.broadcast n) q (if n.kind = .moveDone then [n] else []) (if n.kind = .cacheEvicted then [n] else []) :=
  .of_arrive (by rw [port_broadcast, if_pos j])

/-- A broadcast of another kind. -/
theorem broadcast_raises_none (s : State) {q : Port} (j : (s.port q).joined = true) {n : Notice}
    (done : n.kind ≠ .moveDone) (evicted : n.kind ≠ .cacheEvicted) : s.Raised (s.broadcast n) q [] [] := by
  have h := broadcast_raised s j n
  rwa [if_neg done, if_neg evicted] at h

/-- A series of operations each of which is heard in its own way. -/
theorem raised_foldl {α : Type} {q : Port} (f : State → α → State) (done evicted : α → List Notice)
    (within : ∀ (s : State) (a : α), s.Within (f s a))
    (h : ∀ (s : State) (a : α), (s.port q).joined = true → s.Raised (f s a) q (done a) (evicted a))
    (items : List α) (s : State) (j : (s.port q).joined = true) :
    s.Raised (items.foldl f s) q (items.flatMap done) (items.flatMap evicted) := by
  induction items generalizing s with
  | nil => exact .of_port rfl
  | cons a rest ih =>
    have := (h s a j).trans (ih (f s a) (by rw [(within s a).heard.joined]; exact j))
    simpa using this

/-! ### Operations that raise no notice -/

theorem ports_foldl {α : Type} (f : State → α → State) (h : ∀ (s : State) (a : α), (f s a).ports = s.ports)
    (items : List α) (s : State) : (items.foldl f s).ports = s.ports := by
  induction items generalizing s with
  | nil => rfl
  | cons a rest ih => rw [List.foldl_cons, ih, h]

@[simp] theorem returnSegments_ports (s : State) (segments : List Nat) : (s.returnSegments segments).ports = s.ports := rfl

@[simp] theorem giveUp_ports (s : State) (w : Work) : (s.giveUp w).ports = s.ports := by
  have unpin : ∀ w : Work, (s.unpin w).ports = s.ports := fun w => by
    unfold State.unpin
    generalize w.snapshots = items
    exact ports_foldl _ (fun s r => modChan_ports s r.1 _) items s
  cases w with
  | capture n id => rfl
  | _ => exact unpin _

@[simp] theorem dropRollback_ports (s : State) (o : Order) : (s.dropRollback o).ports = s.ports := by
  unfold State.dropRollback; split <;> rfl

@[simp] theorem markHead_ports (s : State) : s.markHead.ports = s.ports := by
  unfold State.markHead
  split
  · rfl
  · split
    · exact ports_foldl _ (fun s r => by dsimp only; split <;> rfl) _ _
    · rfl

@[simp] theorem freePlayer_ports (s : State) (n : ChannelNo) : (s.freePlayer n).ports = s.ports := by
  unfold State.freePlayer; split <;> rfl

@[simp] theorem grants_ports (s : State) : s.grants.ports = s.ports := by
  have one : ∀ u : State, u.grantOne.ports = u.ports := fun u => by unfold State.grantOne; split <;> rfl
  simp [State.grants, one]

/-! ### The end of an event, the abort of orders, evictions -/

/-- The comparison at the end of an event tells of the pool alone (R48, R49). -/
theorem closeEvent_raised (s₀ s : State) {q : Port} (j : (s.port q).joined = true) : s.Raised (s₀.closeEvent s) q [] [] := by
  have g : s.Raised s.grants q [] [] := .of_ports (grants_ports s) q
  have j' : (s.grants.port q).joined = true := by rw [(grants_within s).heard.joined]; exact j
  unfold State.closeEvent
  dsimp only
  split
  · exact g
  · refine g.trans (a := []) (b := []) ?_
    unfold State.comparePool
    dsimp only
    split
    · exact (broadcast_raises_none (s.grants.setFlag .low) j' (by simp) (by simp)).congr rfl
    · split
      · exact (broadcast_raises_none (s.grants.setFlag .normal) j' (by simp) (by simp)).congr rfl
      · exact .of_port rfl

theorem abortNotices_cons (o : Order) (rest : List Order) (q : Port) :
    abortNotices (o :: rest) q = abortNotices [o] q ++ abortNotices rest q := by
  by_cases h : o.port = q <;> simp [abortNotices, h]

theorem endEarly_raised (s : State) (o : Order) {q : Port} (j : (s.port q).joined = true) :
    s.Raised (State.endEarly .aborted s o) q (abortNotices [o] q) [] := by
  let u := (s.giveUp o.work).dropRollback o
  have same : u.port q = s.port q := by simp only [u, State.port, dropRollback_ports, giveUp_ports]
  show s.Raised (u.notify o.port (moveDone o .aborted o.progress)) q _ _
  by_cases e : o.port = q
  · have h : (u.notify o.port (moveDone o .aborted o.progress)).port q = (s.port q).arrive (moveDone o .aborted o.progress) := by
      rw [port_notify, if_pos ⟨e, by rw [same]; exact j⟩, same]
    simpa [abortNotices, e, moveDone, OrderEnd.code] using State.Raised.of_arrive h
  · have h : (u.notify o.port (moveDone o .aborted o.progress)).port q = s.port q := by
      rw [port_notify, if_neg fun h => e h.1, same]
    simpa [abortNotices, e] using State.Raised.of_port h

/-- The orders aborted are told to the ports that issued them, the one nearest the head first (R119, R120). -/
theorem abortOrders_raised (s : State) (which : Order → Bool) {q : Port} (j : (s.port q).joined = true) :
    s.Raised (s.abortOrders which) q (abortNotices (s.mover.filter which) q) [] := by
  have fold := raised_foldl (q := q) (State.endEarly .aborted) (fun o => abortNotices [o] q) (fun _ => [])
    (endEarly_within .aborted) (fun s o j => endEarly_raised s o j) (s.mover.filter which)
    (s.setMover (s.mover.filter fun o => !which o)) j
  have list : ∀ orders : List Order, orders.flatMap (fun o => abortNotices [o] q) = abortNotices orders q := fun orders => by
    induction orders with
    | nil => rfl
    | cons o rest ih => rw [List.flatMap_cons, ih, ← abortNotices_cons]
  have none : (s.mover.filter which).flatMap (fun _ => ([] : List Notice)) = [] := by simp
  rw [list, none] at fold
  exact (fold.congr (s' := s) rfl).then_same (markHead_ports _)

theorem evict_raised (reason : EvictReason) (s : State) (e : CacheEntry) {q : Port} (j : (s.port q).joined = true) :
    s.Raised (State.evict reason s e) q [] [⟨.cacheEvicted, none, [(reason.code : Int), (e.routeTag : Int),
      (e.segments.length : Int), ((s.cache.filter fun x => x.routeTag ≠ e.routeTag).length : Int)]⟩] :=
  (broadcast_raised ((s.setCache (s.cache.filter fun x => x.routeTag ≠ e.routeTag)).returnSegments e.segments) j _).congr rfl

theorem evictNotices_cons (reason held : Nat) (e : CacheEntry) (rest : List CacheEntry) :
    evictNotices reason held (e :: rest) = ⟨.cacheEvicted, none,
      [(reason : Int), (e.routeTag : Int), (e.segments.length : Int), ((held - 1 : Nat) : Int)]⟩
        :: evictNotices reason (held - 1) rest := by
  simp only [evictNotices, List.mapIdx_cons]
  congr 2
  funext i e
  rw [show held - (i + 1 + 1) = held - 1 - (i + 1) by omega]

/-- Where no two entries have one tag, one leaves under a tag that is held. -/
theorem length_without_tag {entries : List CacheEntry} (nodup : (entries.map CacheEntry.routeTag).Nodup) {e : CacheEntry}
    (h : e ∈ entries) : (entries.filter fun x => x.routeTag ≠ e.routeTag).length = entries.length - 1 := by
  induction entries with
  | nil => cases h
  | cons x rest ih =>
    obtain ⟨notin, nd⟩ := List.nodup_cons.1 (by simpa using nodup : (x.routeTag :: rest.map CacheEntry.routeTag).Nodup)
    rcases List.mem_cons.1 h with rfl | h
    · have all : ∀ y ∈ rest, y.routeTag ≠ e.routeTag := fun y hy eq => notin (List.mem_map.2 ⟨y, hy, eq⟩)
      rw [List.filter_cons_of_neg (by simp), List.filter_eq_self.2 fun y hy => decide_eq_true (all y hy)]
      rfl
    · have ne : x.routeTag ≠ e.routeTag := fun eq => notin (List.mem_map.2 ⟨e, h, eq.symm⟩)
      have pos := List.length_pos_of_mem h
      rw [List.filter_cons_of_pos (by simpa using ne), List.length_cons, ih nd h, List.length_cons]
      omega

/-- A series of evictions of entries that the cache holds, no two of one tag (R132). -/
theorem evictAll_raised (reason : EvictReason) (gone : List CacheEntry) (s : State) {q : Port}
    (j : (s.port q).joined = true) (nodup : (s.cache.map CacheEntry.routeTag).Nodup)
    (distinct : (gone.map CacheEntry.routeTag).Nodup) (held : ∀ e ∈ gone, e ∈ s.cache) :
    s.Raised (gone.foldl (State.evict reason) s) q [] (evictNotices reason.code s.cache.length gone) := by
  induction gone generalizing s with
  | nil => exact .of_port rfl
  | cons e rest ih =>
    obtain ⟨notin, nd⟩ := List.nodup_cons.1 (by simpa using distinct : (e.routeTag :: rest.map CacheEntry.routeTag).Nodup)
    have cache := evict_cache reason s e
    have first := evict_raised reason s e j
    rw [length_without_tag nodup (held e (by simp))] at first
    have more := ih (State.evict reason s e) (by rw [(evict_within reason s e).heard.joined]; exact j)
      (by rw [cache]; exact nodup.sublist (List.Sublist.map _ List.filter_sublist)) nd fun x hx => by
        rw [cache, List.mem_filter]
        exact ⟨held x (by simp [hx]), decide_eq_true fun eq => notin (List.mem_map.2 ⟨x, hx, eq⟩)⟩
    rw [cache, length_without_tag nodup (held e (by simp))] at more
    have all := first.trans more
    rw [List.nil_append, List.singleton_append, ← evictNotices_cons] at all
    rw [List.foldl_cons]
    exact all

/-! ### The completion of an order (R116) -/

/-- What an order's completion does before it is told touches the channels alone. -/
theorem finishOrder_eq (s : State) (o : Order) : ∃ channels,
    (((s.finishWork o.work).unpin o.work).setGuard o).dropRollback o = { s with channels := channels } := by
  have unpin : ∀ (items : List (ChannelNo × Nat)) (u : State), ∃ channels,
      items.foldl (fun s r => s.modChan r.1 fun c => c.modSnapshot r.2 fun r => { r with pins := r.pins - 1 }) u
        = { u with channels := channels } := fun items => by
    induction items with
    | nil => exact fun u => ⟨u.channels, rfl⟩
    | cons r rest ih => intro u; obtain ⟨c, e⟩ := ih (u.modChan r.1 _); exact ⟨c, e⟩
  have finish : ∃ channels, s.finishWork o.work = { s with channels := channels } := by
    unfold State.finishWork; split <;> exact ⟨_, rfl⟩
  have guard : ∀ u : State, ∃ channels, u.setGuard o = { u with channels := channels } := fun u => by
    unfold State.setGuard; dsimp only; split <;> exact ⟨_, rfl⟩
  have drop : ∀ u : State, ∃ channels, u.dropRollback o = { u with channels := channels } := fun u => by
    unfold State.dropRollback; split <;> exact ⟨_, rfl⟩
  obtain ⟨a, ha⟩ := finish
  obtain ⟨b, hb⟩ := unpin o.work.snapshots (s.finishWork o.work)
  obtain ⟨c, hc⟩ := guard ((s.finishWork o.work).unpin o.work)
  obtain ⟨d, hd⟩ := drop (((s.finishWork o.work).unpin o.work).setGuard o)
  exact ⟨d, by rw [hd, hc, State.unpin, hb, ha]⟩

theorem markHead_eq (s : State) : ∃ channels, s.markHead = { s with channels := channels } := by
  have fold : ∀ (items : List Region) (u : State), ∃ channels, items.foldl (fun s r =>
      if r.copy = .live then s.modChan r.channel fun c => { c with marks := { c.marks with mover := true } } else s) u
        = { u with channels := channels } := fun items => by
    induction items with
    | nil => exact fun u => ⟨u.channels, rfl⟩
    | cons r rest ih =>
      intro u
      rw [List.foldl_cons]
      split
      · obtain ⟨c, e⟩ := ih (u.modChan r.channel _); exact ⟨c, e⟩
      · exact ih u
  unfold State.markHead
  split
  · exact ⟨_, rfl⟩
  · split
    · exact fold _ s
    · exact ⟨_, rfl⟩

/-- The order at the head completes (R116). -/
theorem completeHead_completed {s : State} {o : Order} {rest : List Order} (h : s.mover = o :: rest) :
    s.Completed s.completeHead o rest := by
  have chan := completeHead_chan h
  have within := completeHead_within s
  obtain ⟨c, finished⟩ := finishOrder_eq (s.setMover rest) o
  have eq : ∃ channels, s.completeHead = { ({ s with mover := rest, channels := c } : State).notify o.port
      (moveDone o .complete o.total) with channels := channels } := by
    obtain ⟨d, e⟩ := markHead_eq ((s.setMover rest).endComplete o)
    refine ⟨d, ?_⟩
    unfold State.completeHead
    rw [h]
    dsimp only
    rw [e, State.endComplete, finished]
    rfl
  obtain ⟨channels, eq⟩ := eq
  have port : ∀ q, s.completeHead.port q =
      if o.port = q ∧ (s.port q).joined = true then (s.port q).arrive (moveDone o .complete o.total) else s.port q :=
    fun q => by
      rw [eq]
      exact port_notify ({ s with mover := rest, channels := c } : State) o.port q _
  refine ⟨within, ?_, fun j => ?_, fun q j => ?_, ?_, ?_, ?_, ?_, ?_, chan⟩
  · rw [eq]; exact notify_mover _ _ _
  · rw [port, if_pos ⟨rfl, j⟩]; exact told_arrive _ _
  · by_cases e : o.port = q
    · rw [if_pos e]
      have := State.Raised.of_arrive ((port q).trans (if_pos ⟨e, j⟩))
      simpa [moveDone, OrderEnd.code] using this
    · rw [if_neg e]
      exact .of_port ((port q).trans (if_neg fun x => e x.1))
  · rw [eq]; exact notify_pool _ _ _
  · rw [eq]; exact notify_players _ _ _
  · rw [eq]; exact notify_probeQueue _ _ _
  · rw [eq]; exact notify_cache _ _ _
  · rw [eq]; exact notify_parkCounter _ _ _

end Sys2Proof.Machine
end

