-- ==== Sys2Proof/Laws/Vacate.lean ====
section
/-! SUPPORT. What becoming VACANT does to the stores (R25): which segments return to the free set, and which taps they
clear. -/

namespace Sys2Proof.Machine

/-! ### Segments that return to the free set -/

/-- `t` has the pool of `s` but that the segments `back` have returned to the free set, their taps 0 (R43). -/
def State.Returns (s t : State) (back : List Nat) : Prop :=
  (∀ x, x ∈ t.pool.free ↔ x ∈ s.pool.free ∨ x ∈ back)
    ∧ ∀ a, t.pool.taps.read a = if a / 32 ∈ back then 0 else s.pool.taps.read a

theorem State.Returns.of_pool {s t : State} (h : t.pool = s.pool) : s.Returns t [] := by
  simp [State.Returns, h]

theorem State.Returns.same {s t u : State} {back : List Nat} (h : s.Returns t back) (e : u.pool = t.pool) :
    s.Returns u back := by
  unfold State.Returns
  rw [e]; exact h

theorem State.Returns.trans {s t u : State} {a b : List Nat} (h : s.Returns t a) (h' : t.Returns u b) :
    s.Returns u (a ++ b) := by
  refine ⟨fun x => ?_, fun y => ?_⟩
  · rw [h'.1, h.1, List.mem_append, or_assoc]
  · rw [h'.2, h.2]
    by_cases p : y / 32 ∈ a <;> by_cases q : y / 32 ∈ b <;> simp [p, q]

theorem State.Returns.congr {s t : State} {a b : List Nat} (h : s.Returns t a) (e : ∀ x, x ∈ a ↔ x ∈ b) :
    s.Returns t b := by
  refine ⟨fun x => by rw [h.1, e], fun y => ?_⟩
  rw [h.2]
  by_cases p : y / 32 ∈ a
  · rw [if_pos p, if_pos ((e _).1 p)]
  · rw [if_neg p, if_neg fun q => p ((e _).2 q)]

@[simp] theorem returnSegments_chan (s : State) (segments : List Nat) (m : ChannelNo) :
    (s.returnSegments segments).chan m = s.chan m := rfl
@[simp] theorem returnSegments_mover (s : State) (segments : List Nat) :
    (s.returnSegments segments).mover = s.mover := rfl
@[simp] theorem returnSegments_probeQueue (s : State) (segments : List Nat) :
    (s.returnSegments segments).probeQueue = s.probeQueue := rfl
@[simp] theorem returnSegments_cache (s : State) (segments : List Nat) :
    (s.returnSegments segments).cache = s.cache := rfl
@[simp] theorem returnSegments_parkCounter (s : State) (segments : List Nat) :
    (s.returnSegments segments).parkCounter = s.parkCounter := rfl
@[simp] theorem freePlayer_parkCounter (s : State) (n : ChannelNo) : (s.freePlayer n).parkCounter = s.parkCounter := by
  unfold State.freePlayer; split <;> rfl

theorem returnSegments_returns (s : State) (segments : List Nat) : s.Returns (s.returnSegments segments) segments := by
  refine ⟨fun x => ?_, fun a => ?_⟩
  · show x ∈ segments.foldl (fun f x => insertSegment x f) s.pool.free ↔ _
    rw [mem_insertSegments]; exact or_comm
  · exact read_clearSegments s.pool.taps segments a

/-! ### The end of orders that touch one channel -/

/-- The segments of a channel's snapshot records. -/
def Channel.ringSegments (c : Channel) : List Nat := c.ring.flatMap (·.segments)

theorem modSnapshot_ringSegments (c : Channel) (id : Nat) (f : Snapshot → Snapshot)
    (h : ∀ r, (f r).segments = r.segments) : (c.modSnapshot id f).ringSegments = c.ringSegments := by
  simp only [Channel.ringSegments, Channel.modSnapshot, List.flatMap_map]
  congr 1
  funext r
  split
  · exact h r
  · rfl

theorem modSnapshot_records (c : Channel) (id : Nat) (f : Nat → Nat) :
    (c.modSnapshot id fun r => { r with pins := f r.pins }).records = c.records := by
  simp only [Channel.records, Channel.modSnapshot, List.map_map]
  congr 1
  funext r
  simp only [Function.comp]
  split <;> rfl

/-- The end of orders that touch channel `n` alone discards records of `n` and of no other channel: `back` has returned to
the free set, and `n` still holds the rest of what it held. -/
structure State.EndsOrders (s t : State) (n : ChannelNo) (back : List Nat) : Prop where
  returns : s.Returns t back
  rest : ∀ x, x ∈ (s.chan n).ringSegments ↔ x ∈ back ∨ x ∈ (t.chan n).ringSegments
  records : ∀ m, m ≠ n → (t.chan m).records = (s.chan m).records

theorem State.EndsOrders.refl (s : State) (n : ChannelNo) : s.EndsOrders s n [] :=
  ⟨.of_pool rfl, fun _ => by simp, fun _ _ => rfl⟩

theorem State.EndsOrders.trans {s t u : State} {n : ChannelNo} {a b : List Nat} (h : s.EndsOrders t n a)
    (h' : t.EndsOrders u n b) : s.EndsOrders u n (a ++ b) := by
  refine ⟨h.returns.trans h'.returns, fun x => ?_, fun m ne => (h'.records m ne).trans (h.records m ne)⟩
  rw [h.rest, h'.rest, List.mem_append, or_assoc]

/-- An update that leaves the pool and every record but for its pins. -/
theorem State.EndsOrders.of_records {s t : State} (n : ChannelNo) (p : t.pool = s.pool)
    (r : ∀ m, (t.chan m).records = (s.chan m).records) : s.EndsOrders t n [] := by
  refine ⟨.of_pool p, fun x => ?_, fun m _ => r m⟩
  have e : ∀ c : Channel, c.ringSegments = c.records.flatMap (·.segments) := fun c => by
    simp [Channel.ringSegments, Channel.records, List.flatMap_map]
  rw [e, e, r n]; simp

theorem unpin_records (s : State) (w : Work) (m : ChannelNo) : ((s.unpin w).chan m).records = (s.chan m).records := by
  unfold State.unpin
  generalize w.snapshots = items
  induction items generalizing s with
  | nil => rfl
  | cons r rest ih =>
    rw [List.foldl_cons, ih, chan_modChan]
    split
    · next e => subst e; exact modSnapshot_records _ _ (· - 1)
    · rfl

theorem removeSnapshot_ends (s : State) (n : ChannelNo) (id : Nat) :
    s.EndsOrders (s.removeSnapshot n id) n (((s.chan n).ring.filter fun r => r.id = id).flatMap (·.segments)) := by
  refine ⟨?_, fun x => ?_, fun m ne => ?_⟩
  · exact returnSegments_returns (s.modChan n fun c => c.dropSnapshot id) _
  · have e : (s.removeSnapshot n id).chan n = (s.chan n).dropSnapshot id := by
      show ((s.modChan n fun c => c.dropSnapshot id)).chan n = _
      simp
    rw [e]
    simp only [Channel.ringSegments, Channel.dropSnapshot, List.mem_flatMap, List.mem_filter, decide_eq_true_eq]
    constructor
    · rintro ⟨r, hr, hx⟩
      by_cases c : r.id = id
      · exact .inl ⟨r, ⟨hr, c⟩, hx⟩
      · exact .inr ⟨r, ⟨hr, c⟩, hx⟩
    · rintro (⟨r, ⟨hr, _⟩, hx⟩ | ⟨r, ⟨hr, _⟩, hx⟩) <;> exact ⟨r, hr, hx⟩
  · have e : (s.removeSnapshot n id).chan m = s.chan m := by
      show ((s.modChan n fun c => c.dropSnapshot id)).chan m = _
      rw [chan_modChan, if_neg (Ne.symm ne)]
    rw [e]

theorem dropRollback_ends (s : State) (o : Order) (n : ChannelNo) : s.EndsOrders (s.dropRollback o) n [] := by
  unfold State.dropRollback
  split
  · refine .of_records n rfl fun m => ?_
    rw [chan_modChan]
    split
    · next e => subst e; rfl
    · rfl
  · exact .refl s n

theorem markRegions_ends (items : List Region) (s : State) (n : ChannelNo) :
    s.EndsOrders (items.foldl (fun s r =>
      if r.copy = .live then s.modChan r.channel fun c => { c with marks := { c.marks with mover := true } } else s) s)
      n [] := by
  induction items generalizing s with
  | nil => exact .refl s n
  | cons r rest ih =>
    rw [List.foldl_cons]
    refine State.EndsOrders.trans (a := []) ?_ (ih _)
    split
    · refine .of_records n rfl fun m => ?_
      rw [chan_modChan]
      split
      · next e => subst e; rfl
      · rfl
    · exact .refl s n

theorem markHead_ends (s : State) (n : ChannelNo) : s.EndsOrders s.markHead n [] := by
  unfold State.markHead
  split
  · exact .refl s n
  · split
    · exact markRegions_ends _ s n
    · exact .refl s n

/-- The end of an order that touches channel `n`: a CAPTURE is one of `n`. -/
theorem endEarly_ends (how : OrderEnd) (s : State) (o : Order) (n : ChannelNo) (h : o.work.touches n = true) :
    ∃ back, s.EndsOrders (State.endEarly how s o) n back := by
  have give : ∃ back, s.EndsOrders (s.giveUp o.work) n back := by
    unfold State.giveUp
    split
    · next m id e =>
      rw [e] at h
      have : m = n := by simpa [Work.touches, Work.regions] using h
      subst this
      exact ⟨_, removeSnapshot_ends s m id⟩
    all_goals exact ⟨[], .of_records n (unpin_pool s _) (unpin_records s _)⟩
  obtain ⟨back, g⟩ := give
  refine ⟨back ++ ([] ++ []), g.trans ((dropRollback_ends _ o n).trans ?_)⟩
  unfold State.endEarly
  exact .of_records n (by simp) fun m => by rw [chan_notify]

theorem endEarlyAll_ends (how : OrderEnd) (n : ChannelNo) (orders : List Order)
    (h : ∀ o ∈ orders, o.work.touches n = true) (s : State) :
    ∃ back, s.EndsOrders (orders.foldl (State.endEarly how) s) n back := by
  induction orders generalizing s with
  | nil => exact ⟨[], .refl s n⟩
  | cons o rest ih =>
    obtain ⟨a, ha⟩ := endEarly_ends how s o n (h o (by simp))
    obtain ⟨b, hb⟩ := ih (fun x hx => h x (by simp [hx])) (State.endEarly how s o)
    exact ⟨a ++ b, ha.trans hb⟩

/-- Aborting every order that touches a channel (R119). -/
theorem abortOrders_ends (s : State) (n : ChannelNo) :
    ∃ back, s.EndsOrders (s.abortOrders fun o => o.work.touches n) n back := by
  obtain ⟨back, h⟩ := endEarlyAll_ends .aborted n (s.mover.filter fun o => o.work.touches n)
    (fun o ho => (List.mem_filter.1 ho).2) (s.setMover (s.mover.filter fun o => !o.work.touches n))
  refine ⟨back ++ [], State.EndsOrders.trans ?_ (markHead_ends _ n)⟩
  exact ⟨h.returns, h.rest, h.records⟩

/-- The segments of the records of channel `n` whose CAPTURE is among orders that end early (R54, R117). -/
def Channel.discarded (orders : List Order) (n : ChannelNo) (c : Channel) : List Nat :=
  (c.ring.filter fun r => orders.any fun o => o.work == .capture n r.id).flatMap (·.segments)

/-- The early end of an order that touches channel `n` returns what the record of its CAPTURE held, and nothing else. -/
theorem endEarly_returns (how : OrderEnd) (s : State) (o : Order) (n : ChannelNo) (h : o.work.touches n = true) :
    s.Returns (State.endEarly how s o) ((s.chan n).discarded [o] n) := by
  have give : s.Returns (s.giveUp o.work) ((s.chan n).discarded [o] n) := by
    simp only [Channel.discarded, List.any_cons, List.any_nil, Bool.or_false]
    unfold State.giveUp
    split
    · next m id e =>
      obtain rfl : m = n := by simpa [Work.touches, Work.regions, e] using h
      refine (removeSnapshot_ends s m id).returns.congr fun x => ?_
      simp [e, eq_comm (a := id)]
    all_goals
      next e => exact (State.Returns.of_pool (unpin_pool s _)).congr fun x => by simp [e]
  exact give.same (by rw [State.endEarly, notify_pool, dropRollback_pool])

theorem endEarlyAll_returns (how : OrderEnd) (n : ChannelNo) (orders : List Order)
    (h : ∀ o ∈ orders, o.work.touches n = true) (s : State) :
    s.Returns (orders.foldl (State.endEarly how) s) ((s.chan n).discarded orders n) := by
  induction orders generalizing s with
  | nil => simpa [Channel.discarded] using State.Returns.of_pool (s := s) rfl
  | cons o rest ih =>
    refine ((endEarly_returns how s o n (h o (by simp))).trans
      (ih (fun x hx => h x (by simp [hx])) (State.endEarly how s o))).congr fun x => ?_
    rw [endEarly_afterAborts]
    simp only [Channel.discarded, Channel.afterAborts, List.mem_append, List.mem_flatMap, List.mem_filter, List.mem_map,
      List.any_cons, List.any_nil, Bool.or_false, Bool.or_eq_true, Bool.not_eq_true']
    constructor
    · rintro (⟨r, ⟨hr, c⟩, hx⟩ | ⟨_, ⟨⟨r, ⟨hr, _⟩, rfl⟩, c⟩, hx⟩)
      · exact ⟨r, ⟨hr, .inl c⟩, hx⟩
      · exact ⟨r, ⟨hr, .inr c⟩, hx⟩
    · rintro ⟨r, ⟨hr, c⟩, hx⟩
      cases k : o.work == .capture n r.id with
      | true => exact .inl ⟨r, ⟨hr, k⟩, hx⟩
      | false => exact .inr ⟨_, ⟨⟨r, ⟨hr, k⟩, rfl⟩, c.resolve_left (by simp [k])⟩, hx⟩

/-- Aborting every order that touches a channel returns exactly the segments of the discarded records (R54, R119). -/
theorem abortOrders_returns (s : State) (n : ChannelNo) :
    s.Returns (s.abortOrders fun o => o.work.touches n) ((s.chan n).discarded (s.ordersOn n) n) :=
  (endEarlyAll_returns .aborted n (s.ordersOn n) (fun _ ho => (List.mem_filter.1 ho).2)
    (s.setMover (s.mover.filter fun o => !o.work.touches n))).same (markHead_pool _)

/-! ### Becoming VACANT -/

/-- The early end of orders touches a channel's ring, its rollback record and its marks alone. -/
theorem Channel.OrdersEnded.fields {orders : List Order} {n : ChannelNo} {c d : Channel} (h : c.OrdersEnded orders n d) :
    d.live = c.live ∧ d.player = c.player ∧ d.profile = c.profile ∧ d.policy = c.policy ∧ d.measured = c.measured
      ∧ d.window = c.window ∧ d.state = c.state ∧ d.lessee = c.lessee ∧ d.holdCount = c.holdCount
      ∧ d.parkEligible = c.parkEligible ∧ d.prior = c.prior := by
  obtain ⟨_, rfl⟩ := h
  simp [Channel.afterAborts]

theorem dropAll_returns {s A B : State} {n : ChannelNo} {back : List Nat} (ends : s.EndsOrders A n back)
    (live : (B.chan n).live = (s.chan n).live) (ring : (B.chan n).ring = (A.chan n).ring) (pool : B.pool = A.pool) :
    s.Returns ((B.returnSegments (B.chan n).live).returnSegments ((B.chan n).ring.flatMap (·.segments)))
      (s.chan n).segments := by
  have r1 : A.Returns B [] := .of_pool pool
  have r2 := ends.returns.trans (r1.trans ((returnSegments_returns B (B.chan n).live).trans
    (returnSegments_returns (B.returnSegments (B.chan n).live) ((B.chan n).ring.flatMap (·.segments)))))
  refine r2.congr fun x => ?_
  have := ends.rest x
  rw [live, ring, Channel.segments, List.mem_append, List.mem_append, List.mem_append, List.mem_append,
    show (s.chan n).ring.flatMap (·.segments) = (s.chan n).ringSegments from rfl, this,
    show (A.chan n).ring.flatMap (·.segments) = (A.chan n).ringSegments from rfl]
  simp only [List.not_mem_nil, false_or]
  exact or_left_comm

/-- The state in which a channel that becomes VACANT has given up its orders, its place in the queue and its player. -/
def State.stripped (s : State) (n : ChannelNo) : State :=
  ((s.abortOrders fun o => o.work.touches n).leaveQueue n).freePlayer n

theorem stripped_ends (s : State) (n : ChannelNo) : ∃ back, s.EndsOrders (s.stripped n) n back := by
  obtain ⟨back, ends⟩ := abortOrders_ends s n
  refine ⟨back ++ [], ends.trans (.of_records n ?_ fun m => ?_)⟩
  · unfold State.stripped; rw [freePlayer_pool]; rfl
  · unfold State.stripped; rw [freePlayer_chan]
    split <;> rfl

theorem stripped_chan (s : State) (n : ChannelNo) :
    (∃ c, (s.chan n).OrdersEnded (s.ordersOn n) n c ∧ (s.stripped n).chan n = { c with player := none })
      ∧ ∀ m, m ≠ n → (s.chan m).OrdersEnded (s.ordersOn n) m ((s.stripped n).chan m) := by
  have ended := abortOrders_chan s fun o => o.work.touches n
  refine ⟨⟨_, ended n, ?_⟩, fun m ne => ?_⟩
  · unfold State.stripped; rw [freePlayer_chan, if_pos rfl]; rfl
  · unfold State.stripped; rw [freePlayer_chan, if_neg (Ne.symm ne)]; exact ended m

theorem stripped_frame (s : State) (n : ChannelNo) :
    (s.stripped n).mover = (s.mover.filter fun o => !o.work.touches n) ∧ n ∉ (s.stripped n).probeQueue
      ∧ (s.stripped n).cache = s.cache ∧ (s.stripped n).parkCounter = s.parkCounter := by
  have keeps := abortOrders_keeps s fun o => o.work.touches n
  have mv := abortOrders_mover s fun o => o.work.touches n
  refine ⟨?_, ?_, ?_, ?_⟩
  · unfold State.stripped; rw [freePlayer_mover]; exact mv
  · unfold State.stripped; rw [freePlayer_probeQueue]; simp [State.leaveQueue]
  · unfold State.stripped; rw [freePlayer_cache]; exact keeps.cache
  · unfold State.stripped; rw [freePlayer_parkCounter]; exact keeps.parkCounter

theorem stripped_within (s : State) (n : ChannelNo) : s.Within (s.stripped n) :=
  ((abortOrders_within s _).trans (leaveQueue_within _ n)).trans (freePlayer_within _ n)

/-- The issuing ports of the orders that touched the channel hear of the aborts (R119). -/
theorem stripped_raised (s : State) (n : ChannelNo) {q : Port} (j : (s.port q).joined = true) :
    s.Raised (s.stripped n) q (abortNotices (s.ordersOn n) q) [] := by
  refine (abortOrders_raised s (fun o => o.work.touches n) j).then_same ?_
  rw [State.stripped, freePlayer_ports]
  rfl

theorem vacate_free_eq (s : State) (n : ChannelNo) : s.vacate n false =
    (((s.stripped n).returnSegments ((s.stripped n).chan n).live).returnSegments
      (((s.stripped n).chan n).ring.flatMap (·.segments))).modChan n fun _ => .vacant := rfl

/-- Steps 1 to 4 of R25 with nothing parked. -/
theorem vacate_free (s : State) (n : ChannelNo) :
    (s.vacate n false).chan n = .vacant
      ∧ (∀ m, m ≠ n → (s.chan m).OrdersEnded (s.ordersOn n) m ((s.vacate n false).chan m)
          ∧ ((s.vacate n false).chan m).records = (s.chan m).records)
      ∧ (s.vacate n false).mover = (s.mover.filter fun o => !o.work.touches n)
      ∧ n ∉ (s.vacate n false).probeQueue
      ∧ s.Returns (s.vacate n false) (s.chan n).segments
      ∧ (s.vacate n false).cache = s.cache ∧ (s.vacate n false).parkCounter = s.parkCounter := by
  obtain ⟨back, ends⟩ := stripped_ends s n
  obtain ⟨⟨c, kept, own⟩, others⟩ := stripped_chan s n
  obtain ⟨mv, pq, ca, pc⟩ := stripped_frame s n
  rw [vacate_free_eq]
  generalize s.stripped n = B at ends own others mv pq ca pc ⊢
  refine ⟨chan_modChan_self _ _ _, fun m ne => ?_, mv, pq, ?_, ca, pc⟩
  · rw [chan_modChan_of_ne _ _ (Ne.symm ne)]
    exact ⟨others m ne, ends.records m ne⟩
  · have live : (B.chan n).live = (s.chan n).live := (congrArg Channel.live own).trans kept.fields.1
    exact (dropAll_returns ends live rfl rfl).same (modChan_pool _ _ _)

theorem State.Returns.closeEvent {s t : State} {back : List Nat} (s₀ : State) (h : s.Returns t back) :
    s.Returns (s₀.closeEvent t) back :=
  ⟨fun x => by rw [closeEvent_free]; exact h.1 x, fun a => by rw [closeEvent_taps]; exact h.2 a⟩

@[simp] theorem closeEvent_parkCounter (s₀ s : State) : (s₀.closeEvent s).parkCounter = s.parkCounter := by
  have g : ∀ B : State, B.grantOne.parkCounter = B.parkCounter := fun B => by unfold State.grantOne; split <;> rfl
  have c : ∀ B : State, B.comparePool.parkCounter = B.parkCounter := fun B => by
    unfold State.comparePool; dsimp only; split
    · rw [broadcast_parkCounter]; rfl
    · split
      · rw [broadcast_parkCounter]; rfl
      · rfl
  unfold State.closeEvent; dsimp only; split
  · simp [State.grants, g]
  · rw [c]; simp [State.grants, g]

theorem evict_flag (reason : EvictReason) (s : State) (e : CacheEntry) :
    (State.evict reason s e).pool.flag = s.pool.flag := by
  unfold State.evict
  rw [broadcast_pool]; rfl

theorem park_flag (s : State) (n : ChannelNo) : (s.park n).pool.flag = s.pool.flag := by
  have same : (s.evictSame (s.chan n).policy.routeTag).pool.flag = s.pool.flag := by
    unfold State.evictSame
    split
    · exact evict_flag _ _ _
    · rfl
  have room : ∀ u : State, u.makeRoom.pool.flag = u.pool.flag := fun u => by
    unfold State.makeRoom
    split
    · split
      · exact evict_flag _ _ _
      · rfl
    · rfl
  exact (room _).trans same

/-- Becoming VACANT leaves the flag to the comparison at the event's end (R25, R48). -/
theorem vacate_flag (s : State) (n : ChannelNo) (park : Bool) : (s.vacate n park).pool.flag = s.pool.flag := by
  have stripped : (s.stripped n).pool.flag = s.pool.flag := by
    unfold State.stripped
    rw [freePlayer_pool]
    exact abortOrders_flag s _
  cases park
  · exact stripped
  · exact (park_flag (s.stripped n) n).trans stripped

theorem vacate_free_raised (s : State) (n : ChannelNo) {q : Port} (j : (s.port q).joined = true) :
    s.Raised (s.vacate n false) q (abortNotices (s.ordersOn n) q) [] := by
  refine (stripped_raised s n j).then_same ?_
  rw [vacate_free_eq, modChan_ports, returnSegments_ports, returnSegments_ports]

/-- An event that makes channel `n` VACANT with nothing parked leaves what `State.Vacated` says. -/
theorem vacate_vacated (s : State) (n : ChannelNo) : s.Vacated (s.closeEvent (s.vacate n false)) n := by
  obtain ⟨c, o, m, q, r, ca, pc⟩ := vacate_free s n
  have w := vacate_within s n false
  have nq := closeEvent_chan_of_not_queued s (s.vacate n false) q
  have rc := r.closeEvent s
  refine ⟨w.trans (closeEvent_within _ _), nq.1.trans c, fun k ne => ⟨_, (o k ne).1, closeEvent_chan _ _ k⟩, ?_, nq.2, rc.1,
    rc.2, ?_, ?_, closeEvent_judged s _ (vacate_flag s n false) (by rw [w.config]), fun q j => ?_⟩
  · rw [closeEvent_mover, m]
  · rw [closeEvent_cache, ca]
  · rw [closeEvent_parkCounter, pc]
  · have all := (vacate_free_raised s n j).trans (closeEvent_raised s _ (by rw [w.heard.joined]; exact j))
    rwa [List.append_nil, List.append_nil] at all

theorem State.Vacated.broadcast {s t : State} {n : ChannelNo} (h : s.Vacated t n) (x : Notice)
    (low : x.kind ≠ .poolLow) (recovered : x.kind ≠ .poolRecovered) (done : x.kind ≠ .moveDone)
    (evicted : x.kind ≠ .cacheEvicted) : s.Vacated (t.broadcast x) n := by
  refine ⟨h.within.trans (broadcast_within _ _), ?_, ?_, ?_, ?_, ?_, ?_, ?_, ?_, h.judged.broadcast x low recovered, fun q j => ?_⟩
  · rw [chan_broadcast]; exact h.chan
  · intro m ne; rw [chan_broadcast]; exact h.others m ne
  · simpa using h.orders
  · simpa using h.unqueued
  · simpa using h.free
  · simpa using h.taps
  · simpa using h.cache
  · simpa using h.parkCounter
  · have all := (h.told q j).trans (broadcast_raises_none t (by rw [h.within.heard.joined]; exact j) done evicted)
    rwa [List.append_nil, List.append_nil] at all

end Sys2Proof.Machine
end

