-- ==== Sys2Proof/Tests/Slice0.lean ====
section
/-! SUPPORT. The author's tests: ill-formed terms that the check refuses, the manual's worked examples, and, for every
statement of Certificates/Slice0/Obligations.lean that has hypotheses, states and operands that meet them, clause by
clause. -/

set_option maxRecDepth 100000
set_option Elab.async false

namespace Sys2Proof.Tests

open Sys2Proof.Machine

/-! ### Small states -/

/-- The state a command leaves; every outcome of the model is a next state. -/
def after (c : Instr) (s : State) : State :=
  match exec c s with
  | .next t => t
  | .fault _ | .refused _ => s

/-- Reset, with ports 0 and 1 LIVE. -/
def joined : State :=
  (State.reset.modPort 0 fun r => { r with link := .live, lease := some 250 }).modPort 1 fun r =>
    { r with link := .live, lease := some 250 }

/-- A call of port 0 with 16 near taps and 16 equalizer taps on segments 0 and 1. -/
def call (st : CallState) : Channel :=
  { Channel.vacant with
    state := st, lessee := some 0, origin := some .fresh, profile := ⟨16, 0, 16, some 1⟩
    policy := ⟨7, true, .rollback, .auto, 1, 2, some 4, 2⟩, live := [0, 1] }

/-- The two joined ports, and channel 3 as given. -/
def withCall (c : Channel) : State := (joined.modChan 3 fun _ => c).setFree ((List.range 64).drop 2)

def tracking : State := withCall (call .tracking)
def releasing : State := withCall { call .releasing with parkEligible := some true, drainTimer := some 0 }
def orphaned (prior : PriorState) (strand : Nat) : State :=
  withCall { call .orphaned with
    lessee := none, prior := some prior, holdTimer := some 0, policy := { (call .orphaned).policy with strandTime := strand } }
def stranded : State := withCall { call .stranded with lessee := none, strandTimer := some 0 }

/-- Channel 3 in PROBING on player 0, at a pointer of sequence 1. -/
def probing (paused : Bool) (remaining : Nat) : State :=
  (withCall { call (.training .probing) with player := some 0 }).setPlay 0
    (some ⟨3, 1, 4800 - remaining, remaining, 0, 16, paused, none⟩)

/-- The same with 32 far taps and a locator that found nothing. -/
def probingFar : State :=
  (withCall { call (.training .probing) with player := some 0, profile := ⟨16, 32, 16, some 1⟩, live := [0, 1, 2] }).setPlay 0
    (some ⟨3, 1, 4800, 0, 0, 16, false, some ⟨⟨[0, 5], [0, 1], 9, 9⟩, .zero 2⟩⟩)

def entry (tag segment : Nat) : CacheEntry := ⟨tag, 16, 0, 16, ⟨0, false⟩, [segment, segment + 1], 30, 1, 0⟩

/-- A cache of two entries. -/
def cached : State := joined.setCache [entry 7 700, entry 9 710]

def ready (id : Nat) (segment : Nat) : Snapshot := ⟨id, true, [segment, segment + 1], ⟨0, false⟩, 30, 0⟩

/-- Channel 3 in TRACKING with snapshot 1 READY. -/
def ringed : State := withCall { call .tracking with ring := [ready 1 40], nextSnapshot := 2 }

/-- The order that port 0 has with tag 9: a FILL of four near taps. -/
def fill : Order := ⟨9, 0, .command, false, .fill ⟨3, .live, .near, 0, 4⟩ 5, 4, 0⟩
def capture : Order := ⟨8, 0, .internal, false, .capture 3 1, 32, 0⟩

def locked (s : State) : State := s.modHighway fun h => { h with sync := .locked }

theorem ready_of {s : State} {p : Port} (h : (s.quiet && (s.port p).joined) = true) : s.Ready p := by
  simp only [Bool.and_eq_true] at h
  exact ⟨h.1, h.2⟩

/-! ### Ill-formed terms are refused -/

theorem test_illFormed_params : (Instr.keep 0 0 (List.replicate 61 0)).wellFormed = false := by decide
theorem test_wellFormed_params : (Instr.keep 0 0 (List.replicate 60 0)).wellFormed = true := by decide
theorem test_illFormed_unknown_of_table : (Instr.unknownCommand 0 0x11 0 []).wellFormed = false := by decide
theorem test_illFormed_unknown_zero : (Instr.unknownCommand 0 0 0 []).wellFormed = false := by decide
theorem test_illFormed_badFrame_good : (Instr.badFrame 3 [0x10, 0x21, 0x00, 0xCF] false).wellFormed = false := by decide
theorem test_illFormed_badFrame_read : (Instr.badFrame 3 [0x00, 0x21] false).wellFormed = false := by decide
theorem test_illFormed_read_nothing : (Instr.readTransfer 0 0).wellFormed = false := by decide
theorem test_illFormed_pulse_zero : (Instr.huntPulse (some 0)).wellFormed = false := by decide

/-! ### The worked sequence of section 11.8 -/

theorem test_join_frame : transferCommand 3 [0x10, 0x21, 0x00, 0xCF] false = some (.join 3 0x21 []) := by decide

def sequence11 : State := after (.keep 3 0x22 []) (after (.join 3 0x21 []) State.reset)

theorem test_join_grace : ((after (.join 3 0x21 []) State.reset).port 3).link = .grace
    ∧ ((after (.join 3 0x21 []) State.reset).port 3).lease = some 2000 := by decide +kernel

theorem test_keep_response : (sequence11.port 3).held.map Response.bytes = some [0x00, 0x22, 0x03, 0x02, 0x00, 0xFA, 0xDF]
    ∧ (sequence11.port 3).lease = some 250 := by decide +kernel

theorem test_shortRead_keeps : (after (.readTransfer 3 3) sequence11).port 3
    = { sequence11.port 3 with linkOut := [0x00, 0x22, 0x03] } := by decide +kernel

theorem test_corruptedQuery : transferCommand 3 [0x27, 0x23, 0x01, 0x06, 0xAE] false
    = some (.badFrame 3 [0x27, 0x23, 0x01, 0x06, 0xAE] false) := by decide

theorem test_fullRead_then_empty :
    let s := after (.readTransfer 3 4) (after (.badFrame 3 [0x27, 0x23, 0x01, 0x06, 0xAE] false) sequence11)
    (s.port 3).linkOut = [0x02, 0x23, 0x00, 0xDB] ∧ (s.port 3).held = none
      ∧ ((after (.readTransfer 3 6) s).port 3).linkOut = [0x01, 0x00, 0x00, 0xFF, 0x00, 0x00] := by decide +kernel

/-! ### Arithmetic examples -/

/-- Samples and steps of a list of codes from the start of a play. -/
def decodeAll : List Int → Int → Nat → List (Int × Nat)
  | [], _, _ => []
  | code :: rest, previous, step => decodeCode code previous step :: decodeAll rest (decodeCode code previous step).1
      (decodeCode code previous step).2

theorem test_firstSixCodes : decodeAll [7, 7, -3, 1, 0, -8] 0 16
    = [(112, 32), (336, 64), (144, 64), (208, 32), (208, 16), (80, 32)] := by decide

theorem test_clampedSample : decodeCode 3 32000 2048 = (32767, 2048) := by decide

theorem test_blend_values : [(3, 1000, 200), (4, -1001, 0), (1, 7, 0)].map (fun (w, x, y) =>
    (Work.blend ⟨3, .live, .near, 0, 1⟩ ⟨3, .live, .near, 1, 1⟩ w).value 0 x y) = [some 500, some (-501), some 1] := by decide

theorem test_keyedCopy : [0, 5, 0, -3].map (fun x =>
    (Work.copy ⟨3, .live, .near, 0, 4⟩ ⟨3, .live, .near, 4, 4⟩ true).value 0 x 9) = [none, some 5, none, some (-3)] := by decide

theorem test_expand : (List.range 6).map (fun i =>
    (Work.expand ⟨3, .live, .near, 0, 6⟩ 5 1000 (-1000) false).value i 0 7)
      = [some 1000, some (-1000), some 1000, some (-1000), some (-1000), some (-1000)]
    ∧ (List.range 6).map (fun i => (Work.expand ⟨3, .live, .near, 0, 6⟩ 5 1000 (-1000) true).value i 0 7)
      = [some 1000, none, some 1000, none, none, none] := by decide

/-- Near taps 10, 20, … 80 of channel 3, and a COPY of six of them run offset by offset. -/
def copied (source dest : Nat) : List Tap :=
  let s := tracking.setTaps ((List.range 8).map fun i => (i, (10 * (i + 1) : Nat)))
  let t := (List.range 6).foldl
    (State.moveOffset (.copy ⟨3, .live, .near, source, 6⟩ ⟨3, .live, .near, dest, 6⟩ false)) s
  (List.range 8).map t.pool.taps.read

theorem test_forwardCopy : copied 0 2 = [10, 20, 10, 20, 10, 20, 10, 20] := by decide +kernel
theorem test_backwardCopy : copied 2 0 = [30, 40, 50, 60, 70, 80, 70, 80] := by decide +kernel

/-- The statuses of the level sequence of section 9.6, with the runs and the recovery run. -/
def levels : List Int → LevelRecord → List (LevelStatus × Nat × Nat × Nat)
  | [], _ => []
  | x :: rest, r =>
    let r := r.judge SharedConfig.default 1 x
    (r.status, r.belowWarn, r.belowLoss, r.recovery) :: levels rest r

theorem test_levelSequence : levels [-30, -35, -36, -34, -40, -45, -47, -50, -42, -41, -39, -37, -32, -30, -30, -29] .start
    = [(.normal, 0, 0, 0), (.normal, 1, 0, 0), (.normal, 2, 0, 0), (.low, 3, 0, 0), (.fade, 3, 0, 0), (.fade, 3, 1, 0),
       (.fade, 3, 2, 0), (.loss, 3, 3, 0), (.loss, 3, 0, 0), (.loss, 3, 0, 1), (.loss, 3, 0, 2), (.low, 3, 0, 0),
       (.low, 0, 0, 0), (.low, 0, 0, 1), (.low, 0, 0, 2), (.normal, 0, 0, 0)] := by decide

/-- A full-scale square wave has the level 0 + 6 dB clamped to +3; silence has -70. -/
theorem test_levelEnds : levelOfEnergy (80 * 32767 ^ 2) = 3 ∧ levelOfEnergy (80 * 2 ^ 28) = 0 ∧ levelOfEnergy 0 = -70 := by
  decide +kernel

theorem test_correction : correctionOf 4 4 4 = 32767 ∧ correctionOf (-4) 4 16 = -16384 ∧ correctionOf 5 0 7 = 0 := by
  decide +kernel

/-! ### Allocation: the worked example of section 3.2 -/

/-- Free segments 0..11, and entries 310, 455 and 88. -/
def short : State :=
  (joined.setFree (List.range 12)).setCache
    [⟨310, 64, 128, 32, ⟨0, false⟩, (List.range 7).map (· + 100), 20, 31, 0⟩,
     ⟨455, 128, 256, 64, ⟨0, false⟩, (List.range 14).map (· + 200), 20, 35, 0⟩,
     ⟨88, 32, 64, 32, ⟨0, false⟩, (List.range 4).map (· + 300), 20, 40, 0⟩]

/-- Channel 30, 128/512/64, sequence 1, route tag 88. -/
def attach88 : List Byte := [30, 128, 0x02, 0x00, 64, 1, 0x00, 88, 1, 1, 0, 1, 2, 4, 2]

theorem test_attachEvicts :
    let t := after (.attach 0 5 attach88) short
    t.cache.map CacheEntry.routeTag = [455] ∧ t.pool.free = [303] ∧ t.pool.flag = .low
      ∧ (t.chan 30).live.length = 22 ∧ (t.chan 30).state = .training .probing
      ∧ (t.port 1).queue.map (fun n => (n.kind, n.detail)) =
          [(.cacheEvicted, [0, 310, 7, 1]), (.poolLow, [1, 32])] := by decide +kernel

theorem test_attachNoSpace :
    (((after (.attach 0 5 attach88) (short.setCache (short.cache.drop 2))).port 0).held.map Response.bytes)
      = some [0x0A, 5, 3, 22, 0, 16, 0xC8] := by decide +kernel

/-! ### The ring under pressure: the worked example of section 3.5 -/

def pressed : State :=
  withCall { call .tracking with ring := [ready 1 40, ready 2 42, ready 3 44], nextSnapshot := 4 }

def ids (s : State) : List (Nat × Bool × Nat) := (s.chan 3).ring.map fun r => (r.id, r.ready, r.pins)

theorem test_ringUnderPressure :
    let a := after (.snapshot 0 1 [3]) pressed
    let b := after (.restore 0 2 [3, 2]) a
    let c := after (.snapshot 0 3 [3]) b
    ids a = [(2, true, 0), (3, true, 0), (4, false, 1)] ∧ ids b = [(2, true, 1), (3, true, 0), (4, false, 1)]
      ∧ ids c = [(2, true, 1), (4, false, 1), (5, false, 1)]
      ∧ (c.port 0).held.map Response.payload = some [5, 3, 0, 0]
      ∧ ids (after (.snapshot 0 4 [3]) c) = ids c
      ∧ ((after (.snapshot 0 4 [3]) c).port 0).held.map Response.status = some .busy
      ∧ ((after (.dropSnapshot 0 5 [3, 2]) c).port 0).held.map Response.status = some .busy := by decide +kernel

/-! ### A full queue: the worked sequence of section 10.4 -/

def level (n : ChannelNo) : Notice := ⟨.level, some n, [1, 0, -35]⟩

/-- 31 notices: LEVEL(5), CONVERGED(5), and LEVEL of 29 other channels; LEVEL is masked. -/
def filled : PortRecord :=
  { PortRecord.reset with
    link := .live, lease := some 250, mask := [.level], attn := true
    queue := level 5 :: ⟨.converged, some 5, [30, 90]⟩ :: (((List.finRange 48).drop 10).take 29).map level }

/-- CONTENTION(5), LEVEL(5), SYNC_LOST. -/
def flooded : PortRecord :=
  ((filled.arrive ⟨.contention, some 5, [-20, -40]⟩).arrive ⟨.level, some 5, [2, 1, -40]⟩).arrive
    ⟨.syncLost, none, [12, 1, 0, 7]⟩

theorem test_queueFills : flooded.queue.length = 32 ∧ flooded.overflow = true ∧ flooded.attn = true
    ∧ flooded.queue.head? = some ⟨.level, some 5, [2, 1, -40]⟩
    ∧ flooded.queue.all (fun n => n.kind != .syncLost) = true := by decide +kernel

def flood : State := joined.modPort 1 fun _ => flooded

theorem test_readFullQueue :
    let t := after (.readNotices 1 7 []) flood
    (t.port 1).queue.length = 26 ∧ (t.port 1).overflow = false ∧ (t.port 1).attn = true
      ∧ (t.port 1).held.map (fun r => r.payload.take 3) = some [6, 26, 1]
      ∧ ((after (.discardNotices 1 8 [15]) t).port 1).queue.map Notice.kind = [.contention]
      ∧ ((after (.discardNotices 1 8 [15]) t).port 1).held.map Response.payload = some [25] := by decide +kernel

/-! ### Events -/

/-- A LOCKED frame of a STRANDED channel: Pump-in goes to Line-out and Line-in to Pump-out (Table 2-1). -/
theorem test_strandedFrame :
    let t := after (.lockedFrame (Vector.replicate 48 100) (Vector.replicate 48 (-7))) (locked stranded)
    t.highway.lineOut.get 3 = -7 ∧ t.highway.pumpOut.get 3 = 100 ∧ (t.chan 3).reference = [-7]
      ∧ (t.chan 3).sums = ⟨10000, 0, 10000, 1⟩ ∧ t.highway.lineOut.get 4 = 0 ∧ t.highway.epochFrames = 1 := by
  decide +kernel

/-- A tracking channel with a near tap of 1/2 at delay 0 and the initial equalizer: the echo of 200 is 100. -/
theorem test_cancelledFrame :
    let s := (locked tracking).setTaps [(0, 16384), (40, 32767)]
    let t := after (.lockedFrame (Vector.replicate 48 130) (Vector.replicate 48 200)) s
    (t.chan 3).residuals = [30] ∧ t.highway.pumpOut.get 3 = 0 ∧ (t.chan 3).sums = ⟨16900, 10000, 900, 1⟩ := by
  decide +kernel

theorem test_secondFault :
    let s := (locked joined).modHighway fun h => { h with faultCount := 1, epochFrames := 12 }
    let t := after (.frameBoundary false true) s
    t.highway.sync = .hunting ∧ (t.port 0).queue = [⟨.syncLost, none, [12, 1, 0, 0]⟩] ∧ (t.port 0).attn = true := by
  decide +kernel

theorem test_sixteenthPulse :
    let s := joined.modHighway fun h => { h with runCount := 15, runReference := true }
    let t := after (.huntPulse (some 768)) { s with timebase := 90 }
    t.highway.sync = .locked ∧ (t.port 1).queue = [⟨.syncRestored, none, [90, 0, 0]⟩] := by decide +kernel

theorem test_tick :
    let t := after .timebaseTick (tracking.modChan 3 fun c => { c with state := .releasing, drainTimer := some 50 })
    t.timebase = 1 ∧ (t.port 0).lease = some 249 ∧ (t.chan 3).drainTimer = some 49 := by decide +kernel

theorem test_drainParks :
    let t := after (.drainExpiry 3) releasing
    t.cache.map (fun e => (e.routeTag, e.segments, e.parkNumber)) = [(7, [0, 1], 1)] ∧ (t.chan 3).state = .vacant
      ∧ (t.port 0).queue = [⟨.released, some 3, [0]⟩] := by decide +kernel

theorem test_strandExpires :
    let t := after (.strandExpiry 3) stranded
    (t.chan 3).state = .vacant ∧ (t.port 1).queue.map Notice.detail = [[2, 0xFFFF, 0]] ∧ t.pool.free = List.range 64 := by
  decide +kernel

theorem test_holdStrands :
    let t := after (.holdExpiry 3) (orphaned .tracking 2)
    (t.chan 3).state = .stranded ∧ (t.chan 3).strandTimer = some 2000 ∧ (t.chan 3).prior = none := by decide +kernel

theorem test_endOfPlay :
    let t := after (.endOfPlay 0) probingFar
    (t.chan 3).state = .training .settling ∧ (t.chan 3).player = none ∧ t.play 0 = none
      ∧ (t.chan 3).window = ⟨9, true⟩ := by decide +kernel

theorem test_claim :
    let a := after (.claim 0 1 []) joined
    a.claim = some 0 ∧ (((after (.claim 1 2 []) a).port 1).held.map Response.bytes) = some [0x0D, 2, 1, 0, 0xF0]
      ∧ (after (.yieldClaim 0 3 []) a).claim = none := by decide +kernel

theorem test_setConfig :
    let a := after (.claim 0 1 []) joined
    (after (.setConfig 0 2 [2, 0, 1, 0xF4, 10, 0xE2]) a).config = { SharedConfig.default with leasePeriod := 500, levelWarn := -30 }
      ∧ ((after (.setConfig 0 2 [1, 0, 1, 0xF5]) a).port 0).held.map Response.status = some .badParam := by decide +kernel

theorem test_moveAndCancel :
    let a := after (.move 0 9 [1, 3, 0, 0, 0, 0, 0, 4, 0, 5]) tracking
    a.mover = [fill] ∧ (a.port 0).held.map Response.payload = some [9, 0, 4, 0]
      ∧ (after (.cancelMove 0 1 [9]) a).mover = []
      ∧ ((after (.cancelMove 0 1 [9]) a).port 0).queue = [⟨.moveDone, some 3, [1, 9, 1, 0]⟩] := by decide +kernel

theorem test_retrainGranted :
    let t := after (.retrain 0 1 [3, 1]) tracking
    (t.chan 3).state = .training .probing ∧ (t.chan 3).player = some 0
      ∧ t.pool.taps = [(40, 32767)] ∧ (t.play 0).map Play.remaining = some 4800 := by decide +kernel

theorem test_leaveOrphans :
    let t := { after (.leave 0 1 []) tracking with pending := [] }
    (t.chan 3).state = .orphaned ∧ (t.chan 3).holdTimer = some 40 ∧ (t.chan 3).holdCount = 1 ∧ (t.port 0).link = .absent
      ∧ (t.port 0).held.map Response.payload = some [1, 0, 0]
      ∧ (t.port 1).queue.map Notice.kind = [.channelOrphaned, .portLost] := by decide +kernel

/-- TRACKING is entered by adoption with the live flag clear and the hangover 0 (R69). -/
theorem test_adoptClearsContention :
    let s := (orphaned .tracking 2).modChan 3 fun c => { c with contentionLive := true, hangover := 3 }
    let t := after (.adopt 1 1 [3]) s
    (t.chan 3).state = .tracking ∧ (t.chan 3).contentionLive = false ∧ (t.chan 3).hangover = 0 := by decide +kernel

theorem test_resetPart :
    let t := after (.resetPart 0 4 []) { (tracking.modPort 1 fun _ => .reset) with claim := some 0 }
    (t.chan 3) = .vacant ∧ (t.port 0).link = .absent ∧ (t.port 0).held = some ⟨.ok, 4, []⟩ := by decide +kernel

theorem test_idle : step State.reset = .next State.reset := rfl

/-! ### Witnesses: the hypotheses of each statement are met -/

theorem witness_StepTakesFront : ({ State.reset with pending := [.reset, .noClock] } : State).pending = .reset :: [.noClock]
    ∧ State.reset.pending = [] := ⟨rfl, rfl⟩

/-- A play has ended, so the state is not quiet, and the state after what is due is. -/
theorem witness_DueComesFirst : (Instr.keep 0 1 []).wellFormed = true ∧ probingFar.quiet = false
    ∧ probingFar.settle.quiet = true := by decide +kernel

theorem witness_TransfersReadBack : (Instr.readTransfer 2 5).wellFormed = true
    ∧ transferBytes (.readTransfer 2 5) = some (2, [0, 0, 0, 0, 0], false)
    ∧ (Instr.keep 3 0x22 []).wellFormed = true
    ∧ transferBytes (.keep 3 0x22 []) = some (3, [0x11, 0x22, 0x00, 0xCD], false)
    ∧ (Instr.badFrame 0 [0x11] true).wellFormed = true := by decide

theorem witness_CommandFrameLayout : (0xFF : Byte) ≠ 0 ∧ ([] : List Byte).length ≤ 60
    ∧ (List.replicate 60 (0 : Byte)).length ≤ 60 := by decide

/-- One byte, a part of a byte, a length of 61, a wrong number of bytes, a wrong sum; and a good frame. -/
theorem witness_BadFrameDiscarded :
    [([0x11], false), ([0x10, 0x21, 0x00, 0xCF], true), (0x10 :: 0x21 :: 61 :: List.replicate 62 0, false),
      ([0x10, 0x21, 0x01, 0xCE], false), ([0x10, 0x21, 0x00, 0xCE], false)].map (fun x => isBadTransfer x.1 x.2)
        = [true, true, true, true, true]
    ∧ ([0x10, 0x21, 0x00, 0xCF] : List Byte) ≠ [] ∧ ([0x10, 0x21, 0x00, 0xCF] : List Byte).head? ≠ some 0
    ∧ frameIsBad [0x10, 0x21, 0x00, 0xCF] false = false := by decide

/-- No response held; a response of 7 bytes, clocked out in part, just whole, and beyond. -/
theorem witness_ReadTransferDelivers : (joined.port 0).held = none
    ∧ (sequence11.port 3).held.map (fun r => r.bytes.length) = some 7 ∧ 0 < 1 := by decide +kernel

theorem witness_AcceptanceChecks :
    State.reset.quiet = true ∧ codeInTable 0x13 = false ∧ (0x13 : Byte) ≠ 0 ∧ (State.reset.port 0).link = .absent
    ∧ frameOf (.keep 0 1 []) = some (0, 1, []) ∧ Instr.keep 0 1 [] ≠ .join 0 1 []
    ∧ paramsReadable (.keep 0 1 [5]) = false ∧ paramsReadable (.join 0 1 [5]) = false
    ∧ ([5] : List Byte) ≠ [] ∧ 48 ≤ (48 : Byte).toNat := by decide +kernel

theorem witness_AcceptanceChecks_lessee : joined.Ready 0 ∧ tracking.Ready 1
    ∧ lesseeChannelOf (.release 0 1 [48]) = some 48 ∧ lesseeChannelOf (.release 0 1 [47]) = some (47 : ChannelNo).val
    ∧ (joined.chan 47).lessee = none ∧ lesseeChannelOf (.adapt 1 1 [3, 0, 9]) = some (3 : ChannelNo).val
    ∧ (tracking.chan 3).lessee = some 0 ∧ (0 : Port) ≠ 1 :=
  ⟨ready_of (by decide +kernel), ready_of (by decide +kernel), by decide +kernel⟩

theorem witness_TakenCommandRenews : joined.Ready 0 ∧ frameOf (.query 0 1 [3]) = some (0, 1, [3])
    ∧ Instr.query 0 1 [3] ≠ .leave 0 1 [3] ∧ Instr.query 0 1 [3] ≠ .resetPart 0 1 [3] :=
  ⟨ready_of (by decide +kernel), by decide⟩

theorem witness_JoinTakesPort : joined.quiet = true ∧ (joined.port 2).link = .absent ∧ (joined.port 0).joined = true := by
  decide +kernel

theorem witness_KeepAndLeave : tracking.Ready 0 := ready_of (by decide +kernel)

theorem witness_LeaseExpiryLosesPort :
    let s := tracking.modPort 0 fun r => { r with lease := some 0 }
    s.quiet = true ∧ (s.port 0).joined = true ∧ (s.port 0).lease = some 0 ∧ (s.port 1).lease ≠ some 0 := by decide +kernel

/-- The lease of a port expires that has a release to park. -/
theorem witness_LeaseExpiryLosesPort_parks :
    let s := releasing.modPort 0 fun r => { r with lease := some 0 }
    s.quiet = true ∧ (s.port 0).joined = true ∧ (s.port 0).lease = some 0 ∧ (s.cache.map CacheEntry.routeTag).Nodup
      ∧ (allChannels.filter fun n => (s.chan n).lessee == some 0 && (s.chan n).state == .releasing
        && (s.chan n).parkEligible == some true) = [3] := by decide +kernel

theorem witness_HoldAndStrandExpiry :
    [0, 1, 15].map (fun strand => ((orphaned .tracking strand).quiet, ((orphaned .tracking strand).chan 3).state,
        ((orphaned .tracking strand).chan 3).holdTimer, ((orphaned .tracking strand).chan 3).policy.strandTime))
      = [0, 1, 15].map (fun strand => (true, .orphaned, some 0, strand))
    ∧ stranded.quiet = true ∧ (stranded.chan 3).state = .stranded ∧ (stranded.chan 3).strandTimer = some 0
    ∧ (stranded.port 1).joined = true := by decide +kernel

theorem witness_DrainExpiryEndsRelease : releasing.quiet = true ∧ (releasing.chan 3).state = .releasing
    ∧ (releasing.chan 3).drainTimer = some 0 ∧ (releasing.chan 3).parkEligible = some true
    ∧ (releasing.chan 3).lessee = some 0 ∧ (releasing.port 0).joined = true
    ∧ (releasing.cache.map CacheEntry.routeTag).Nodup := by decide +kernel

/-- The park replaces an entry and finds room: the abort of the order that touched the channel, REPLACED, RELEASED. -/
theorem test_parkTellsReplaced :
    let tag := (releasing.chan 3).policy.routeTag
    ((after (.drainExpiry 3) ((releasing.setCache [entry tag 700]).setMover [fill])).port 0).queue
      = [⟨.moveDone, some 3, [2, 9, 1, 0]⟩, ⟨.cacheEvicted, none, [1, tag, 2, 0]⟩, ⟨.released, some 3, [0]⟩] := by
  decide +kernel

/-- Where 16 others are held the oldest leaves: FULL, with 15 left. -/
theorem test_parkTellsFull :
    ((after (.drainExpiry 3) (releasing.setCache ((List.range 16).map fun i => entry (500 + i) (100 + 2 * i)))).port 0).queue
      = [⟨.cacheEvicted, none, [2, 500, 2, 15]⟩, ⟨.released, some 3, [0]⟩] := by
  decide +kernel

/-- The same release where the decision was FREE. -/
theorem witness_DrainExpiryEndsRelease_free :
    let s := releasing.modChan 3 fun c => { c with parkEligible := some false }
    s.quiet = true ∧ (s.chan 3).state = .releasing ∧ (s.chan 3).drainTimer = some 0
      ∧ (s.chan 3).parkEligible ≠ some true := by decide +kernel

theorem witness_AdoptTakesLease : (orphaned .tracking 2).Ready 1 ∧ (orphaned .tracking 2).Granted
    ∧ tracking.Ready 1 ∧ tracking.Granted ∧ stranded.Ready 1 ∧ stranded.Granted
    ∧ (orphaned (.training .queued) 2).Ready 1 ∧ (orphaned (.training .queued) 2).Granted
    ∧ (tracking.chan 3).state = .tracking ∧ (stranded.chan 3).state = .stranded
    ∧ ((orphaned .tracking 2).chan 3).state = .orphaned ∧ ((orphaned .tracking 2).chan 3).prior = some .tracking
    ∧ ((orphaned (.training .queued) 2).chan 3).prior = some (.training .queued)
    ∧ ((orphaned (.training .stalled) 2).chan 3).prior = some (.training .stalled)
    ∧ (joined.port 0).joined = true :=
  ⟨ready_of (by decide +kernel), .inl rfl, ready_of (by decide +kernel), .inl rfl, ready_of (by decide +kernel), .inl rfl,
    ready_of (by decide +kernel), .inl rfl, by decide +kernel⟩

theorem witness_ClaimAndYield : joined.Ready 0 ∧ (joined.setClaim (some 1)).Ready 0 :=
  ⟨ready_of (by decide +kernel), ready_of (by decide +kernel)⟩

/-- Accepted; refused for the claim, an empty list, a value named twice, one off its step, an ordering broken. -/
theorem witness_SetConfigWrites : (joined.setClaim (some 0)).Ready 0 ∧ joined.Ready 0 ∧ (joined.setClaim (some 0)).Granted
    ∧ parseSetConfig [1, 8, 240] = some [(.cacheLifetime, 240)] ∧ ConfigParam.cacheLifetime.allows 240 = true
    ∧ (SharedConfig.default.writeAll [(.cacheLifetime, 240)]).ordered = true
    ∧ parseSetConfig [0] = some [] ∧ parseSetConfig [2, 8, 240, 8, 1] = some [(.cacheLifetime, 240), (.cacheLifetime, 1)]
    ∧ parseSetConfig [1, 0, 1, 0xF5] = some [(.leasePeriod, 501)] ∧ ConfigParam.leasePeriod.allows 501 = false
    ∧ parseSetConfig [1, 5, 8] = some [(.fastStep, 8)]
    ∧ (SharedConfig.default.writeAll [(.fastStep, 8), (.trackingStep, 8)]).ordered = false :=
  ⟨ready_of (by decide +kernel), ready_of (by decide +kernel), .inl rfl, by decide⟩

theorem witness_GetConfigReports : joined.Ready 0 := ready_of (by decide +kernel)

theorem witness_ResetPartResets : joined.Ready 0 ∧ (joined.setClaim (some 0)).Ready 0
    ∧ ((joined.setClaim (some 0)).modPort 1 fun _ => .reset).Ready 0
    ∧ ∃ q : Port, q ≠ 0 ∧ ((joined.setClaim (some 0)).port q).joined = true :=
  ⟨ready_of (by decide +kernel), ready_of (by decide +kernel), ready_of (by decide +kernel), 1, by decide +kernel⟩

/-- Channel 30, 16/0/16, sequence 1, route tag 7. -/
def attach7 : List Byte := [30, 16, 0, 0, 16, 1, 0, 7, 1, 1, 0, 1, 2, 4, 2]
def params7 : AttachParams := ⟨30, 16, 0, 16, 1, 7, 1, 1, 0, 1, 2, 4, 2⟩
def policy7 : Policy := ⟨7, true, .retrain, .auto, 1, 2, some 4, 2⟩

theorem witness_AttachFresh : joined.Ready 0 ∧ parseAttach attach7 = some params7 ∧ params7.channel = (30 : ChannelNo).val
    ∧ (joined.chan 30).state = .vacant ∧ params7.check = some (⟨16, 0, 16, some 1⟩, policy7)
    ∧ (Config.directory params7.sequence).length ≠ 0 ∧ joined.resumable ⟨16, 0, 16, some 1⟩ policy7 = none
    ∧ (⟨16, 0, 16, some 1⟩ : Profile).segments ≤ joined.pool.free.length + joined.cacheSegments
    ∧ joined.pool.taps.wf = true ∧ joined.pool.free.Nodup :=
  ⟨ready_of (by decide +kernel), by decide +kernel, by decide +kernel, by decide +kernel, by decide +kernel,
    by decide +kernel, by decide +kernel, by decide +kernel, by decide +kernel, List.nodup_range⟩

/-- An ATTACH that must evict: no free segment, and a cache of 4. -/
theorem witness_AttachFresh_evicting :
    let s := cached.setFree []
    let profile : Profile := ⟨32, 0, 16, some 1⟩
    s.resumable profile policy7 = none ∧ s.pool.free.length < profile.segments
      ∧ profile.segments ≤ s.pool.free.length + s.cacheSegments ∧ s.quiet = true := by decide +kernel

/-- Two of three entries go for a need of 22. -/
theorem witness_EvictionOrder : (cached.cache.map CacheEntry.routeTag).Nodup ∧ (short.cache.map CacheEntry.routeTag).Nodup
    ∧ (short.evictFor 22 88).cache.map CacheEntry.routeTag = [455] := by decide +kernel

theorem witness_AttachResumes : cached.Ready 0 ∧ parseAttach attach7 = some params7 ∧ params7.channel = (30 : ChannelNo).val
    ∧ (cached.chan 30).state = .vacant ∧ params7.check = some (⟨16, 0, 16, some 1⟩, policy7)
    ∧ (Config.directory params7.sequence).length ≠ 0 ∧ policy7.routeTag ≠ 0
    ∧ cached.cacheEntry? policy7.routeTag = some (entry 7 700) ∧ (entry 7 700).near = 16 ∧ (entry 7 700).far = 0
    ∧ (entry 7 700).eq = 16 :=
  ⟨ready_of (by decide +kernel), by decide +kernel⟩

/-- Channel 48; a channel in use; a near count of 24; sequence 12; and no room. -/
theorem witness_AttachRefusals : tracking.Ready 0 ∧ parseAttach attach7 = some params7
    ∧ { params7 with channel := 48 }.channel = 48 ∧ (tracking.chan 3).state ≠ .vacant
    ∧ { params7 with near := 24 }.check = none
    ∧ ({ params7 with sequence := 12 }.check.isSome ∧ (Config.directory 12).length = 0)
    ∧ (joined.setFree [5]).resumable ⟨16, 0, 16, some 1⟩ policy7 = none
    ∧ (joined.setFree [5]).pool.free.length + (joined.setFree [5]).cacheSegments
        < (⟨16, 0, 16, some 1⟩ : Profile).segments ∧ (joined.setFree [5]).quiet = true :=
  ⟨ready_of (by decide +kernel), by decide +kernel⟩

theorem witness_ReleaseStartsDrain : tracking.Ready 0 ∧ (tracking.chan 3).lessee = some 0
    ∧ (tracking.chan 3).state.inCall = true ∧ releasing.Ready 0 ∧ (releasing.chan 3).lessee = some 0
    ∧ (releasing.chan 3).state = .releasing
    ∧ (probing false 9).quiet = true ∧ ((probing false 9).chan 3).player = some 0 ∧ (probing false 9).probeQueue = [] :=
  ⟨ready_of (by decide +kernel), by decide +kernel, by decide +kernel, ready_of (by decide +kernel), by decide +kernel⟩

theorem witness_RetrainRequeues : tracking.Ready 0 ∧ (tracking.chan 3).lessee = some 0
    ∧ (tracking.chan 3).state.inCall = true ∧ 1 < (2 : Byte).toNat ∧ (1 : Byte).toNat ≤ 1 ∧ tracking.pool.taps.wf = true
    ∧ (tracking.chan 3).live.Nodup ∧ (tracking.chan 3).live.length = (tracking.chan 3).profile.segments
    ∧ releasing.Ready 0 ∧ (releasing.chan 3).lessee = some 0 ∧ (releasing.chan 3).state = .releasing :=
  ⟨ready_of (by decide +kernel), by decide +kernel, by decide +kernel, by decide +kernel, by decide +kernel,
    by decide +kernel, by decide +kernel, by decide +kernel, ready_of (by decide +kernel), by decide +kernel⟩

/-- With no idle player the channel waits at the back, its old place given up. -/
theorem test_retrain_back_of_queue :
    let play : Play := ⟨9, 1, 0, 4800, 0, 16, false, none⟩
    let s : State := { withCall (call (.training .queued)) with probeQueue := [3, 7, 12] }
    let busy := allPlayers.foldl (fun u k => u.setPlay k (some play)) s
    busy.Ready 0 ∧ busy.idleCount none = 0 ∧ (after (.retrain 0 1 [3, 0]) busy).probeQueue = [7, 12, 3] :=
  ⟨ready_of (by decide +kernel), by decide +kernel⟩

theorem witness_SetPolicyWrites : tracking.Ready 0 ∧ (tracking.chan 3).lessee = some 0
    ∧ parseSetPolicy [3, 2, 5, 1, 7, 15] = some ((3 : ChannelNo).val, [(.holdLimit, 1), (.strandTime, 15)])
    ∧ (tracking.chan 3).policy.writeAll [(.holdLimit, 1), (.strandTime, 15)]
        = some { (call .tracking).policy with holdLimit := 1, strandTime := 15 }
    ∧ (tracking.chan 3).policy.writeAll [(.holdLimit, 8)] = none
    ∧ (tracking.chan 3).state.inCall = true ∧ releasing.Ready 0 ∧ (releasing.chan 3).lessee = some 0
    ∧ (releasing.chan 3).state = .releasing :=
  ⟨ready_of (by decide +kernel), by decide +kernel, by decide +kernel, by decide +kernel, by decide +kernel,
    by decide +kernel, ready_of (by decide +kernel), by decide +kernel⟩

theorem witness_ClearHoldsAndAdapt : tracking.Ready 0 ∧ (tracking.chan 3).lessee = some 0
    ∧ (tracking.chan 3).state.inCall = true ∧ releasing.Ready 0 ∧ (releasing.chan 3).lessee = some 0
    ∧ (releasing.chan 3).state = .releasing :=
  ⟨ready_of (by decide +kernel), by decide +kernel, by decide +kernel, ready_of (by decide +kernel), by decide +kernel⟩

theorem witness_ReadingsChangeNothing : tracking.Ready 1 := ready_of (by decide +kernel)

theorem witness_PauseAndResume : (probing true 9).Ready 0 ∧ (probing false 9).Ready 0
    ∧ ((probing true 9).chan 3).lessee = some 0 ∧ ((probing true 9).chan 3).state = .training .probing
    ∧ ((probing true 9).chan 3).player = some 0 ∧ ((probing true 9).play 0).map Play.paused = some true
    ∧ ((probing false 9).play 0).map Play.paused = some false
    ∧ tracking.Ready 0 ∧ (tracking.chan 3).lessee = some 0 ∧ (tracking.chan 3).state ≠ .training .probing :=
  ⟨ready_of (by decide +kernel), ready_of (by decide +kernel), by decide +kernel, by decide +kernel, by decide +kernel,
    by decide +kernel, by decide +kernel, ready_of (by decide +kernel), by decide +kernel⟩

theorem witness_EndOfPlaySettles :
    ((probing false 0).play 0).map Play.remaining = some 0 ∧ ((probing false 0).play 0).map Play.locator = some none
    ∧ (probingFar.play 0).map Play.remaining = some 0 ∧ (probingFar.play 0).bind Play.locator ≠ none
    ∧ (3 : ChannelNo) ∉ probingFar.probeQueue ∧ probingFar.probeQueue = [] ∧ probingFar.pool.taps.wf = true
    ∧ (probingFar.chan 3).live.Nodup ∧ (probingFar.chan 3).live.length = (probingFar.chan 3).profile.segments := by
  decide +kernel

/-- A correlation of 5 on energies 1 and 9 is the peak of two candidates. -/
theorem witness_EndOfPlaySettles_peak : (⟨[0, 5], [0, 1], 9, 9⟩ : LocatorSums).peak = (1, 0) := by decide +kernel

/-- A channel waits, and no player is IDLE but for the play that ends. -/
theorem witness_EndOfPlaySettles_grant :
    let s := (((probing false 0).setPlay 1 ((probing false 9).play 0)).setPlay 2 ((probing false 9).play 0)).setPlay 3
      ((probing false 9).play 0)
    (s.setProbeQueue [5]).idlePlayer = none ∧ (s.setProbeQueue [5]).probeQueue = 5 :: [] := by decide +kernel

theorem witness_ProbeDecode : ((probing false 9).play 0).any (fun play => decide (-32768 ≤ play.previous)
    && decide (play.previous ≤ 32767) && decide (16 ≤ play.step) && decide (play.step ≤ 2048)) = true := by decide +kernel

/-- A silent epoch in TRACKING: an update epoch, unless an order touched the live taps. -/
theorem witness_UpdateEpochActs :
    let c₀ := { call .tracking with sums := ⟨0, 0, 0, 80⟩, marks := ⟨80, false, false⟩ }
    tracking.updateEpoch c₀ 3 = true ∧ tracking.updateEpoch { c₀ with marks := ⟨80, false, true⟩ } 3 = false
      ∧ tracking.pool.taps.wf = true ∧ (tracking.chan 3).live.Nodup
      ∧ (tracking.chan 3).live.length = (tracking.chan 3).profile.segments ∧ (tracking.chan 3).state = .tracking := by
  decide +kernel

/-- Pairs whose correction is not 0. -/
theorem witness_UpdateEpochActs_correction : (([(3, 4), (0, 3)] : List (Sample × Sample)).map fun p => p.1 ^ 2).sum
      * (([(3, 4), (0, 3)] : List (Sample × Sample)).map fun p => p.2 ^ 2).sum ≠ 0
    ∧ correctionOfPairs [(3, 4), (0, 3)] = 26214 ∧ 0 < 2 ^ 9 := by decide +kernel

theorem witness_DetectorAndFreeze : (tracking.chan 3).state = .tracking ∧ (releasing.chan 3).state ≠ .tracking
    ∧ (stranded.chan 3).state = .stranded
    ∧ contentionResult tracking.config.contentionMargin ⟨30, -18, -30⟩ = true
    ∧ contentionResult tracking.config.contentionMargin ⟨30, -24, -30⟩ = false := by decide +kernel

theorem witness_TrainingJudged : ((withCall (call (.training .settling))).chan 3).state = .training .settling
    ∧ ((withCall (call (.training .stalled))).chan 3).state = .training .stalled
    ∧ ((probing false 9).chan 3).state = .training .probing := by decide +kernel

theorem witness_ProvingAndDivergence :
    let proved := withCall { call .tracking with proving := some 0, goodRun := 8 }
    let diverged := ringed.modChan 3 fun c => { c with badRun := 16 }
    (proved.chan 3).state = .tracking ∧ (proved.chan 3).proving = some 0
    ∧ (diverged.chan 3).state = .tracking ∧ (diverged.chan 3).proving = none ∧ 16 ≤ (diverged.chan 3).badRun
    ∧ (diverged.chan 3).policy.recovery = .rollback ∧ (diverged.chan 3).guard = none
    ∧ (diverged.chan 3).rollback = none ∧ (diverged.chan 3).lessee = some 0 ∧ diverged.mover.length < 16
    ∧ (diverged.chan 3).ring = [] ++ ready 1 40 :: [] ∧ (ready 1 40).ready = true
    ∧ (tracking.chan 3).badRun < 16 := by decide +kernel

/-- With room in ring and pool; a full ring to recycle from; a full ring all pinned. -/
theorem witness_SnapshotCreates : tracking.Ready 0 ∧ tracking.Granted ∧ (tracking.chan 3).lessee = some 0
    ∧ (tracking.chan 3).ring.length < 3 ∧ (tracking.chan 3).live.length ≤ tracking.pool.free.length
    ∧ pressed.Ready 0 ∧ pressed.Granted ∧ (pressed.chan 3).lessee = some 0 ∧ (pressed.chan 3).ring.length = 3
    ∧ (pressed.chan 3).ring.find? (fun r => r.ready && r.pins == 0) = some (ready 1 40)
    ∧ (pressed.chan 3).ring.length < 255 ∧ 1 ≤ (pressed.chan 3).nextSnapshot ∧ (pressed.chan 3).nextSnapshot ≤ 255
    ∧ ((ringed.modChan 3 fun c => { c with ring := c.ring.map fun r => { r with pins := 1 } }).setFree []).quiet = true :=
  ⟨ready_of (by decide +kernel), .inl rfl, by decide +kernel, by decide +kernel, by decide +kernel,
    ready_of (by decide +kernel), .inl rfl, by decide +kernel⟩

theorem witness_RestoreEnqueues : ringed.Ready 0 ∧ (ringed.chan 3).lessee = some 0
    ∧ (ringed.chan 3).ring.find? (fun r => r.id == (1 : Byte).toNat) = some (ready 1 40) ∧ ringed.mover.length < 16 :=
  ⟨ready_of (by decide +kernel), by decide +kernel⟩

theorem witness_DropSnapshotFrees : ringed.Ready 0 ∧ ringed.Granted ∧ (ringed.chan 3).lessee = some 0
    ∧ (ringed.chan 3).ring.find? (fun r => r.id == (1 : Byte).toNat) = some (ready 1 40) ∧ ¬0 < (ready 1 40).pins :=
  ⟨ready_of (by decide +kernel), .inl rfl, by decide +kernel⟩

/-- A FILL of four near taps by its lessee; by another port; with a weight out of range; of channel 48. -/
theorem witness_MoveEnqueues : tracking.Ready 0 ∧ tracking.Ready 1
    ∧ parseMove [1, 3, 0, 0, 0, 0, 0, 4, 0, 5] = some (.fill ⟨3, 0, 0, 0, 4⟩ 5)
    ∧ (MoveParams.fill ⟨3, 0, 0, 0, 4⟩ 5).inRange = true ∧ (MoveParams.fill ⟨3, 0, 0, 0, 4⟩ 5).work? = some fill.work
    ∧ tracking.moveRefusal 0 fill.work = none ∧ tracking.moveRefusal 1 fill.work = some .notLessee
    ∧ (MoveParams.blend ⟨3, 0, 0, 0, 4⟩ ⟨3, 0, 0, 0, 4⟩ 9).inRange = false
    ∧ (MoveParams.fill ⟨48, 0, 0, 0, 4⟩ 5).work? = none :=
  ⟨ready_of (by decide +kernel), ready_of (by decide +kernel), by decide +kernel⟩

theorem witness_MoveRefusals :
    let w (id : Nat) : Work := .copy ⟨3, .snapshot id, .near, 0, 4⟩ ⟨3, .live, .near, 0, 4⟩ false
    let filling := ringed.modChan 3 fun c => { c with ring := c.ring.map fun r => { r with ready := false } }
    ringed.moveRefusal 0 (w 1) = none ∧ ringed.moveRefusal 0 (w 2) = some .notFound
      ∧ filling.moveRefusal 0 (w 1) = some .wrongState ∧ ringed.moveRefusal 1 (w 1) = some .notLessee
      ∧ ringed.moveRefusal 0 (.fill ⟨3, .live, .near, 13, 4⟩ 0) = some .badParam
      ∧ (ringed.setMover (List.replicate 6 fill)).moveRefusal 0 (w 1) = some .busy := by decide +kernel

theorem witness_CancelMoveEndsOldest : (tracking.setMover [capture, fill, fill]).Ready 0
    ∧ (tracking.setMover [capture, fill, fill]).Granted
    ∧ (tracking.setMover [capture, fill, fill]).mover = [capture] ++ fill :: [fill] ∧ fill.port = 0 ∧ fill.tag = 9
    ∧ (∀ x ∈ [capture], x.port = 0 → x.tag ≠ 9)
    ∧ tracking.Ready 0 ∧ tracking.Granted ∧ tracking.mover = [] :=
  ⟨ready_of (by decide +kernel), .inl rfl, rfl, rfl, rfl, by decide, ready_of (by decide +kernel), .inl rfl, rfl⟩

/-- A CAPTURE in flight whose record is FILLING and pinned; and the rollback order of the channel. -/
def filling : State :=
  (withCall { call .tracking with ring := [{ ready 1 40 with ready := false, pins := 1 }] }).setMover [capture]
def rollingBack : State :=
  (ringed.modChan 3 fun c => { c with rollback := some true, ring := c.ring.map fun r => { r with pins := 1 } }).setMover
    [rollbackOrder 3 0 (ringed.chan 3) (ready 1 40)]

/-- The release of its channel discards the record and frees its two segments alone (R16, R54). -/
theorem witness_ReleaseStartsDrain_capture :
    let s : State := filling.setFree [3, 90]
    s.Ready 0 ∧ (s.chan 3).lessee = some 0 ∧ (s.chan 3).state.inCall = true ∧ s.ordersOn 3 = [capture]
      ∧ ((after (.release 0 1 [3]) s).chan 3).ring = [] ∧ (after (.release 0 1 [3]) s).pool.free = [3, 40, 41, 90] :=
  ⟨ready_of (by decide +kernel), by decide +kernel⟩

theorem witness_CancelMoveEndsOldest_capture : filling.Ready 0 ∧ filling.Granted ∧ filling.mover = [] ++ capture :: []
    ∧ capture.port = 0 ∧ capture.tag = 8 ∧ capture.work = .capture 3 1 ∧ (filling.chan 3).ring.length = 1
    ∧ ((after (.cancelMove 0 1 [8]) filling).chan 3).ring = [] :=
  ⟨ready_of (by decide +kernel), .inl rfl, rfl, rfl, rfl, rfl, by decide +kernel⟩

theorem witness_CancelMoveEndsOldest_rollback : rollingBack.Ready 0 ∧ rollingBack.Granted
    ∧ rollingBack.mover = [] ++ rollbackOrder 3 0 (ringed.chan 3) (ready 1 40) :: []
    ∧ ((after (.cancelMove 0 1 [3]) rollingBack).chan 3).rollback = none
    ∧ ((after (.cancelMove 0 1 [3]) rollingBack).chan 3).ring = [ready 1 40] :=
  ⟨ready_of (by decide +kernel), .inl rfl, rfl, by decide +kernel⟩

theorem witness_ListCommandsReport : cached.Ready 0 ∧ 15 < (16 : Byte).toNat ∧ ¬15 < (15 : Byte).toNat :=
  ⟨ready_of (by decide +kernel), by decide⟩

/-- In the window of a lifetime of 240 minutes: the aged entries leave, and are told of, before the list is read. -/
theorem witness_ListCommandsReport_due :
    let fresh : CacheEntry := { entry 9 710 with parkTime := 60000 }
    let config := { cached.config with cacheLifetime := 240 }
    let s : State := { cached with timebase := 14400000, config := config, cache := [entry 7 700, fresh] }
    s.Ready 0 ∧ s.aged (entry 7 700) = true ∧ s.aged fresh = false
      ∧ (after .cacheAged s).cache = [fresh]
      ∧ (((after (.cacheList 0 1 [0]) s).port 0).held.map fun r => r.payload) =
          some [1, 0, 2, 240, 1, 0, 0, 9, 16, 0, 0, 16, 30, 239] :=
  ⟨ready_of (by decide +kernel), by decide +kernel⟩

theorem witness_OneOffsetMoves : tracking.pool.taps.wf = true ∧ tracking.regionTap fill.work.dest 3 = some 3
    ∧ ringed.regionTap capture.work.dest 31 = some (32 * 41 + 15) := by decide +kernel

theorem witness_OrderCompletes : (tracking.setMover [{ fill with progress := 4 }]).quiet = true
    ∧ (tracking.setMover [{ fill with progress := 4 }]).Granted
    ∧ (tracking.setMover [{ fill with progress := 4 }]).mover = { fill with progress := 4 } :: []
    ∧ { fill with progress := 4 }.total ≤ 4 ∧ fill.progress < fill.total
    ∧ ((tracking.setMover [fill]).port fill.port).joined = true :=
  ⟨by decide +kernel, .inl rfl, rfl, by decide, by decide, by decide +kernel⟩

/-- A CAPTURE and a rollback order at their totals. -/
theorem witness_OrderCompletes_capture : (filling.setMover [{ capture with progress := 32 }]).quiet = true
    ∧ (filling.setMover [{ capture with progress := 32 }]).Granted ∧ capture.total ≤ 32
    ∧ ((after .orderComplete (filling.setMover [{ capture with progress := 32 }])).chan 3).ring = [ready 1 40] :=
  ⟨by decide +kernel, .inl rfl, by decide, by decide +kernel⟩

theorem witness_OrderCompletes_rollback :
    let o := { rollbackOrder 3 0 (ringed.chan 3) (ready 1 40) with progress := 32 }
    (rollingBack.setMover [o]).quiet = true ∧ (rollingBack.setMover [o]).Granted ∧ o.total ≤ o.progress
      ∧ ((after .orderComplete (rollingBack.setMover [o])).chan 3).guard = some 100
      ∧ ((after .orderComplete (rollingBack.setMover [o])).chan 3).rollback = none :=
  ⟨by decide +kernel, .inl rfl, by decide +kernel⟩

theorem witness_CachePurgeRemoves : cached.Ready 0 ∧ cached.Granted
    ∧ cached.cache.find? (fun e => e.routeTag == (0 : Byte).toNat * 256 + (9 : Byte).toNat) = some (entry 9 710)
    ∧ cached.cache.find? (fun e => e.routeTag == (1 : Byte).toNat * 256 + (9 : Byte).toNat) = none :=
  ⟨ready_of (by decide +kernel), .inl rfl, by decide +kernel⟩

theorem witness_AgedEntriesLeave : ({ cached with timebase := 1800000 } : State).quiet = true
    ∧ ({ cached with timebase := 1800000 } : State).Granted
    ∧ ({ cached with timebase := 1800000 } : State).aged (entry 7 700) = true
    ∧ cached.cache.all (fun e => !cached.aged e) = true ∧ (cached.cache.map CacheEntry.routeTag).Nodup :=
  ⟨by decide +kernel, .inl rfl, by decide +kernel⟩

theorem witness_NoticeArrives : filled.queue.any (fun x => decide (x.key = (level 5).key)) = true
    ∧ filled.queue.any (fun x => decide (x.key = (level 6).key)) = false ∧ filled.queue.length < 32
    ∧ flooded.queue.any (fun x => decide (x.key = (level 6).key)) = false ∧ 32 ≤ flooded.queue.length := by decide +kernel

theorem witness_ReadNoticesReturns : flood.Ready 1 := ready_of (by decide +kernel)

theorem witness_MaskNoticesReplaces : flood.Ready 1 ∧ ([1, 19] : List Byte).length ≤ 19
    ∧ (∀ code ∈ ([1, 19] : List Byte), 1 ≤ code.toNat ∧ code.toNat ≤ 19)
    ∧ ¬(∀ code ∈ ([0] : List Byte), 1 ≤ code.toNat ∧ code.toNat ≤ 19) ∧ ¬(List.replicate 20 (1 : Byte)).length ≤ 19 :=
  ⟨ready_of (by decide +kernel), by decide⟩

theorem witness_DiscardNoticesRemoves : flood.Ready 1 ∧ NoticeKind.level.code = (15 : Byte).toNat ∧ 19 < (20 : Byte).toNat :=
  ⟨ready_of (by decide +kernel), by decide⟩

theorem witness_LockedFrameForms : (locked tracking).quiet = true ∧ (locked tracking).highway.sync = .locked := by
  decide +kernel

theorem witness_LockedFrameForms_players : (locked (probing false 9)).PlayersSound := by
  have h : ∀ n : ChannelNo, ∀ k : PlayerNo, ((locked (probing false 9)).chan n).player = some k →
      ((locked (probing false 9)).play k).map Play.channel = some n := by decide +kernel
  exact h

/-- A player that plays, and one that is PAUSED. -/
theorem witness_LockedFrameForms_probing : [true, false].map (fun paused =>
      (((locked (probing paused 9)).chan 3).state, ((locked (probing paused 9)).chan 3).player,
        ((locked (probing paused 9)).play 0).map Play.paused, (locked (probing paused 9)).quiet))
    = [true, false].map fun paused => (.training .probing, some 0, some paused, true) := by decide +kernel

theorem witness_BoundaryJudged : (locked joined).quiet = true ∧ (locked joined).highway.sync = .locked
    ∧ (locked joined).highway.faultCount = 0
    ∧ ((locked joined).modHighway fun h => { h with faultCount := 1 }).highway.faultCount ≠ 0
    ∧ (false && !true) = false ∧ joined.highway.sync = .hunting ∧ joined.quiet = true := by decide +kernel

/-- A run count of 15 and a spacing of 768 make 16; any other spacing makes 0. -/
theorem witness_HuntLocks :
    let s := joined.modHighway fun h => { h with runCount := 15, runReference := true }
    s.quiet = true ∧ s.highway.sync = .hunting ∧ s.highway.runReference = true ∧ s.highway.runCount + 1 = 16 := by
  decide +kernel

theorem witness_EpochEnds :
    let s := (locked tracking).modHighway fun h => { h with epochFrames := 80 }
    s.highway.sync = .locked ∧ 80 ≤ s.highway.epochFrames ∧ (∀ k, s.play k = none)
      ∧ (s.chan 3).state ≠ .vacant ∧ (s.chan 3).state ≠ .stranded := by decide +kernel

/-- A head order that goes on, and one that completes; each writes its offsets. -/
theorem witness_EpochEnds_mover :
    let long : Order := { fill with work := .fill ⟨3, .live, .near, 0, 600⟩ 5, total := 600 }
    let s := tracking.setMover [fill]
    (tracking.setMover [long]).mover = long :: [] ∧ long.progress + 256 < long.total
      ∧ s.mover = fill :: [] ∧ fill.total ≤ fill.progress + 256 ∧ s.advanceHead.mover = []
      ∧ (s.advanceHead.tap 3 .live .near 3 = 5 ∧ s.advanceHead.tap 3 .live .near 4 = 0)
      ∧ (s.port fill.port).joined = true := by decide +kernel

theorem witness_LevelJudged :
    let s := withCall { call .tracking with sums := ⟨0, 0, 0, 80⟩ }
    (s.chan 3).handed = some ⟨0, -70, -70⟩ ∧ (s.chan 3).state ≠ .vacant := by decide +kernel

theorem witness_TickCounts : tracking.quiet = true ∧ (∀ p, tracking.leaseDue p = false)
    ∧ (∀ n, tracking.drainDue n = false ∧ tracking.holdDue n = false ∧ tracking.strandDue n = false)
    ∧ (∀ e ∈ tracking.cache, tracking.aged e = false) ∧ tracking.Granted := by
  refine ⟨by decide +kernel, by decide +kernel, by decide +kernel, by decide +kernel, .inl rfl⟩

/-- A lease that is due, and nothing due after what is due has been taken. -/
theorem witness_TickCounts_due :
    let s := tracking.modPort 0 fun r => { r with lease := some 0 }
    s.quiet = true ∧ s.leaseDue 0 = true ∧ s.takeExpiries.quiet = true ∧ (s.takeExpiries.chan 3).state = .orphaned := by
  decide +kernel

/-- Two joined ports, one call in TRACKING on segments 0 and 1, every other segment free, and a command that waits. -/
def oneCall : State := { tracking.setFree ((List.range 768).drop 2) with pending := [.noClock] }

theorem oneCall_calls : oneCall.CallsSound where
  holders x := by
    have e : (oneCall.pool.free ++ (allChannels.flatMap fun n => (oneCall.chan n).segments)
        ++ oneCall.cache.flatMap (·.segments)) = (List.range 768).drop 2 ++ (List.range 768).take 2 := by decide +kernel
    rw [e, List.perm_append_comm.count_eq, List.take_append_drop]
    split
    · next h => exact List.count_eq_one_of_mem List.nodup_range (List.mem_range.2 h)
    · next h => exact List.count_eq_zero.2 fun m => h (List.mem_range.1 m)
  sizes := ⟨by decide +kernel, by decide +kernel⟩
  rings := by decide +kernel
  vacant := by decide +kernel
  lessees := by decide +kernel
  holds := by decide +kernel
  queued := by decide +kernel
  probing := by
    have none_plays : ∀ k, oneCall.play k = none := by decide +kernel
    exact ⟨by decide +kernel, by decide +kernel, fun k play h => by rw [none_plays] at h; cases h⟩

theorem witness_SoundKept : oneCall.Sound ∧ oneCall.CallsSound := by
  have h : ∀ p : Port, oneCall.port p = .reset ∨
      oneCall.port p = { PortRecord.reset with link := .live, lease := some 250 } := by decide +kernel
  refine ⟨⟨fun p => ?_, fun p e => ?_, ?_, ?_, ?_⟩, oneCall_calls⟩
  · rcases h p with e | e <;> rw [e]
    · exact ⟨rfl, by decide, by decide, fun _ => ⟨rfl, rfl, rfl, rfl⟩, fun e => absurd rfl e⟩
    · exact ⟨rfl, by decide, by decide, fun e => absurd e (by decide), fun _ => rfl⟩
  · cases e
  · show SharedConfig.default.Legal
    unfold SharedConfig.Legal
    decide
  · exact ⟨by decide, List.Pairwise.drop List.pairwise_lt_range, by decide, by decide, by decide, by decide⟩
  · exact ⟨by decide, by decide, by decide, fun _ => ⟨rfl, rfl, rfl, rfl⟩, fun e => absurd e (by decide)⟩

theorem witness_PlayersKept : (probing false 9).Granted ∧ (probing false 9).PlayersSound := by
  refine ⟨.inl rfl, ?_⟩
  have h : ∀ n : ChannelNo, ∀ k : PlayerNo, ((probing false 9).chan n).player = some k →
      ((probing false 9).play k).map Play.channel = some n := by decide +kernel
  exact h

end Sys2Proof.Tests
end

/-! CLEAR_HOLDS (R23) and ADAPT (R72): what each block makes of a channel of its lessee, and the state that the command
leaves once it is answered. -/

namespace Sys2Proof.Machine

/-! ### CLEAR_HOLDS -/

theorem exec_clearHolds (p : Port) (tag : Byte) (params : List Byte) (s : State) :
    exec (.clearHolds p tag params) s = .next (takeCommand p tag params (clearHoldsAct p params) s) := rfl

/-- The checks of R10 pass for the lessee: the block acts on the channel named. -/
theorem clearHoldsAct_of_lessee {s : State} {p : Port} {n : ChannelNo} (h : (s.chan n).lessee = some p) :
    clearHoldsAct p [chanByte n] s = clearHoldsChannel n s := by
  rw [clearHoldsAct, withParams_some (parseByte_chan n), withLessee_of_lessee h]

theorem clearHoldsChannel_of_inCall {s : State} {n : ChannelNo} (h : (s.chan n).state.inCall = true) :
    clearHoldsChannel n s = (s.modChan n fun c => { c with holdCount := 0 }).answer (enc1 (s.chan n).holdCount) :=
  if_pos h

theorem clearHoldsChannel_of_releasing {s : State} {n : ChannelNo} (h : (s.chan n).state = .releasing) :
    clearHoldsChannel n s = s.refuse .wrongState :=
  if_neg (by simp [h, CallState.inCall])

theorem exec_clearHolds_of_inCall {s : State} {p : Port} {n : ChannelNo} (tag : Byte) (ready : s.Ready p)
    (lessee : (s.chan n).lessee = some p) (inCall : (s.chan n).state.inCall = true) :
    exec (.clearHolds p tag [chanByte n]) s = .next ((s.modChan n fun c => { c with holdCount := 0 }).answered p
      [chanByte n] ⟨.ok, tag, enc1 (s.chan n).holdCount⟩) := by
  have block : clearHoldsAct p [chanByte n] (s.driveLink p (commandEcho [chanByte n]))
      = ⟨(s.modChan n fun c => { c with holdCount := 0 }).driveLink p (commandEcho [chanByte n]), .ok,
          enc1 (s.chan n).holdCount⟩ := by
    rw [clearHoldsAct_of_lessee (by simpa using lessee), clearHoldsChannel_of_inCall (by simpa using inCall),
      modChan_driveLink, driveLink_chan, State.answer]
  rw [exec_clearHolds, takeCommand_answered ready tag _ _ block (by simpa using ready.joined)]

theorem exec_clearHolds_of_releasing {s : State} {p : Port} {n : ChannelNo} (tag : Byte) (ready : s.Ready p)
    (lessee : (s.chan n).lessee = some p) (releasing : (s.chan n).state = .releasing) :
    exec (.clearHolds p tag [chanByte n]) s = .next (s.answered p [chanByte n] ⟨.wrongState, tag, []⟩) := by
  have block : clearHoldsAct p [chanByte n] (s.driveLink p (commandEcho [chanByte n]))
      = (s.driveLink p (commandEcho [chanByte n])).refuse .wrongState := by
    rw [clearHoldsAct_of_lessee (by simpa using lessee), clearHoldsChannel_of_releasing (by simpa using releasing)]
  rw [exec_clearHolds, takeCommand_refused ready tag _ _ block]

/-! ### ADAPT -/

theorem exec_adapt (p : Port) (tag : Byte) (params : List Byte) (s : State) :
    exec (.adapt p tag params) s = .next (takeCommand p tag params (adaptAct p params) s) := rfl

theorem parseChannelWord_chan (n : ChannelNo) (hi lo : Byte) :
    parseChannelWord [chanByte n, hi, lo] = some (n.val, dec2 hi lo) := by
  simp [parseChannelWord]

/-- The checks of R10 pass for the lessee: the block acts on the channel named. -/
theorem adaptAct_of_lessee {s : State} {p : Port} {n : ChannelNo} (h : (s.chan n).lessee = some p) (hi lo : Byte) :
    adaptAct p [chanByte n, hi, lo] s = adaptChannelBudget (dec2 hi lo) n s := by
  rw [adaptAct, withParams_some (parseChannelWord_chan n hi lo), withLessee_of_lessee h]

theorem exec_adapt_of_lessee {s : State} {p : Port} {n : ChannelNo} (tag : Byte) (ready : s.Ready p)
    (lessee : (s.chan n).lessee = some p) (hi lo : Byte) :
    exec (.adapt p tag [chanByte n, hi, lo]) s = .next
      ((s.modChan n fun c => { c with budget := dec2 hi lo }).answered p [chanByte n, hi, lo]
        ⟨.ok, tag, enc2 (s.chan n).budget⟩) := by
  have block : adaptAct p [chanByte n, hi, lo] (s.driveLink p (commandEcho [chanByte n, hi, lo]))
      = ⟨(s.modChan n fun c => { c with budget := dec2 hi lo }).driveLink p (commandEcho [chanByte n, hi, lo]), .ok,
          enc2 (s.chan n).budget⟩ := by
    rw [adaptAct_of_lessee (by simpa using lessee), adaptChannelBudget, modChan_driveLink, driveLink_chan, State.answer]
  rw [exec_adapt, takeCommand_answered ready tag _ _ block (by simpa using ready.joined)]

/-- Settles O28: each clause is the state that its command leaves, CLEAR_HOLDS by the two kinds of leased state. -/
theorem clearHoldsAndAdapt : Obligations.ClearHoldsAndAdapt := by
  intro s p tag n ready lessee
  exact ⟨exec_clearHolds_of_inCall tag ready lessee, exec_clearHolds_of_releasing tag ready lessee,
    exec_adapt_of_lessee tag ready lessee⟩

end Sys2Proof.Machine

/-! Convergence and the stall at the training limit (R77, R78): what each leaves, and how step 7 of R61 judges a channel
in each kind of TRAINING. -/

namespace Sys2Proof.Machine

/-! ### What convergence and the stall leave -/

theorem converge_eq (s : State) (n : ChannelNo) :
    s.converge n = (s.modChan n fun c => { c with state := .tracking, goodRun := 0, badRun := 0 }).notifyLessee
      (s.chan n).lessee
      ⟨.converged, some n, [((s.chan n).measured.map Measurements.figure).getD 0, ((s.chan n).trainingEpochs : Int)]⟩ :=
  rfl

theorem stall_eq (s : State) (n : ChannelNo) :
    s.stall n = (s.modChan n fun c => { c with state := .training .stalled, goodRun := 0, badRun := 0 }).notifyLessee
      (s.chan n).lessee
      ⟨.trainStalled, some n,
        [((s.chan n).trainingEpochs : Int), ((s.chan n).measured.map Measurements.figure).getD 0]⟩ :=
  rfl

/-! ### The judgment of a training channel -/

theorem judgeChannel_of_settling {s : State} {n : ChannelNo} (h : (s.chan n).state = .training .settling) :
    s.judgeChannel n =
      if 8 ≤ (s.chan n).goodRun then s.converge n
      else if s.config.trainingLimit ≤ (s.chan n).trainingEpochs then s.stall n
      else s := by
  simp only [State.judgeChannel, h]

theorem judgeChannel_of_stalled {s : State} {n : ChannelNo} (h : (s.chan n).state = .training .stalled) :
    s.judgeChannel n = if 8 ≤ (s.chan n).goodRun then s.converge n else s := by
  simp only [State.judgeChannel, h]

theorem judgeChannel_of_queued {s : State} {n : ChannelNo} (h : (s.chan n).state = .training .queued) :
    s.judgeChannel n = s := by
  simp only [State.judgeChannel, h]

theorem judgeChannel_of_probing {s : State} {n : ChannelNo} (h : (s.chan n).state = .training .probing) :
    s.judgeChannel n = s := by
  simp only [State.judgeChannel, h]

/-- Settles O35, by the kinds of TRAINING: the judgment of each, with what convergence and the stall leave written out. -/
theorem trainingJudged : Obligations.TrainingJudged := by
  intro s n
  refine ⟨fun settling => ?_, fun stalled => ?_, ?_⟩
  · rw [judgeChannel_of_settling settling, converge_eq, stall_eq]
  · rw [judgeChannel_of_stalled stalled, converge_eq]
  · rintro (queued | probing)
    · exact judgeChannel_of_queued queued
    · exact judgeChannel_of_probing probing

end Sys2Proof.Machine

/-! PAUSE_PROBE (R98) and RESUME_PROBE (R99): what each block makes of a player that is PLAYING, of one that is PAUSED
and of a channel that holds none, and the state that the command leaves once it is answered. -/

namespace Sys2Proof.Machine

/-! ### The player of a channel -/

theorem playOf_of_probing {s : State} {n : ChannelNo} {k : PlayerNo} {play : Play}
    (probing : (s.chan n).state = .training .probing) (player : (s.chan n).player = some k)
    (plays : s.play k = some play) : s.playOf n = some (k, play) := by
  simp [State.playOf, probing, player, plays]

theorem playOf_of_not_probing {s : State} {n : ChannelNo} (h : (s.chan n).state ≠ .training .probing) :
    s.playOf n = none :=
  if_neg h

/-! ### Lessee commands of one channel -/

/-- A command whose one parameter byte is the channel, carried out by `block` for the channel's lessee (R10). -/
def lesseeAct (block : ChannelNo → State → Reply) (p : Port) (params : List Byte) (s : State) : Reply :=
  withParams parseByte params (fun n s => withLessee p n block s) s

/-- The checks of R10 pass for the lessee: the block acts on the channel named. -/
theorem lesseeAct_of_lessee {s : State} {p : Port} {n : ChannelNo} (h : (s.chan n).lessee = some p)
    (block : ChannelNo → State → Reply) : lesseeAct block p [chanByte n] s = block n s := by
  rw [lesseeAct, withParams_some (parseByte_chan n), withLessee_of_lessee h]

/-- A block that refuses leaves the answered port alone changed. -/
theorem takeCommand_lesseeAct_refused {s : State} {p : Port} {n : ChannelNo} {block : ChannelNo → State → Reply}
    {status : Status} (tag : Byte) (ready : s.Ready p) (lessee : (s.chan n).lessee = some p)
    (e : ∀ b, block n (s.driveLink p b) = (s.driveLink p b).refuse status) :
    takeCommand p tag [chanByte n] (lesseeAct block p [chanByte n]) s
      = s.answered p [chanByte n] ⟨status, tag, []⟩ := by
  refine takeCommand_refused ready tag _ _ ?_
  rw [lesseeAct_of_lessee (by simpa using lessee), e]

/-- A block that writes what a player holds leaves that, and the answered port. -/
theorem takeCommand_lesseeAct_setPlay {s : State} {p : Port} {n : ChannelNo} {block : ChannelNo → State → Reply}
    {k : PlayerNo} {x : Option Play} {payload : List Byte} (tag : Byte) (ready : s.Ready p)
    (lessee : (s.chan n).lessee = some p)
    (e : ∀ b, block n (s.driveLink p b) = ((s.driveLink p b).setPlay k x).answer payload) :
    takeCommand p tag [chanByte n] (lesseeAct block p [chanByte n]) s
      = (s.setPlay k x).answered p [chanByte n] ⟨.ok, tag, payload⟩ := by
  refine takeCommand_answered ready tag _ _ ?_ (by simpa using ready.joined)
  rw [lesseeAct_of_lessee (by simpa using lessee), e, setPlay_driveLink, State.answer]

/-! ### PAUSE_PROBE -/

theorem exec_pauseProbe (p : Port) (tag : Byte) (params : List Byte) (s : State) :
    exec (.pauseProbe p tag params) s = .next (takeCommand p tag params (lesseeAct pauseChannel p params) s) := rfl

theorem pauseChannel_of_playing {s : State} {n : ChannelNo} {k : PlayerNo} {play : Play}
    (holds : s.playOf n = some (k, play)) (playing : play.paused = false) :
    pauseChannel n s = (s.setPlay k (some { play with paused := true })).answer (playPayload k play) := by
  simp [pauseChannel, holds, playing]

/-- No player that is PLAYING: the channel is not in PROBING, or its player is PAUSED already. -/
theorem pauseChannel_of_not_playing {s : State} {n : ChannelNo} (h : ∀ x ∈ s.playOf n, x.2.paused = true) :
    pauseChannel n s = s.refuse .wrongState := by
  unfold pauseChannel
  cases holds : s.playOf n with
  | none => rfl
  | some x => exact if_pos (h x holds)

theorem exec_pauseProbe_of_playing {s : State} {p : Port} {n : ChannelNo} {k : PlayerNo} {play : Play} (tag : Byte)
    (ready : s.Ready p) (lessee : (s.chan n).lessee = some p) (holds : s.playOf n = some (k, play))
    (playing : play.paused = false) :
    exec (.pauseProbe p tag [chanByte n]) s = .next
      ((s.setPlay k (some { play with paused := true })).answered p [chanByte n] ⟨.ok, tag, playPayload k play⟩) := by
  rw [exec_pauseProbe, takeCommand_lesseeAct_setPlay tag ready lessee fun b => pauseChannel_of_playing holds playing]

theorem exec_pauseProbe_of_not_playing {s : State} {p : Port} {n : ChannelNo} (tag : Byte) (ready : s.Ready p)
    (lessee : (s.chan n).lessee = some p) (h : ∀ x ∈ s.playOf n, x.2.paused = true) :
    exec (.pauseProbe p tag [chanByte n]) s = .next (s.answered p [chanByte n] ⟨.wrongState, tag, []⟩) := by
  rw [exec_pauseProbe, takeCommand_lesseeAct_refused tag ready lessee fun b => pauseChannel_of_not_playing h]

/-! ### RESUME_PROBE -/

theorem exec_resumeProbe (p : Port) (tag : Byte) (params : List Byte) (s : State) :
    exec (.resumeProbe p tag params) s = .next (takeCommand p tag params (lesseeAct resumeChannel p params) s) := rfl

theorem resumeChannel_of_paused {s : State} {n : ChannelNo} {k : PlayerNo} {play : Play}
    (holds : s.playOf n = some (k, play)) (paused : play.paused = true) :
    resumeChannel n s = (s.setPlay k (some { play with paused := false })).answer (playPayload k play) := by
  simp [resumeChannel, holds, paused]

/-- No player that is PAUSED: the channel is not in PROBING, or its player is PLAYING already. -/
theorem resumeChannel_of_not_paused {s : State} {n : ChannelNo} (h : ∀ x ∈ s.playOf n, x.2.paused = false) :
    resumeChannel n s = s.refuse .wrongState := by
  unfold resumeChannel
  cases holds : s.playOf n with
  | none => rfl
  | some x => exact if_neg (by simp [h x holds])

theorem exec_resumeProbe_of_paused {s : State} {p : Port} {n : ChannelNo} {k : PlayerNo} {play : Play} (tag : Byte)
    (ready : s.Ready p) (lessee : (s.chan n).lessee = some p) (holds : s.playOf n = some (k, play))
    (paused : play.paused = true) :
    exec (.resumeProbe p tag [chanByte n]) s = .next
      ((s.setPlay k (some { play with paused := false })).answered p [chanByte n] ⟨.ok, tag, playPayload k play⟩) := by
  rw [exec_resumeProbe, takeCommand_lesseeAct_setPlay tag ready lessee fun b => resumeChannel_of_paused holds paused]

theorem exec_resumeProbe_of_not_paused {s : State} {p : Port} {n : ChannelNo} (tag : Byte) (ready : s.Ready p)
    (lessee : (s.chan n).lessee = some p) (h : ∀ x ∈ s.playOf n, x.2.paused = false) :
    exec (.resumeProbe p tag [chanByte n]) s = .next (s.answered p [chanByte n] ⟨.wrongState, tag, []⟩) := by
  rw [exec_resumeProbe, takeCommand_lesseeAct_refused tag ready lessee fun b => resumeChannel_of_not_paused h]

/-- Settles O30: of the two commands the one that changes the player's state is carried out, by whether the player is
PAUSED, and without a player in PROBING neither is. -/
theorem pauseAndResume : Obligations.PauseAndResume := by
  intro s p tag n ready lessee
  refine ⟨fun k play probing player plays => ?_, fun elsewhere => ?_⟩
  · have holds : s.playOf n = some (k, play) := playOf_of_probing probing player plays
    split
    · next paused =>
      exact ⟨exec_pauseProbe_of_not_playing tag ready lessee (by simpa [holds] using paused),
        exec_resumeProbe_of_paused tag ready lessee holds paused⟩
    · next paused =>
      have playing : play.paused = false := Bool.eq_false_of_not_eq_true paused
      exact ⟨exec_resumeProbe_of_not_paused tag ready lessee (by simpa [holds] using playing),
        exec_pauseProbe_of_playing tag ready lessee holds playing⟩
  · have idle : s.playOf n = none := playOf_of_not_probing elsewhere
    exact ⟨exec_pauseProbe_of_not_playing tag ready lessee (by simp [idle]),
      exec_resumeProbe_of_not_paused tag ready lessee (by simp [idle])⟩

end Sys2Proof.Machine

/-! The decoding of a probe code (R90): the range of a code, the clamped sample, and the step that follows it. -/

namespace Sys2Proof.Machine

/-- A code is a 4-bit two's complement value (R89). -/
theorem code_bounds (play : Play) : -8 ≤ play.code ∧ play.code ≤ 7 := by
  have lower := BitVec.le_toInt (Config.storeCode ((Config.directory play.sequence).start + play.pointer))
  have upper := BitVec.toInt_lt (x := Config.storeCode ((Config.directory play.sequence).start + play.pointer))
  unfold Play.code
  omega

theorem clamp_eq {lo hi : Int} (h : lo ≤ hi) (v : Int) :
    clamp lo hi v = if v < lo then lo else if hi < v then hi else v := by
  unfold clamp
  split
  · omega
  · split <;> omega

theorem clampSample_eq (v : Int) :
    clampSample v = if v < -32768 then -32768 else if 32767 < v then 32767 else v :=
  clamp_eq (by decide) v

/-- A loud code doubles the step up to 2048. -/
theorem decodeCode_step_of_loud {code : Int} (h : code ≤ -6 ∨ 6 ≤ code) (previous : Sample) (step : Nat) :
    (decodeCode code previous step).2 = if 2048 ≤ step * 2 then 2048 else step * 2 := by
  have loud : 6 ≤ code.natAbs := by omega
  simp only [decodeCode, if_pos loud, Nat.min_def]

/-- A quiet code halves the step down to 16. -/
theorem decodeCode_step_of_quiet {code : Int} (h : -1 ≤ code ∧ code ≤ 1) (previous : Sample) (step : Nat) :
    (decodeCode code previous step).2 = if step / 2 ≤ 16 then 16 else step / 2 := by
  have not_loud : ¬6 ≤ code.natAbs := by omega
  have quiet : code.natAbs ≤ 1 := by omega
  simp only [decodeCode, if_neg not_loud, if_pos quiet, Nat.max_comm 16, Nat.max_def]

/-- Any other code keeps the step. -/
theorem decodeCode_step_of_middle {code : Int} (not_loud : ¬(code ≤ -6 ∨ 6 ≤ code)) (not_quiet : ¬(-1 ≤ code ∧ code ≤ 1))
    (previous : Sample) (step : Nat) : (decodeCode code previous step).2 = step := by
  have not_six : ¬6 ≤ code.natAbs := by omega
  have not_one : ¬code.natAbs ≤ 1 := by omega
  simp only [decodeCode, if_neg not_six, if_neg not_one]

theorem decodeCode_step (code : Int) (previous : Sample) (step : Nat) :
    (decodeCode code previous step).2 =
      if code ≤ -6 ∨ 6 ≤ code then (if 2048 ≤ step * 2 then 2048 else step * 2)
      else if -1 ≤ code ∧ code ≤ 1 then (if step / 2 ≤ 16 then 16 else step / 2)
      else step := by
  split
  · next loud => exact decodeCode_step_of_loud loud previous step
  · next not_loud =>
    split
    · next quiet => exact decodeCode_step_of_quiet quiet previous step
    · next not_quiet => exact decodeCode_step_of_middle not_loud not_quiet previous step

theorem playCode_eq (play : Play) :
    play.playCode = (clampSample (play.previous + play.code * play.step), { play with
      previous := clampSample (play.previous + play.code * play.step)
      step := (decodeCode play.code play.previous play.step).2
      pointer := play.pointer + 1, remaining := play.remaining - 1 }) := rfl

/-- Settles O32: the range of a code, the clamp of the sample and the three kinds of step, each by its own lemma. -/
theorem probeDecode : Obligations.ProbeDecode := by
  refine ⟨fun play _ _ _ _ => ⟨code_bounds play, ?_⟩, fun _ _ => ⟨rfl, rfl⟩⟩
  rw [playCode_eq, clampSample_eq, decodeCode_step]

end Sys2Proof.Machine

/-! CACHE_PURGE (R134): what the eviction of an entry leaves of the calls and the stores, what the end of the event adds
where no channel waits for an idle player, and the state that the command leaves once it is answered. -/

namespace Sys2Proof.Machine

/-! ### The eviction of an entry (R132) -/

/-- Only the cache, the pool and the ports change when an entry leaves. -/
theorem evict_calls (reason : EvictReason) (s : State) (e : CacheEntry) :
    (s.evict reason e).channels = s.channels ∧ (s.evict reason e).players = s.players
      ∧ (s.evict reason e).probeQueue = s.probeQueue ∧ (s.evict reason e).mover = s.mover
      ∧ (s.evict reason e).parkCounter = s.parkCounter := by
  simp [State.evict, State.returnSegments]

theorem evict_returns (reason : EvictReason) (s : State) (e : CacheEntry) :
    s.Returns (s.evict reason e) e.segments :=
  (returnSegments_returns (s.setCache (s.cache.filter fun x => x.routeTag ≠ e.routeTag)) e.segments).same
    (broadcast_pool _ _)

theorem evict_told (reason : EvictReason) (s : State) (e : CacheEntry) {q : Port} (j : (s.port q).joined = true) :
    ((s.evict reason e).port q).Told ⟨.cacheEvicted, none, [(reason.code : Int), (e.routeTag : Int),
      (e.segments.length : Int), ((s.evict reason e).cache.length : Int)]⟩ := by
  rw [evict_cache]
  exact told_broadcast
    (s := (s.setCache (s.cache.filter fun x => x.routeTag ≠ e.routeTag)).returnSegments e.segments) j _

/-! ### The end of an event that neither frees a player nor queues a channel -/

theorem State.Granted.congr {s t : State} (h : s.Granted) (queue : t.probeQueue = s.probeQueue)
    (players : t.players = s.players) : t.Granted := by
  have idle : t.idlePlayer = s.idlePlayer := by
    unfold State.idlePlayer State.play
    rw [players]
  unfold State.Granted
  rw [queue, idle]
  exact h

theorem grants_of_granted {s : State} (h : s.Granted) : s.grants = s :=
  h.elim (grants_of_empty s) (grants_of_no_idle s)

theorem closeEvent_of_granted {t : State} (s₀ : State) (h : t.Granted) :
    s₀.closeEvent t = if t.pool.free.length = s₀.pool.free.length then t else t.comparePool := by
  unfold State.closeEvent
  rw [grants_of_granted h]

theorem closeEvent_calls_of_granted {t : State} (s₀ : State) (h : t.Granted) :
    (s₀.closeEvent t).channels = t.channels ∧ (s₀.closeEvent t).players = t.players
      ∧ (s₀.closeEvent t).probeQueue = t.probeQueue := by
  rw [closeEvent_of_granted s₀ h]
  split <;> simp

/-! ### Notices that stay told -/

theorem key_ne_of_kind_ne {x n : Notice} (h : x.kind ≠ n.kind) : x.key ≠ n.key := by
  have fst : ∀ y : Notice, y.key.1 = y.kind := fun y => by unfold Notice.key; split <;> rfl
  intro e
  exact h (by rw [← fst x, e, fst n])

theorem comparePool_told_of_kind_ne {t : State} {q : Port} {n : Notice} (h : (t.port q).Told n)
    (low : n.kind ≠ .poolLow) (recovered : n.kind ≠ .poolRecovered) : (t.comparePool.port q).Told n := by
  unfold State.comparePool
  dsimp only
  split
  · exact told_broadcast_of_ne (s := t.setFlag .low) h (key_ne_of_kind_ne low.symm)
  · split
    · exact told_broadcast_of_ne (s := t.setFlag .normal) h (key_ne_of_kind_ne recovered.symm)
    · exact h

/-- The end of an event tells of the pool alone, so it takes the place of no notice of another kind (R48, R49). -/
theorem closeEvent_told_of_kind_ne {t : State} (s₀ : State) {q : Port} {n : Notice} (h : (t.port q).Told n)
    (low : n.kind ≠ .poolLow) (recovered : n.kind ≠ .poolRecovered) : ((s₀.closeEvent t).port q).Told n := by
  have granted : (t.grants.port q).Told n := by simpa only [State.port, grants_ports] using h
  unfold State.closeEvent
  dsimp only
  split
  · exact granted
  · exact comparePool_told_of_kind_ne granted low recovered

/-! ### What the answer to a command keeps of its block's work -/

theorem told_modPort_iff {s : State} {p q : Port} {n : Notice} {f : PortRecord → PortRecord}
    (queue : (f (s.port p)).queue = (s.port p).queue) (overflow : (f (s.port p)).overflow = (s.port p).overflow) :
    ((s.modPort p f).port q).Told n ↔ (s.port q).Told n := by
  rw [port_modPort]
  split
  · next e => subst e; simp only [PortRecord.Told, queue, overflow]
  · rfl

/-- The answer to a command touches no queue of notices. -/
theorem finish_told_iff (r : Reply) (p : Port) (tag : Byte) (q : Port) (n : Notice) :
    ((r.finish p tag).port q).Told n ↔ (r.state.port q).Told n := by
  rw [Reply.finish, State.hold, told_modPort_iff rfl rfl, State.renew]
  split
  · exact told_modPort_iff rfl rfl
  · rfl

theorem finish_joined {r : Reply} {p : Port} (j : (r.state.port p).joined = true) (tag : Byte) (q : Port) :
    ((r.finish p tag).port q).joined = (r.state.port q).joined := by
  by_cases e : p = q
  · subst e; rw [finish_port j, j]; rfl
  · rw [finish_port_of_ne _ e]

theorem answered_joined {s : State} {p : Port} (j : (s.port p).joined = true) (params : List Byte) (r : Response)
    (q : Port) : ((s.answered p params r).port q).joined = (s.port q).joined := by
  rw [answered_port]
  split
  · next e => subst e; rw [j]; rfl
  · rfl

section Answer

variable {s : State} {p : Port} {tag : Byte} {params : List Byte} {act : State → Reply} {r : Reply}

theorem takeCommand_told (ready : s.Ready p) (block : act (s.driveLink p (commandEcho params)) = r) {q : Port}
    {n : Notice} (h : (r.state.port q).Told n) : ((takeCommand p tag params act s).port q).Told n := by
  rw [takeCommand_of_joined ready.quiet ready.joined, block]
  exact (finish_told_iff r p tag q n).2 h

/-- The pool that the block has judged stands judged in the answered state. -/
theorem takeCommand_judged (ready : s.Ready p) (block : act (s.driveLink p (commandEcho params)) = r)
    (within : (s.driveLink p (commandEcho params)).Within r.state)
    (judged : (s.driveLink p (commandEcho params)).PoolJudged r.state) (response : Response) :
    (s.answered p params response).PoolJudged (takeCommand p tag params act s) := by
  have joined : (r.state.port p).joined = true := by rw [within.heard.joined, driveLink_joined]; exact ready.joined
  have frame : takeCommand p tag params act s = r.finish p tag := by
    rw [takeCommand_of_joined ready.quiet ready.joined, block]
  obtain ⟨-, -, -, config, -, pool, -⟩ := finish_frame r p tag
  rw [frame]
  refine ⟨by rw [pool, config]; exact judged.flag, fun normal low q j => ?_, fun low normal q j => ?_⟩
  · rw [pool] at low
    rw [finish_joined joined] at j
    rw [finish_told_iff, pool, config]
    exact judged.low normal low q j
  · rw [pool] at normal
    rw [finish_joined joined] at j
    rw [finish_told_iff, pool, config]
    exact judged.recovered low normal q j

end Answer

/-! ### The removal of an entry as an event -/

/-- What the removal of an entry leaves, as an event of its own: the entry gone, its segments free and zero, the pool
judged, every joined port told, the calls as they were (R132, R134). -/
structure State.Evicted (s t : State) (reason : EvictReason) (e : CacheEntry) : Prop where
  within : s.Within t
  cache : t.cache = s.cache.filter fun x => x.routeTag ≠ e.routeTag
  returns : s.Returns t e.segments
  judged : s.PoolJudged t
  told : ∀ q, (s.port q).joined = true → (t.port q).Told ⟨.cacheEvicted, none,
    [(reason.code : Int), (e.routeTag : Int), (e.segments.length : Int), (t.cache.length : Int)]⟩
  channels : t.channels = s.channels
  players : t.players = s.players
  probeQueue : t.probeQueue = s.probeQueue
  mover : t.mover = s.mover
  parkCounter : t.parkCounter = s.parkCounter

theorem closeEvent_evicted {s : State} (h : s.Granted) (reason : EvictReason) (e : CacheEntry) :
    s.Evicted (s.closeEvent (s.evict reason e)) reason e := by
  have within := evict_within reason s e
  obtain ⟨channels, players, probeQueue, mover, parkCounter⟩ := evict_calls reason s e
  obtain ⟨channels', players', probeQueue'⟩ := closeEvent_calls_of_granted s (h.congr probeQueue players)
  exact {
    within := within.trans (closeEvent_within _ _)
    cache := by rw [closeEvent_cache, evict_cache]
    returns := (evict_returns reason s e).closeEvent s
    judged := closeEvent_judged s _ (evict_flag reason s e) (by rw [within.config])
    told := fun q j => by
      rw [closeEvent_cache]
      exact closeEvent_told_of_kind_ne s (evict_told reason s e j) (by simp) (by simp)
    channels := channels'.trans channels
    players := players'.trans players
    probeQueue := probeQueue'.trans probeQueue
    mover := by rw [closeEvent_mover, mover]
    parkCounter := by rw [closeEvent_parkCounter, parkCounter] }

/-- A command whose block removes an entry: the removal and the answer to the port. -/
theorem takeCommand_evicted {s : State} {p : Port} (ready : s.Ready p) (tag : Byte) (params : List Byte)
    {act : State → Reply} {u : State} {payload : List Byte} {reason : EvictReason} {e : CacheEntry}
    (block : act (s.driveLink p (commandEcho params)) = u.answer payload)
    (gone : (s.driveLink p (commandEcho params)).Evicted u reason e) :
    (s.answered p params ⟨.ok, tag, payload⟩).Evicted (takeCommand p tag params act s) reason e := by
  obtain ⟨channels, pool, players, probeQueue, mover, cache, parkCounter⟩ := takeCommand_frame ready tag params act block
  exact {
    within := takeCommand_within ready tag params act block gone.within
    cache := cache.trans gone.cache
    returns := State.Returns.same (s := s.answered p params ⟨.ok, tag, payload⟩) gone.returns pool
    judged := takeCommand_judged ready block gone.within gone.judged _
    told := fun q j => by
      rw [answered_joined ready.joined] at j
      rw [cache]
      exact takeCommand_told ready block (gone.told q (by rwa [driveLink_joined]))
    channels := channels.trans gone.channels
    players := players.trans gone.players
    probeQueue := probeQueue.trans gone.probeQueue
    mover := mover.trans gone.mover
    parkCounter := parkCounter.trans gone.parkCounter }

/-! ### CACHE_PURGE -/

theorem exec_cachePurge (p : Port) (tag hi lo : Byte) (s : State) :
    exec (.cachePurge p tag [hi, lo]) s = .next (takeCommand p tag [hi, lo] (purgeCache (dec2 hi lo)) s) := rfl

theorem dec2_le (hi lo : Byte) : dec2 hi lo ≤ 65535 := by
  have := hi.isLt
  have := lo.isLt
  unfold dec2
  omega

theorem purgeCache_zero (s : State) : purgeCache 0 s = s.refuse .badParam := rfl

theorem purgeCache_of_absent {s : State} {route : Nat} (named : route ≠ 0) (word : route ≤ 65535)
    (absent : s.cacheEntry? route = none) : purgeCache route s = s.refuse .notFound := by
  simp only [purgeCache, absent, named, Nat.not_lt.2 word, or_self, if_false]

theorem purgeCache_of_held {s : State} {route : Nat} {e : CacheEntry} (named : route ≠ 0) (word : route ≤ 65535)
    (held : s.cacheEntry? route = some e) :
    purgeCache route s = (s.closeEvent (s.evict .purged e)).answer (enc1 e.segments.length) := by
  simp only [purgeCache, held, named, Nat.not_lt.2 word, or_self, if_false]

theorem routeTag_of_cacheEntry? {s : State} {route : Nat} {e : CacheEntry} (held : s.cacheEntry? route = some e) :
    e.routeTag = route := by
  simpa using List.find?_some held

/-- The purge of an entry that the cache holds. -/
theorem takeCommand_purgeCache_evicted {s : State} {p : Port} {route : Nat} {e : CacheEntry} (ready : s.Ready p)
    (granted : s.Granted) (tag : Byte) (params : List Byte) (named : route ≠ 0) (word : route ≤ 65535)
    (held : s.cacheEntry? route = some e) :
    (s.answered p params ⟨.ok, tag, enc1 e.segments.length⟩).Evicted
      (takeCommand p tag params (purgeCache route) s) .purged e := by
  have granted' : (s.driveLink p (commandEcho params)).Granted :=
    granted.congr (driveLink_probeQueue s p _) (driveLink_players s p _)
  have held' : (s.driveLink p (commandEcho params)).cacheEntry? route = some e := held
  exact takeCommand_evicted ready tag params (purgeCache_of_held named word held')
    (closeEvent_evicted granted' .purged e)

/-- Settles O46: the refusals are what `purgeCache` answers for tag 0 and for a tag no entry holds; the purge leaves what
the removal of the entry leaves, the port answered. -/
theorem cachePurgeRemoves : Obligations.CachePurgeRemoves := by
  intro s p tag hi lo ready granted route params
  have exec_eq : exec (.cachePurge p tag params) s = .next (takeCommand p tag params (purgeCache route) s) :=
    exec_cachePurge p tag hi lo s
  have word : route ≤ 65535 := dec2_le hi lo
  rw [exec_eq]
  split
  · next zero => rw [zero, takeCommand_refused ready tag _ _ (purgeCache_zero _)]
  · next named =>
    split
    · next absent => rw [takeCommand_refused ready tag _ _ (purgeCache_of_absent named word absent)]
    · next e held =>
      have gone := takeCommand_purgeCache_evicted ready granted tag params named word held
      have joined : ∀ q, ((takeCommand p tag params (purgeCache route) s).port q).joined = (s.port q).joined :=
        fun q => by rw [gone.within.heard.joined, answered_joined ready.joined]
      have same_tag : e.routeTag = route := routeTag_of_cacheEntry? held
      obtain ⟨free, taps⟩ := gone.returns
      have cache := gone.cache
      rw [same_tag] at cache
      refine ⟨_, rfl, gone.within, cache, free, taps, ?_, ?_, ?_, gone.channels, gone.players, gone.probeQueue,
        gone.mover, gone.parkCounter⟩
      · simpa [gone.within.config, State.answered] using gone.judged.flag
      · intro low normal q j
        have told := gone.judged.recovered low normal q (by rw [joined]; exact j)
        rwa [gone.within.config] at told
      · intro q j
        have told := gone.told q (by rw [answered_joined ready.joined]; exact j)
        rwa [same_tag] at told

end Sys2Proof.Machine

/-! GET_CONFIG (R152): the port states once the port that asks is renewed, and the state that the command leaves. -/

namespace Sys2Proof.Machine

/-! ### The states of the ports -/

theorem renew_port_link {s : State} {p : Port} (j : (s.port p).joined = true) (q : Port) :
    ((s.renew p).port q).link = if q = p then LinkState.live else (s.port q).link := by
  rw [renew_of_joined j]
  by_cases own : q = p
  · subst own; simp
  · rw [port_modPort_of_ne _ _ (Ne.symm own), if_neg own]

/-- The port states as the event leaves them: the asking port, from GRACE or LIVE, stands in LIVE (R137). -/
theorem renew_portStates {s : State} {p : Port} (j : (s.port p).joined = true) :
    (s.renew p).portStates
      = allPorts.flatMap fun q => enc1 (if q = p then LinkState.live else (s.port q).link).code := by
  simp only [State.portStates, renew_port_link j]

/-- The transfer changes what LINK DO carries, not the state of any port (R172). -/
theorem driveLink_renew_portStates {s : State} {p : Port} (j : (s.port p).joined = true) (bytes : List Byte) :
    ((s.driveLink p bytes).renew p).portStates = (s.renew p).portStates := by
  rw [renew_portStates j, renew_portStates (by rwa [driveLink_joined])]
  simp only [driveLink_port_link]

/-! ### GET_CONFIG -/

theorem exec_getConfig (p : Port) (tag : Byte) (params : List Byte) (s : State) :
    exec (.getConfig p tag params) s = .next (takeCommand p tag params (getConfigAct p params) s) := rfl

theorem getConfigAct_nil (p : Port) (s : State) : getConfigAct p [] s = getConfig p s := by
  rw [getConfigAct, withParams_some (a := ()) rfl]

/-- The block reads the configuration and the claim, which the transfer leaves as they were, and changes nothing. -/
theorem getConfig_driveLink {s : State} {p : Port} (j : (s.port p).joined = true) (bytes : List Byte) :
    getConfig p (s.driveLink p bytes) = ⟨s.driveLink p bytes, .ok,
      enc1 p.val ++ s.config.bytes ++ encPort? s.claim ++ (s.renew p).portStates⟩ := by
  rw [getConfig, State.answer, driveLink_config, driveLink_claim, driveLink_renew_portStates j]

/-- Settles O19: the block leaves the state as it is, so the command leaves the answer alone; its payload closes with the
port states of the renewed port. -/
theorem getConfigReports : Obligations.GetConfigReports := by
  intro s p tag ready
  have block : getConfigAct p [] (s.driveLink p (commandEcho [])) = _ :=
    (getConfigAct_nil p _).trans (getConfig_driveLink ready.joined _)
  rw [exec_getConfig, takeCommand_answered ready tag _ _ block ready.joined, renew_portStates ready.joined]

end Sys2Proof.Machine

/-! The judgment of a receive level (R157 to R159): the entry runs, the target status, what the judgment leaves on entry
and on each outcome of the exit judgment, and the Level Supervisor's work for a channel that is handed measurements. -/

namespace Sys2Proof.Machine

/-- The record once the entry runs have moved (R157); R156 records the level as the last one. -/
def LevelRecord.moveRuns (cfg : SharedConfig) (level : Int) (r : LevelRecord) : LevelRecord :=
  { r with
    belowWarn := if level < cfg.levelWarn then min 3 (r.belowWarn + 1) else 0
    belowLoss := if level < cfg.levelLoss then min 75 (r.belowLoss + 1) else 0
    last := some level }

/-- The target status that the moved runs and the level give (R158). -/
def LevelRecord.target (cfg : SharedConfig) (lossCode : Nat) (level : Int) (r : LevelRecord) : LevelStatus :=
  levelTarget cfg lossCode level (r.moveRuns cfg level).belowWarn (r.moveRuns cfg level).belowLoss

/-- The code of a status is its place in the order of depth (R155, R179). -/
theorem LevelStatus.code_eq_depth (x : LevelStatus) : x.code = x.depth := by
  cases x <;> rfl

/-! ### What the judgment leaves, by its outcome -/

section Judge

variable {cfg : SharedConfig} {lossCode : Nat} {level exit : Int} {r : LevelRecord}

theorem judge_of_entry (deeper : r.status.depth < (r.target cfg lossCode level).depth) :
    r.judge cfg lossCode level
      = { r.moveRuns cfg level with status := r.target cfg lossCode level, recovery := 0 } :=
  if_pos deeper

/-- Where no entry is made, the exit level of the status decides (R159). -/
theorem judge_of_no_entry (shallow : ¬ r.status.depth < (r.target cfg lossCode level).depth) :
    r.judge cfg lossCode level =
      match exitLevel cfg r.status with
      | none => r.moveRuns cfg level
      | some exit =>
        if exit ≤ level then
          if r.recovery + 1 = 3 then { r.moveRuns cfg level with status := levelPlace cfg level, recovery := 0 }
          else { r.moveRuns cfg level with recovery := r.recovery + 1 }
        else { r.moveRuns cfg level with recovery := 0 } :=
  (if_neg shallow).trans rfl

theorem judge_of_normal (shallow : ¬ r.status.depth < (r.target cfg lossCode level).depth)
    (normal : r.status = .normal) : r.judge cfg lossCode level = { r.moveRuns cfg level with status := .normal } := by
  have kept : { r.moveRuns cfg level with status := .normal } = r.moveRuns cfg level := by rw [← normal]; rfl
  simp only [judge_of_no_entry shallow, kept, normal, exitLevel]

theorem judge_of_below_exit (shallow : ¬ r.status.depth < (r.target cfg lossCode level).depth)
    (own : exitLevel cfg r.status = some exit) (below : level < exit) :
    r.judge cfg lossCode level = { r.moveRuns cfg level with recovery := 0 } := by
  simp only [judge_of_no_entry shallow, own, if_neg (Int.not_le.2 below)]

theorem judge_of_at_exit (shallow : ¬ r.status.depth < (r.target cfg lossCode level).depth)
    (own : exitLevel cfg r.status = some exit) (reached : ¬ level < exit) :
    r.judge cfg lossCode level =
      if r.recovery + 1 = 3 then { r.moveRuns cfg level with status := levelPlace cfg level, recovery := 0 }
      else { r.moveRuns cfg level with recovery := r.recovery + 1 } := by
  simp only [judge_of_no_entry shallow, own, if_pos (Int.not_lt.1 reached)]

/-- The outcomes of the judgment as one chain, `exit` the exit level of a status other than NORMAL. -/
theorem judge_eq (own : r.status ≠ .normal → exitLevel cfg r.status = some exit) :
    r.judge cfg lossCode level =
      if r.status.depth < (r.target cfg lossCode level).depth then
        { r.moveRuns cfg level with status := r.target cfg lossCode level, recovery := 0 }
      else if r.status = .normal then { r.moveRuns cfg level with status := .normal }
      else if level < exit then { r.moveRuns cfg level with recovery := 0 }
      else if r.recovery + 1 = 3 then { r.moveRuns cfg level with status := levelPlace cfg level, recovery := 0 }
      else { r.moveRuns cfg level with recovery := r.recovery + 1 } := by
  split
  · next deeper => exact judge_of_entry deeper
  · next shallow =>
    split
    · next normal => exact judge_of_normal shallow normal
    · next outside =>
      split
      · next below => exact judge_of_below_exit shallow (own outside) below
      · next reached => exact judge_of_at_exit shallow (own outside) reached

end Judge

/-! ### The work for one channel -/

theorem levelAfter_of_handed {c : Channel} {m : Measurements} (handed : c.handed = some m) (cfg : SharedConfig) :
    c.levelAfter cfg = c.level.judge cfg c.policy.lossCode m.receive := by
  simp only [Channel.levelAfter, handed]

/-- A channel that is not VACANT and is handed measurements takes the judged record; its lessee hears of a change. -/
theorem levelWork_of_handed {s₀ : State} {n : ChannelNo} {m : Measurements} (s : State)
    (handed : (s₀.chan n).handed = some m) (occupied : (s₀.chan n).state ≠ .vacant) :
    s₀.levelWork s n =
      if ((s₀.chan n).levelAfter s₀.config).status = (s₀.chan n).level.status then
        s.modChan n fun c => { c with level := (s₀.chan n).levelAfter s₀.config }
      else (s.modChan n fun c => { c with level := (s₀.chan n).levelAfter s₀.config }).notifyLessee (s.chan n).lessee
        ⟨.level, some n, [(((s₀.chan n).levelAfter s₀.config).status.code : Int),
          ((s₀.chan n).level.status.code : Int), m.receive]⟩ := by
  unfold State.levelWork
  dsimp only
  split
  · next vacant => exact absurd vacant occupied
  · next none_handed _ => rw [handed] at none_handed; cases none_handed
  · next given _ =>
    rw [handed] at given
    cases given
    rw [chan_modChan_self]

/-- Settles O56: the work writes the judged record and tells of a change; the record is the chain of `judge_eq`, whose
target and exit level are those of the statement. -/
theorem levelJudged : Obligations.LevelJudged := by
  intro s₀ s n m handed occupied cfg r level warnRun lossRun debounce target exit after
  have own : r.status ≠ .normal → exitLevel cfg r.status = some exit := by
    intro outside
    cases status : r.status with
    | normal => exact absurd status outside
    | low | fade | loss => simp only [exit, status, exitLevel]
  have after_eq : (s₀.chan n).levelAfter s₀.config = after := by
    rw [levelAfter_of_handed handed, judge_eq own, ← LevelStatus.code_eq_depth, ← LevelStatus.code_eq_depth]
    rfl
  rw [levelWork_of_handed s handed occupied, after_eq]

end Sys2Proof.Machine

/-! The arrival of a notice (R167), READ_NOTICES (R168) and DISCARD_NOTICES (R170): what an arrival leaves of a port, what a
read takes from a queue and leaves in it, and the state that each command leaves once it is answered. -/

namespace Sys2Proof.Machine

/-! ### The arrival of a notice -/

/-- An arrival touches the queue, the overflow flag and ATTN alone. -/
theorem arrive_eq (r : PortRecord) (n : Notice) :
    r.arrive n = { r with
      queue := (r.arrive n).queue, overflow := (r.arrive n).overflow, attn := (r.arrive n).attn } := by
  obtain ⟨link, lease, mask, held, linkOut⟩ := arrive_fields r n
  rw [← link, ← lease, ← mask, ← held, ← linkOut]

theorem any_key_eq (queue : List Notice) (n : Notice) :
    (queue.any fun x => x.key == n.key) = queue.any fun x => decide (x.key = n.key) :=
  congrArg queue.any (funext fun x => beq_eq_decide x.key n.key)

/-- A notice that is merged or placed has ATTN judged anew (R169). -/
theorem arrive_attn_of_taken {r : PortRecord} {n : Notice}
    (taken : (r.queue.any fun x => x.key == n.key) = true ∨ r.queue.length < 32) :
    (r.arrive n).attn = (r.arrive n).queue.any fun x => !r.mask.contains x.kind := by
  cases queued : r.queue.any fun x => x.key == n.key with
  | true => rw [arrive_merge r n queued]; rfl
  | false => rw [arrive_place r n queued (taken.resolve_left (by simp [queued]))]; rfl

/-- ATTN that follows the queue follows it after an arrival, also where the notice is dropped. -/
theorem arrive_attn_of_judged {r : PortRecord} (n : Notice)
    (judged : r.attn = r.queue.any fun x => !r.mask.contains x.kind) :
    (r.arrive n).attn = (r.arrive n).queue.any fun x => !r.mask.contains x.kind := by
  by_cases taken : (r.queue.any fun x => x.key == n.key) = true ∨ r.queue.length < 32
  · exact arrive_attn_of_taken taken
  · obtain ⟨fresh, full⟩ := not_or.1 taken
    rw [arrive_overflow r n (Bool.eq_false_iff.2 fresh) (not_lt.1 full)]
    exact judged

/-- Settles O48, by the three cases of R167; ATTN is judged in the first two. -/
theorem noticeArrives : Obligations.NoticeArrives := by
  intro r n queued t
  have key : queued = r.queue.any fun x => x.key == n.key := (any_key_eq r.queue n).symm
  rw [key]
  refine ⟨arrive_eq r n, fun merged => ?_, fun fresh room => ?_, fun fresh full => ?_, arrive_attn_of_taken,
    arrive_attn_of_judged n⟩
  · have merge : t = ({ r with queue := mergeNotice n r.queue }).judgeAttn := arrive_merge r n merged
    rw [merge]
    exact ⟨rfl, rfl, mergeNotice_length n r.queue⟩
  · have place : t = ({ r with queue := r.queue ++ [n] }).judgeAttn := arrive_place r n fresh room
    rw [place]
    exact ⟨rfl, rfl⟩
  · have drop : t = { r with overflow := true } := arrive_overflow r n fresh full
    rw [drop]
    exact ⟨rfl, rfl, rfl⟩

/-! ### Commands that change their own port's notices -/

/-- A change of a port's record that does not look at LINK DO may be made before the transfer. -/
theorem modPort_driveLink {f : PortRecord → PortRecord} {bytes : List Byte}
    (linkOut : ∀ r, f { r with linkOut := bytes } = { f r with linkOut := bytes }) (s : State) (p : Port) :
    (s.driveLink p bytes).modPort p f = (s.modPort p f).driveLink p bytes := by
  rw [State.driveLink, State.driveLink, modPort_modPort, modPort_modPort, funext linkOut]

/-- A command whose block changes its own port's record, and of it neither the link state nor LINK DO. -/
theorem takeCommand_modPort {s : State} {p : Port} (ready : s.Ready p) (tag : Byte) (params : List Byte)
    (act : State → Reply) {f : PortRecord → PortRecord} {payload : List Byte}
    (block : act (s.driveLink p (commandEcho params))
      = ((s.driveLink p (commandEcho params)).modPort p f).answer payload)
    (link : ∀ r, (f r).link = r.link)
    (linkOut : ∀ r, f { r with linkOut := commandEcho params } = { f r with linkOut := commandEcho params }) :
    takeCommand p tag params act s = (s.modPort p f).answered p params ⟨.ok, tag, payload⟩ := by
  rw [modPort_driveLink linkOut] at block
  have joined : ((s.modPort p f).port p).joined = true := by
    rw [port_modPort_self, PortRecord.joined, link]
    exact ready.joined
  exact takeCommand_answered ready tag params act block joined

/-! ### What a read takes from a queue and leaves in it -/

section TakeFirst

variable {α : Type} (which : α → Bool)

theorem takeFirst_cons_of_pos (k : Nat) {x : α} (named : which x = true) (rest : List α) :
    takeFirst which (k + 1) (x :: rest) = (x :: (takeFirst which k rest).1, (takeFirst which k rest).2) := by
  rw [takeFirst, if_pos named]

theorem takeFirst_cons_of_neg (k : Nat) {x : α} (other : which x = false) (rest : List α) :
    takeFirst which (k + 1) (x :: rest)
      = ((takeFirst which (k + 1) rest).1, x :: (takeFirst which (k + 1) rest).2) := by
  rw [takeFirst, if_neg (by simp [other])]

@[simp] theorem takeFirst_nil (k : Nat) : takeFirst which k [] = ([], []) := by
  simp [takeFirst]

@[simp] theorem takeFirst_zero (list : List α) : takeFirst which 0 list = ([], list) := by
  cases list <;> simp [takeFirst]

/-- The elements taken are the first `k` of those named. -/
theorem takeFirst_taken (k : Nat) (list : List α) : (takeFirst which k list).1 = (list.filter which).take k := by
  induction list generalizing k with
  | nil => simp
  | cons x rest ih =>
    cases k with
    | zero => simp
    | succ k =>
      cases named : which x with
      | true => simp [takeFirst_cons_of_pos, named, ih]
      | false => simp [takeFirst_cons_of_neg, named, ih]

/-- The elements left keep their order. -/
theorem takeFirst_sublist (k : Nat) (list : List α) : (takeFirst which k list).2.Sublist list := by
  induction list generalizing k with
  | nil => simp
  | cons x rest ih =>
    cases k with
    | zero => simp
    | succ k =>
      cases named : which x with
      | true => rw [takeFirst_cons_of_pos which k named]; exact (ih k).cons x
      | false => rw [takeFirst_cons_of_neg which k named]; exact (ih (k + 1)).cons_cons x

/-- Of the elements named, all but the first `k` are left. -/
theorem takeFirst_left (k : Nat) (list : List α) :
    (takeFirst which k list).2.filter which = (list.filter which).drop k := by
  induction list generalizing k with
  | nil => simp
  | cons x rest ih =>
    cases k with
    | zero => simp
    | succ k =>
      cases named : which x with
      | true => simp [takeFirst_cons_of_pos, named, ih]
      | false => simp [takeFirst_cons_of_neg, named, ih]

variable {which}

/-- The elements that a disjoint predicate names are all left. -/
theorem takeFirst_left_of_disjoint {others : α → Bool} (disjoint : ∀ x, which x = true → others x = false) (k : Nat)
    (list : List α) : (takeFirst which k list).2.filter others = list.filter others := by
  induction list generalizing k with
  | nil => simp
  | cons x rest ih =>
    cases k with
    | zero => simp
    | succ k =>
      cases named : which x with
      | true => simp [takeFirst_cons_of_pos, named, disjoint x named, ih]
      | false => simp [takeFirst_cons_of_neg, named, List.filter_cons, ih]

end TakeFirst

/-! ### READ_NOTICES -/

/-- A read is two passes: the urgent notices of the queue, then the routine ones of what is left. -/
theorem readQueue_eq (queue : List Notice) :
    readQueue queue =
      (let first := takeFirst (fun n : Notice => n.kind.urgent) 6 queue
       let second := takeFirst (fun n : Notice => !n.kind.urgent) (6 - first.1.length) first.2
       (first.1 ++ second.1, second.2)) := rfl

/-- The first pass takes the urgent notices, so it leaves the room that they leave of the six. -/
theorem readQueue_room (queue : List Notice) :
    6 - (takeFirst (fun n : Notice => n.kind.urgent) 6 queue).1.length
      = 6 - (queue.filter fun n => n.kind.urgent).length := by
  rw [takeFirst_taken, List.length_take]
  omega

/-- The first pass leaves the routine notices as they stand. -/
theorem readQueue_routine (queue : List Notice) :
    ((takeFirst (fun n : Notice => n.kind.urgent) 6 queue).2.filter fun n => !n.kind.urgent)
      = queue.filter fun n => !n.kind.urgent :=
  takeFirst_left_of_disjoint (by simp) 6 queue

theorem readQueue_taken (queue : List Notice) :
    (readQueue queue).1 = (queue.filter fun n => n.kind.urgent).take 6
      ++ (queue.filter fun n => !n.kind.urgent).take (6 - (queue.filter fun n => n.kind.urgent).length) := by
  simp only [readQueue_eq, readQueue_room]
  rw [takeFirst_taken, takeFirst_taken, readQueue_routine]

theorem readQueue_sublist (queue : List Notice) : (readQueue queue).2.Sublist queue :=
  (takeFirst_sublist _ _ _).trans (takeFirst_sublist _ _ _)

theorem readQueue_left_urgent (queue : List Notice) :
    ((readQueue queue).2.filter fun n => n.kind.urgent) = (queue.filter fun n => n.kind.urgent).drop 6 := by
  rw [readQueue_eq, takeFirst_left_of_disjoint (by simp), takeFirst_left]

theorem readQueue_left_routine (queue : List Notice) :
    ((readQueue queue).2.filter fun n => !n.kind.urgent)
      = (queue.filter fun n => !n.kind.urgent).drop (6 - (queue.filter fun n => n.kind.urgent).length) := by
  rw [readQueue_eq, takeFirst_left, readQueue_room, readQueue_routine]

/-- The overflow flag as a byte of the response. -/
theorem boolCode_eq_ite (b : Bool) : (boolCode b : Int) = if b then 1 else 0 := by
  cases b <;> rfl

theorem exec_readNotices (p : Port) (tag : Byte) (params : List Byte) (s : State) :
    exec (.readNotices p tag params) s = .next (takeCommand p tag params (readNoticesAct p params) s) := rfl

/-- The block reads the queue and the overflow flag of its port, which the transfer leaves as they were. -/
theorem readNoticesAct_driveLink (s : State) (p : Port) (bytes : List Byte) :
    readNoticesAct p [] (s.driveLink p bytes) =
      ((s.driveLink p bytes).modPort p fun r =>
          ({ r with queue := (readQueue (s.port p).queue).2, overflow := false }).judgeAttn).answer
        (enc1 (readQueue (s.port p).queue).1.length ++ enc1 (readQueue (s.port p).queue).2.length
          ++ enc1 (if (s.port p).overflow then 1 else 0) ++ (readQueue (s.port p).queue).1.flatMap Notice.bytes) := by
  rw [readNoticesAct, withParams_some (a := ()) rfl, readNotices, driveLink_port_queue, driveLink_port_overflow,
    boolCode_eq_ite]

/-- Settles O49: what is left is what the two passes of the read leave, and the answer gives what they took. -/
theorem readNoticesReturns : Obligations.ReadNoticesReturns := by
  intro s p tag ready r urgent routine taken
  refine ⟨(readQueue r.queue).2, readQueue_sublist r.queue, readQueue_left_urgent r.queue,
    readQueue_left_routine r.queue, ?_⟩
  have returned : (readQueue r.queue).1 = taken := readQueue_taken r.queue
  rw [exec_readNotices, takeCommand_modPort ready tag [] _ (readNoticesAct_driveLink s p _) (fun _ => rfl)
    fun _ => rfl, returned]
  rfl

/-! ### DISCARD_NOTICES -/

theorem NoticeKind.code_bounds (kind : NoticeKind) : 1 ≤ kind.code ∧ kind.code ≤ 19 := by
  cases kind <;> decide

theorem NoticeKind.ofCode_code (kind : NoticeKind) : NoticeKind.ofCode kind.code = some kind := by
  cases kind <;> rfl

theorem NoticeKind.ofCode_of_outside {code : Nat} (outside : code = 0 ∨ 19 < code) : NoticeKind.ofCode code = none := by
  refine List.find?_eq_none.2 fun kind _ same => ?_
  have bounds := kind.code_bounds
  rw [beq_iff_eq.1 same] at bounds
  omega

theorem exec_discardNotices (p : Port) (tag : Byte) (params : List Byte) (s : State) :
    exec (.discardNotices p tag params) s = .next (takeCommand p tag params (discardNoticesAct p params) s) := rfl

theorem discardNoticesAct_of_none {code : Byte} (unknown : NoticeKind.ofCode code.toNat = none) (p : Port) (s : State) :
    discardNoticesAct p [code] s = s.refuse .badParam := by
  rw [discardNoticesAct, withParams_some (a := code.toNat) rfl, discardNotices, unknown]

/-- The block reads and changes the queue of its port, which the transfer leaves as it was. -/
theorem discardNoticesAct_of_kind {code : Byte} {kind : NoticeKind} (named : kind.code = code.toNat) (p : Port)
    (s : State) (bytes : List Byte) :
    discardNoticesAct p [code] (s.driveLink p bytes) =
      ((s.driveLink p bytes).modPort p fun r =>
          ({ r with queue := r.queue.filter fun n => n.kind ≠ kind }).judgeAttn).answer
        (enc1 ((s.port p).queue.countP fun n => n.kind == kind)) := by
  rw [discardNoticesAct, withParams_some (a := code.toNat) rfl, discardNotices, ← named, NoticeKind.ofCode_code,
    driveLink_port_queue]

/-- Settles O51: a value outside the codes names no kind and is refused; the code of a kind names it, and the block removes
its notices. -/
theorem discardNoticesRemoves : Obligations.DiscardNoticesRemoves := by
  intro s p tag code ready
  refine ⟨fun outside => ?_, fun kind named => ?_⟩
  · have unknown : NoticeKind.ofCode code.toNat = none :=
      NoticeKind.ofCode_of_outside (outside.imp_left (congrArg BitVec.toNat))
    rw [exec_discardNotices, takeCommand_refused ready tag [code] _
      (discardNoticesAct_of_none unknown p _)]
  · rw [exec_discardNotices, takeCommand_modPort ready tag [code] _ (discardNoticesAct_of_kind named p s _)
      (fun _ => rfl) fun _ => rfl]
    rfl

end Sys2Proof.Machine

/-! The frames of the command link (R173, R174): the sum of a frame's bytes as a number, when a frame is bad, and what a
transfer whose first byte is not 0x00 is read as. -/

namespace Sys2Proof

/-! ### The sum of all bytes -/

/-- The check byte sums modulo 256 as the bytes' numbers do. -/
theorem byteSum_toNat (bytes : List Byte) : (byteSum bytes).toNat = (bytes.map BitVec.toNat).sum % 256 := by
  induction bytes with
  | nil => rfl
  | cons first rest ih =>
    calc (byteSum (first :: rest)).toNat = (first.toNat + (byteSum rest).toNat) % 256 := BitVec.toNat_add ..
      _ = ((first :: rest).map BitVec.toNat).sum % 256 := by
        rw [ih, Nat.add_mod_mod, List.map_cons, List.sum_cons]

theorem byteSum_eq_zero_iff (bytes : List Byte) : byteSum bytes = 0 ↔ (bytes.map BitVec.toNat).sum % 256 = 0 := by
  rw [← byteSum_toNat, BitVec.toNat_eq]
  rfl

/-! ### Good and bad frames -/

/-- The five cases of R174. -/
theorem frameIsBad_iff (bytes : List Byte) (stray : Bool) :
    frameIsBad bytes stray = true ↔
      bytes.length < 4 ∨ stray = true ∨ 60 < (bytes.getD 2 0).toNat ∨ bytes.length ≠ 4 + (bytes.getD 2 0).toNat
        ∨ (bytes.map BitVec.toNat).sum % 256 ≠ 0 := by
  simp only [frameIsBad, Bool.or_eq_true, decide_eq_true_eq, ne_eq, byteSum_eq_zero_iff, or_assoc]

/-- A frame's length byte says where its parameters end: at the check byte, which is the last. -/
theorem dropLast_drop_eq_take {bytes : List Byte} {n : Nat} (length : bytes.length = 4 + n) :
    (bytes.drop 3).dropLast = (bytes.drop 3).take n := by
  rw [List.dropLast_eq_take, List.length_drop, length]
  congr 1
  omega

/-! ### What a transfer is read as -/

section Transfer
variable {bytes : List Byte} {stray : Bool}

theorem isBadTransfer_of_bad (nonempty : bytes ≠ []) (nonzero : bytes.head? ≠ some 0)
    (bad : frameIsBad bytes stray = true) : isBadTransfer bytes stray = true := by
  rw [isBadTransfer, decide_eq_true nonempty, decide_eq_true nonzero, bad]
  rfl

/-- A bad frame is the event BAD_FRAME, whatever its code byte. -/
theorem transferCommand_of_bad (p : Port) (bad : isBadTransfer bytes stray = true) :
    transferCommand p bytes stray = some (.badFrame p bytes stray) :=
  Laws.LinkRoundTrip.badFrame p bytes stray bad p bytes stray rfl

/-- A good frame is read byte by byte: code, tag, and as many parameters as its length byte says. -/
theorem transferCommand_of_good (p : Port) (nonempty : bytes ≠ []) (nonzero : bytes.head? ≠ some 0)
    (good : frameIsBad bytes stray = false) (length : bytes.length = 4 + (bytes.getD 2 0).toNat) :
    transferCommand p bytes stray =
      (let params := (bytes.drop 3).take (bytes.getD 2 0).toNat
       some ((tableCommand p (bytes.getD 0 0) (bytes.getD 1 0) params).getD
        (.unknownCommand p (bytes.getD 0 0) (bytes.getD 1 0) params))) := by
  rw [← dropLast_drop_eq_take length]
  cases bytes with
  | nil => exact absurd rfl nonempty
  | cons first rest =>
    have code : first ≠ 0 := fun zero => nonzero (congrArg some zero)
    rw [transferCommand, if_neg code, if_neg (by rw [good]; exact Bool.false_ne_true)]
    rfl

end Transfer

/-- Settles O6: the layout is that of the frame written out; the check byte makes the sum 0, and a frame with at most 60
parameter bytes reads back. -/
theorem commandFrameLayout : Obligations.CommandFrameLayout := by
  intro p code tag params nonzero fits frame
  have length : frame.length = 4 + params.length := layFrame_length code tag params
  have sum : (frame.map BitVec.toNat).sum % 256 = 0 := (byteSum_eq_zero_iff frame).1 (layFrame_sum code tag params)
  have content : (frame.drop 3).take params.length = params := List.take_left
  exact ⟨rfl, rfl, rfl, content, length, by omega, by omega, sum, transferCommand_layFrame p tag nonzero fits⟩

end Sys2Proof

namespace Sys2Proof.Machine

/-! ### BAD_FRAME -/

theorem exec_badFrame (p : Port) (bytes : List Byte) (stray : Bool) (s : State) :
    exec (.badFrame p bytes stray) s = execBadFrame p bytes stray s := rfl

/-- Driving the link and holding a response are one update of the port. -/
theorem hold_driveLink (s : State) (p : Port) (bytes : List Byte) (r : Response) :
    (s.driveLink p bytes).hold p r = s.modPort p fun q => { q with held := some r, linkOut := bytes } := by
  rw [State.hold, State.driveLink, modPort_modPort]

theorem execBadFrame_of_bad {bytes : List Byte} {stray : Bool} (bad : isBadTransfer bytes stray = true) (p : Port)
    (s : State) :
    execBadFrame p bytes stray s = .next (s.modPort p fun q =>
      { q with held := some ⟨.badFrame, bytes.getD 1 0, []⟩, linkOut := List.replicate bytes.length 0xFF }) := by
  rw [execBadFrame, if_pos bad, hold_driveLink]

/-- Settles O7: in any of the five cases the transfer is BAD_FRAME, which only holds its response and drives the link; in
none of them the length byte is right, and the frame is read as it stands. -/
theorem badFrameDiscarded : Obligations.BadFrameDiscarded := by
  intro s p bytes stray nonempty nonzero
  split
  next cases_of_R174 =>
    have bad : isBadTransfer bytes stray = true :=
      isBadTransfer_of_bad nonempty nonzero ((frameIsBad_iff bytes stray).2 cases_of_R174)
    exact ⟨transferCommand_of_bad p bad, (exec_badFrame p bytes stray s).trans (execBadFrame_of_bad bad p s)⟩
  next none_of_R174 =>
    have good : frameIsBad bytes stray = false :=
      Bool.eq_false_iff.2 fun bad => none_of_R174 ((frameIsBad_iff bytes stray).1 bad)
    have length : bytes.length = 4 + (bytes.getD 2 0).toNat :=
      Decidable.byContradiction fun wrong => none_of_R174 (.inr (.inr (.inr (.inl wrong))))
    exact transferCommand_of_good p nonempty nonzero good length

end Sys2Proof.Machine

/-! How a command frame of Table 11-1 is carried out: the block it is handed to, and what a block can leave of the state
(`State.Acts`). Every invariant of the part is kept by a block because each of its outcomes keeps it. -/

namespace Sys2Proof.Machine

/-! ### The block of a command -/

/-- The block that carries out a command taken from a joined port (R177). JOIN, LEAVE and RESET_PART, which change the
ports themselves, answer on their own. -/
def blockOf : Instr → Option (State → Reply)
  | .keep p _ ps => some (keepAct p ps)
  | .attach p _ ps => some (attachAct p ps)
  | .release p _ ps => some (releaseAct p ps)
  | .retrain p _ ps => some (retrainAct p ps)
  | .adopt p _ ps => some (adoptAct p ps)
  | .setPolicy p _ ps => some (setPolicyAct p ps)
  | .clearHolds p _ ps => some (clearHoldsAct p ps)
  | .adapt p _ ps => some (adaptAct p ps)
  | .query _ _ ps => some (queryAct ps)
  | .pauseProbe p _ ps => some (pauseProbeAct p ps)
  | .resumeProbe p _ ps => some (resumeProbeAct p ps)
  | .poolStatus _ _ ps => some (poolStatusAct ps)
  | .snapshot p tag ps => some (snapshotAct p tag ps)
  | .restore p tag ps => some (restoreAct p tag ps)
  | .dropSnapshot p _ ps => some (dropSnapshotAct p ps)
  | .readTaps _ _ ps => some (readTapsAct ps)
  | .move p tag ps => some (moveAct p tag ps)
  | .cancelMove p _ ps => some (cancelMoveAct p ps)
  | .moverStatus _ _ ps => some (moverStatusAct ps)
  | .cacheList _ _ ps => some (cacheListAct ps)
  | .cachePurge _ _ ps => some (cachePurgeAct ps)
  | .readNotices p _ ps => some (readNoticesAct p ps)
  | .maskNotices p _ ps => some (maskNoticesAct p ps)
  | .discardNotices p _ ps => some (discardNoticesAct p ps)
  | .claim p _ ps => some (claimAct p ps)
  | .yieldClaim p _ ps => some (yieldAct p ps)
  | .setConfig p _ ps => some (setConfigAct p ps)
  | .getConfig p _ ps => some (getConfigAct p ps)
  | _ => none

/-- A command with a block is taken, and its block carries it out. -/
theorem exec_of_block {c : Instr} {p : Port} {tag : Byte} {params : List Byte} {act : State → Reply}
    (frame : frameOf c = some (p, tag, params)) (block : blockOf c = some act) (s : State) :
    exec c s = .next (takeCommand p tag params act s) := by
  cases c <;> cases block <;> cases frame <;> rfl

/-- The commands of Table 11-1 are those with a block, JOIN, LEAVE and RESET_PART. -/
theorem block_or_port_command {c : Instr} {p : Port} {tag : Byte} {params : List Byte}
    (frame : frameOf c = some (p, tag, params)) :
    (∃ act, blockOf c = some act) ∨ c = .join p tag params ∨ c = .leave p tag params ∨ c = .resetPart p tag params := by
  cases c
  case join => cases frame; exact .inr (.inl rfl)
  case leave => cases frame; exact .inr (.inr (.inl rfl))
  case resetPart => cases frame; exact .inr (.inr (.inr rfl))
  all_goals first | exact .inl ⟨_, rfl⟩ | cases frame

/-! ### What a block can leave -/

/-- A snapshot record made on the room found, and its CAPTURE enqueued (R56, R57). -/
def State.snapshotOn (p : Port) (tag : Byte) (n : ChannelNo) (room : SnapshotRoom) : State :=
  let made := room.state.modChan n fun c => c.addSnapshot room.segments
  made.enqueue (internalOrder p tag (.capture n (room.state.chan n).newId) (made.chan n).profile.setTaps)

/-- What the block of a command that port `p` has sent can leave of the state: nothing changed, where the command is refused
or only reads; or what the command does once its checks have passed. -/
inductive State.Acts (s : State) (p : Port) : State → Prop
  | nothing : s.Acts p s
  | resumes {n : ChannelNo} {profile : Profile} {policy : Policy} {e : CacheEntry}
      (vacant : (s.chan n).state = .vacant) (entry : s.resumable profile policy = some e) :
      s.Acts p (s.resume p n profile policy e)
  | attaches {n : ChannelNo} {profile : Profile} {policy : Policy} (vacant : (s.chan n).state = .vacant)
      (room : profile.segments ≤ s.pool.free.length + s.cacheSegments) :
      s.Acts p (s.closeEvent (s.attachFresh p n profile policy))
  | releases {n : ChannelNo} (lessee : (s.chan n).lessee = some p) (inCall : (s.chan n).state.inCall = true) :
      s.Acts p (s.closeEvent ((((s.freePlayer n).leaveQueue n).modChan n Channel.startRelease).abortOrders
        fun o => o.work.touches n))
  | retrains {n : ChannelNo} (lessee : (s.chan n).lessee = some p) (inCall : (s.chan n).state.inCall = true) :
      s.Acts p (s.closeEvent (((s.freePlayer n).leaveQueue n).enterQueued n))
  | wipes {n : ChannelNo} (lessee : (s.chan n).lessee = some p) (inCall : (s.chan n).state.inCall = true) :
      s.Acts p (s.closeEvent (((((s.freePlayer n).leaveQueue n).writeInitialTaps n).modChan n
        fun c => { c with window := .inactive }).enterQueued n))
  | adopts {n : ChannelNo} {st : CallState} (left : (s.chan n).state = .orphaned ∨ (s.chan n).state = .stranded) :
      s.Acts p ((s.closeEvent (s.adoptInto p n)).broadcastExcept p (channelAdopted p n st))
  | setsPolicy {n : ChannelNo} {policy : Policy} :
      s.Acts p (s.modChan n fun c => { c with policy, holdCount := min (s.chan n).holdCount policy.holdLimit })
  | clearsHolds {n : ChannelNo} : s.Acts p (s.modChan n fun c => { c with holdCount := 0 })
  | setsBudget {n : ChannelNo} {count : Nat} : s.Acts p (s.modChan n fun c => { c with budget := count })
  | pauses {k : PlayerNo} {play : Play} {paused : Bool} (holds : s.play k = some play) :
      s.Acts p (s.setPlay k (some { play with paused := paused }))
  | snapshots {n : ChannelNo} {tag : Byte} {room : SnapshotRoom} (lessee : (s.chan n).lessee = some p)
      (found : s.snapshotRoom n = .ok room) (places : s.mover.length < 16) :
      s.Acts p (s.closeEvent (State.snapshotOn p tag n room))
  | restores {n : ChannelNo} {tag : Byte} {id total : Nat} (places : s.mover.length < 16) :
      s.Acts p (s.enqueue (internalOrder p tag (.restore n id) total))
  | drops {n : ChannelNo} {id : Nat} : s.Acts p (s.closeEvent (s.removeSnapshot n id))
  | moves {tag : Byte} {w : Work} (accepted : s.moveRefusal p w = none) : s.Acts p (s.enqueue (commandOrder p tag w))
  | cancels {place : Nat} {o : Order} (named : s.mover[place]? = some o) :
      s.Acts p (s.closeEvent (s.cancelOrder place o))
  | ages : s.Acts p s.takeAged
  | purges {e : CacheEntry} (held : e ∈ s.cache) : s.Acts p (s.closeEvent (s.evict .purged e))
  | notices {f : PortRecord → PortRecord}
      (fields : (f (s.port p)).link = (s.port p).link ∧ (f (s.port p)).lease = (s.port p).lease
        ∧ (f (s.port p)).held = (s.port p).held ∧ (f (s.port p)).linkOut = (s.port p).linkOut)
      (sound : (s.port p).joined = true → (s.port p).Sound → (f (s.port p)).Sound) : s.Acts p (s.modPort p f)
  | claims (free : s.claim = none) : s.Acts p (s.setClaim (some p))
  | yields : s.Acts p (s.setClaim none)
  | configures {items : List (ConfigParam × Int)} (accepted : s.config.accepts items = true) :
      s.Acts p (s.writeConfig items)

/-! ### The checks that every command shares -/

theorem acts_withParams {α : Type} {parse : List Byte → Option α} {params : List Byte} {act : α → State → Reply}
    {s : State} {p : Port} (h : ∀ a, s.Acts p (act a s).state) : s.Acts p (withParams parse params act s).state := by
  unfold withParams
  split
  · exact .nothing
  · exact h _

theorem acts_withChannel {n : Nat} {act : ChannelNo → State → Reply} {s : State} {p : Port}
    (h : ∀ c, s.Acts p (act c s).state) : s.Acts p (withChannel n act s).state := by
  unfold withChannel
  split
  · exact .nothing
  · exact h _

theorem acts_withLessee {n : Nat} {act : ChannelNo → State → Reply} {s : State} {p : Port}
    (h : ∀ c, (s.chan c).lessee = some p → s.Acts p (act c s).state) : s.Acts p (withLessee p n act s).state := by
  refine acts_withChannel fun c => ?_
  split
  · exact .nothing
  · next q lessee =>
    split
    · next own => exact h c (by rw [lessee, own])
    · exact .nothing

/-! ### Each block -/

@[simp] theorem answer_state (s : State) (payload : List Byte) : (s.answer payload).state = s := rfl

section Blocks

variable {s : State} {p : Port}

theorem acts_attachChannel (a : AttachParams) (n : ChannelNo) : s.Acts p (attachChannel p a n s).state := by
  unfold attachChannel
  split
  · exact .nothing
  · next vacant =>
    split
    · exact .nothing
    · split
      · exact .nothing
      · split
        · next entry => exact .resumes (not_not.1 vacant) entry
        · dsimp only
          split
          · next room => exact .attaches (not_not.1 vacant) room
          · exact .nothing

theorem acts_releaseChannel {n : ChannelNo} (lessee : (s.chan n).lessee = some p) :
    s.Acts p (releaseChannel n s).state := by
  unfold releaseChannel
  dsimp only
  split
  · next inCall => exact .releases lessee inCall
  · exact .nothing

theorem acts_retrainChannel (clear : Nat) {n : ChannelNo} (lessee : (s.chan n).lessee = some p) :
    s.Acts p (retrainChannel clear n s).state := by
  unfold retrainChannel
  split
  · next inCall =>
    split
    · exact .nothing
    · next wipe _ =>
      cases wipe with
      | false => exact .retrains lessee inCall
      | true => exact .wipes lessee inCall
  · exact .nothing

theorem acts_adoptChannel (n : ChannelNo) : s.Acts p (adoptChannel p n s).state := by
  unfold adoptChannel
  dsimp only
  split
  · next left => exact .adopts left
  · exact .nothing

theorem acts_setPolicyChannel (items : List (PolicyField × Int)) (n : ChannelNo) :
    s.Acts p (setPolicyChannel items n s).state := by
  unfold setPolicyChannel
  dsimp only
  split
  · split
    · split
      · exact .nothing
      · exact .setsPolicy
    · exact .nothing
  · exact .nothing

theorem acts_clearHoldsChannel (n : ChannelNo) : s.Acts p (clearHoldsChannel n s).state := by
  unfold clearHoldsChannel
  dsimp only
  split
  · exact .clearsHolds
  · exact .nothing

theorem playOf_holds {n : ChannelNo} {k : PlayerNo} {play : Play} (h : s.playOf n = some (k, play)) :
    s.play k = some play := by
  unfold State.playOf at h
  split at h
  · obtain ⟨j, -, hj⟩ := Option.bind_eq_some_iff.1 h
    obtain ⟨x, hx, e⟩ := Option.map_eq_some_iff.1 hj
    cases e
    exact hx
  · cases h

theorem acts_pauseChannel (n : ChannelNo) : s.Acts p (pauseChannel n s).state := by
  unfold pauseChannel
  split
  · next holds =>
    split
    · exact .nothing
    · exact .pauses (playOf_holds holds)
  · exact .nothing

theorem acts_resumeChannel (n : ChannelNo) : s.Acts p (resumeChannel n s).state := by
  unfold resumeChannel
  split
  · next holds =>
    split
    · exact .pauses (playOf_holds holds)
    · exact .nothing
  · exact .nothing

theorem acts_snapshotChannel (tag : Byte) {n : ChannelNo} (lessee : (s.chan n).lessee = some p) :
    s.Acts p (snapshotChannel p tag n s).state := by
  unfold snapshotChannel
  split
  · exact .nothing
  · split
    · exact .nothing
    · next room found =>
      split
      · exact .nothing
      · next places => exact .snapshots lessee found (not_le.1 places)

theorem acts_restoreChannel (tag : Byte) (id : Nat) (n : ChannelNo) :
    s.Acts p (restoreChannel p tag id n s).state := by
  unfold restoreChannel
  dsimp only
  split
  · exact .nothing
  · split
    · exact .nothing
    · split
      · exact .nothing
      · split
        · split
          · exact .nothing
          · next places => exact .restores (not_le.1 places)
        · exact .nothing

theorem acts_dropChannelSnapshot (id : Nat) (n : ChannelNo) : s.Acts p (dropChannelSnapshot id n s).state := by
  unfold dropChannelSnapshot
  split
  · exact .nothing
  · split
    · exact .nothing
    · split
      · exact .nothing
      · exact .drops

/-- READ_TAPS only reads (R60). -/
theorem readTapsChannel_state (a : ReadTapsParams) (n : ChannelNo) : (readTapsChannel a n s).state = s := by
  unfold readTapsChannel
  dsimp only
  split
  · rfl
  · split
    · rfl
    · rfl
    · split
      · rfl
      · split <;> rfl

theorem acts_moveTaps (tag : Byte) (params : MoveParams) : s.Acts p (moveTaps p tag params s).state := by
  unfold moveTaps
  split
  · split
    · exact .nothing
    · split
      · exact .nothing
      · next accepted => exact .moves accepted
  · exact .nothing

theorem acts_cancelMove (tag : Nat) : s.Acts p (cancelMove p tag s).state := by
  unfold cancelMove
  split
  · exact .nothing
  · split
    · exact .nothing
    · next named => exact .cancels named

/-- MOVER_STATUS only reads (R121). -/
theorem listOrders_state (first : Nat) : (listOrders first s).state = s := by
  unfold listOrders
  split <;> rfl

theorem acts_listCache (first : Nat) : s.Acts p (listCache first s).state := by
  unfold listCache
  split
  · exact .nothing
  · exact .ages

theorem acts_purgeCache (tag : Nat) : s.Acts p (purgeCache tag s).state := by
  unfold purgeCache
  split
  · exact .nothing
  · split
    · exact .nothing
    · next e found =>
      have held : e ∈ s.cache := List.mem_of_find?_eq_some found
      rw [answer_state]
      exact .purges held

/-- A read leaves a sound record: the notices that stay were there, and ATTN is judged (R168, R169). -/
theorem acts_readNotices : s.Acts p (readNotices p s).state := by
  refine .notices (f := fun r => ({ r with queue := (readQueue (s.port p).queue).2, overflow := false }).judgeAttn)
    ⟨rfl, rfl, rfl, rfl⟩ fun joined sound => ?_
  have present : (s.port p).link ≠ .absent := by simpa [PortRecord.joined] using joined
  have left := readQueue_sublist (s.port p).queue
  exact ⟨rfl, left.length_le.trans sound.length, sound.keys.sublist (left.map _), fun absent => absurd absent present,
    sound.joined⟩

theorem acts_maskNotices (codes : List Nat) : s.Acts p (maskNotices p codes s).state := by
  unfold maskNotices
  split
  · exact .nothing
  · next mask _ =>
    refine .notices (f := fun r => ({ r with mask }).judgeAttn) ⟨rfl, rfl, rfl, rfl⟩ fun joined sound => ?_
    have present : (s.port p).link ≠ .absent := by simpa [PortRecord.joined] using joined
    exact ⟨rfl, sound.length, sound.keys, fun absent => absurd absent present, sound.joined⟩

theorem acts_discardNotices (code : Nat) : s.Acts p (discardNotices p code s).state := by
  unfold discardNotices
  split
  · exact .nothing
  · next kind _ =>
    refine .notices (f := fun r => ({ r with queue := r.queue.filter fun n => n.kind ≠ kind }).judgeAttn)
      ⟨rfl, rfl, rfl, rfl⟩ fun joined sound => ?_
    have present : (s.port p).link ≠ .absent := by simpa [PortRecord.joined] using joined
    have left := List.filter_sublist (l := (s.port p).queue) (p := fun n => decide (n.kind ≠ kind))
    exact ⟨rfl, left.length_le.trans sound.length, sound.keys.sublist (left.map _), fun absent => absurd absent present,
      sound.joined⟩

theorem acts_claimConfig : s.Acts p (claimConfig p s).state := by
  unfold claimConfig
  split
  · next free => exact .claims free
  · exact .nothing

theorem acts_yieldConfig : s.Acts p (yieldConfig p s).state := by
  unfold yieldConfig
  split
  · exact .yields
  · exact .nothing

theorem acts_setConfig (items : List (ConfigParam × Int)) : s.Acts p (setConfig p items s).state := by
  unfold setConfig
  split
  · split
    · next accepted => exact .configures accepted
    · exact .nothing
  · exact .nothing

end Blocks

/-- What a block leaves is one of the outcomes of `State.Acts`. -/
theorem block_acts {c : Instr} {p : Port} {tag : Byte} {params : List Byte} {act : State → Reply}
    (frame : frameOf c = some (p, tag, params)) (block : blockOf c = some act) (s : State) :
    s.Acts p (act s).state := by
  cases c <;> cases block <;> cases frame
  case keep => exact acts_withParams fun _ => .nothing
  case attach => exact acts_withParams fun a => acts_withChannel fun n => acts_attachChannel a n
  case release => exact acts_withParams fun _ => acts_withLessee fun _ => acts_releaseChannel
  case retrain => exact acts_withParams fun a => acts_withLessee fun _ => acts_retrainChannel a.2
  case adopt => exact acts_withParams fun _ => acts_withChannel acts_adoptChannel
  case setPolicy => exact acts_withParams fun a => acts_withLessee fun n _ => acts_setPolicyChannel a.2 n
  case clearHolds => exact acts_withParams fun _ => acts_withLessee fun n _ => acts_clearHoldsChannel n
  case adapt => exact acts_withParams fun _ => acts_withLessee fun _ _ => .setsBudget
  case query => exact acts_withParams fun _ => acts_withChannel fun _ => .nothing
  case pauseProbe => exact acts_withParams fun _ => acts_withLessee fun n _ => acts_pauseChannel n
  case resumeProbe => exact acts_withParams fun _ => acts_withLessee fun n _ => acts_resumeChannel n
  case poolStatus => exact acts_withParams fun _ => .nothing
  case snapshot => exact acts_withParams fun _ => acts_withLessee fun _ => acts_snapshotChannel tag
  case restore => exact acts_withParams fun a => acts_withLessee fun n _ => acts_restoreChannel tag a.2 n
  case dropSnapshot => exact acts_withParams fun a => acts_withLessee fun n _ => acts_dropChannelSnapshot a.2 n
  case readTaps =>
    refine acts_withParams fun a => acts_withChannel fun n => ?_
    rw [readTapsChannel_state]
    exact .nothing
  case move => exact acts_withParams fun a => acts_moveTaps tag a
  case cancelMove => exact acts_withParams fun a => acts_cancelMove a
  case moverStatus =>
    refine acts_withParams fun first => ?_
    rw [listOrders_state]
    exact .nothing
  case cacheList => exact acts_withParams fun first => acts_listCache first
  case cachePurge => exact acts_withParams fun route => acts_purgeCache route
  case readNotices => exact acts_withParams fun _ => acts_readNotices
  case maskNotices => exact acts_withParams fun codes => acts_maskNotices codes
  case discardNotices => exact acts_withParams fun code => acts_discardNotices code
  case claim => exact acts_withParams fun _ => acts_claimConfig
  case yieldClaim => exact acts_withParams fun _ => acts_yieldConfig
  case setConfig => exact acts_withParams fun items => acts_setConfig items
  case getConfig => exact acts_withParams fun _ => .nothing

end Sys2Proof.Machine

/-! A property of the state that every event keeps is kept by every step (`KeptByEvents`). The invariants of the part are
each a case of it: one field for each event of the part, the blocks of the commands all together by `State.Acts`. -/

namespace Sys2Proof.Machine

/-- A port record that replaces another one: it is joined if that one was, and sound if that one was. -/
structure PortRecord.Eases (r r' : PortRecord) : Prop where
  joined : r.joined = true → r'.joined = true
  sound : r.Sound → r'.Sound

theorem PortRecord.Eases.refl (r : PortRecord) : r.Eases r := ⟨id, id⟩

/-- A response held and bytes driven say nothing of link, lease and notices. -/
theorem PortRecord.eases_held (r : PortRecord) (held : Option Response) (linkOut : List Byte) :
    r.Eases { r with held := held, linkOut := linkOut } :=
  ⟨id, fun h => ⟨h.attn, h.length, h.keys, h.absent, h.joined⟩⟩

theorem State.Heard.eases {s t : State} (h : s.Heard t) (q : Port) : (s.port q).Eases (t.port q) :=
  ⟨fun j => by rw [h.joined q]; exact j, h.sound⟩

/-- Each event of the part keeps the property, which looks at the ports and the highway at most in what the updates of
these two named here leave of it. -/
structure KeptByEvents (I : State → Prop) : Prop where
  ports : ∀ {s : State} (ports : Vector PortRecord 4), (∀ q, (s.port q).Eases (ports.get q)) → I s →
    I { s with ports := ports }
  highway : ∀ {s : State} (f : Highway → Highway), (s.highway.Sound → (f s.highway).Sound) → I s → I (s.modHighway f)
  endOfPlay : ∀ {s : State} (k : PlayerNo), I s → I (s.endOfPlay k)
  epochEnd : ∀ {s : State}, I s → I s.epochEnd
  acts : ∀ {s u : State} {p : Port}, I s → (s.port p).joined = true → s.Acts p u → I u
  reset : ∀ {s : State}, I s → I s.resetPart
  losePort : ∀ {s : State} (p : Port) (reason : LossReason), I s → I (s.losePort p reason).1
  frame : ∀ {s : State} (lineIn pumpIn : Vector Slot 48), s.highway.sync = .locked → s.epochDue = false → I s →
    I (s.frame lineIn pumpIn)
  loseSync : ∀ {s : State} (cause : SyncCause), I s → I (s.loseSync cause)
  markHead : ∀ {s : State}, I s → I s.markHead
  completeHead : ∀ {s : State}, I s → I (s.closeEvent s.completeHead)
  expireDrain : ∀ {s : State} (n : ChannelNo), I s → I (s.expireDrain n)
  expireHold : ∀ {s : State} (n : ChannelNo), I s → I (s.expireHold n)
  expireStrand : ∀ {s : State} (n : ChannelNo), I s → I (s.expireStrand n)
  expireCache : ∀ {s : State}, I s → I s.expireCache
  tick : ∀ {s : State}, I s → I s.tick

theorem foldl_keeps {α : Type} {I : State → Prop} {f : State → α → State} (h : ∀ {s : State} (a : α), I s → I (f s a))
    (items : List α) {s : State} (i : I s) : I (items.foldl f s) := by
  induction items generalizing s with
  | nil => exact i
  | cons a rest ih => exact ih (h a i)

theorem exec_join (p : Port) (tag : Byte) (params : List Byte) (s : State) :
    exec (.join p tag params) s = execJoin p tag params s := rfl

theorem exec_leave (p : Port) (tag : Byte) (params : List Byte) (s : State) :
    exec (.leave p tag params) s = execLeave p tag params s := rfl

theorem exec_resetPart (p : Port) (tag : Byte) (params : List Byte) (s : State) :
    exec (.resetPart p tag params) s = execResetPart p tag params s := rfl

theorem exec_unknownCommand (p : Port) (code tag : Byte) (params : List Byte) (s : State) :
    exec (.unknownCommand p code tag params) s = execUnknownCommand p code tag params s := rfl

theorem exec_readTransfer (p : Port) (clocked : Nat) (s : State) :
    exec (.readTransfer p clocked) s = execReadTransfer p clocked s := rfl

theorem exec_reset (s : State) : exec .reset s = .next s.resetPart := rfl

theorem exec_lockedFrame (lineIn pumpIn : Vector Slot 48) (s : State) :
    exec (.lockedFrame lineIn pumpIn) s = execLockedFrame lineIn pumpIn s := rfl

theorem exec_endOfPlay (k : PlayerNo) (s : State) : exec (.endOfPlay k) s = .next (s.endOfPlay k) := rfl

theorem exec_frameBoundary (pulseAt pulseElsewhere : Bool) (s : State) :
    exec (.frameBoundary pulseAt pulseElsewhere) s = execFrameBoundary pulseAt pulseElsewhere s := rfl

theorem exec_huntPulse (spacing : Option Nat) (s : State) :
    exec (.huntPulse spacing) s = execHuntPulse spacing s := rfl

theorem exec_noClock (s : State) : exec .noClock s = execNoClock s := rfl

theorem exec_epochEnd (s : State) : exec .epochEnd s = .next s.settle := rfl

theorem exec_orderComplete (s : State) : exec .orderComplete s = execOrderComplete s := rfl

theorem exec_drainExpiry (n : ChannelNo) (s : State) : exec (.drainExpiry n) s = .next (s.settle.expireDrain n) := rfl

theorem exec_leaseExpiry (p : Port) (s : State) : exec (.leaseExpiry p) s = .next (s.settle.expireLease p) := rfl

theorem exec_holdExpiry (n : ChannelNo) (s : State) : exec (.holdExpiry n) s = .next (s.settle.expireHold n) := rfl

theorem exec_strandExpiry (n : ChannelNo) (s : State) : exec (.strandExpiry n) s = .next (s.settle.expireStrand n) := rfl

theorem exec_cacheAged (s : State) : exec .cacheAged s = .next s.settle.expireCache := rfl

theorem exec_timebaseTick (s : State) : exec .timebaseTick s = .next s.settle.takeExpiries.tick := rfl

/-- The run count that a pulse leaves: one more at 768 clocks after the run reference, 0 otherwise (R34). -/
def State.runAfter (s : State) (clocks : Nat) : Nat :=
  if s.highway.runReference ∧ clocks = 768 then s.highway.runCount + 1 else 0

theorem judgePulse_some (s : State) (clocks : Nat) : s.judgePulse (some clocks) =
    if s.runAfter clocks = 16 then s.lock
    else s.modHighway fun h => { h with runCount := s.runAfter clocks, runReference := true } := rfl

/-- No epoch end is due after one. -/
theorem epochDue_epochEnd (s : State) : s.epochEnd.epochDue = false := by
  have frames : s.epochEnd.highway.epochFrames = 0 := by rw [(epochEnd_within s).highway]; rfl
  simp [State.epochDue, frames]

theorem epochDue_settle (s : State) : s.settle.epochDue = false := by
  unfold State.settle
  dsimp only
  split
  · exact epochDue_epochEnd _
  · next h => simpa using h

namespace KeptByEvents

variable {I : State → Prop} (kept : KeptByEvents I) {s : State}
include kept

theorem settle (i : I s) : I s.settle := by
  have ended : I (allPlayers.foldl State.endOfPlay s) := foldl_keeps (fun k => kept.endOfPlay k) _ i
  unfold State.settle
  dsimp only
  split
  · exact kept.epochEnd ended
  · exact ended

theorem modPort (p : Port) (f : PortRecord → PortRecord) (eases : (s.port p).Eases (f (s.port p))) (i : I s) :
    I (s.modPort p f) := by
  refine kept.ports _ (fun q => ?_) i
  change (s.port q).Eases ((s.modPort p f).port q)
  rw [port_modPort]
  split
  · next own => subst own; exact eases
  · exact .refl _

theorem hold (p : Port) (r : Response) (i : I s) : I (s.hold p r) :=
  kept.modPort p _ ((s.port p).eases_held _ _) i

theorem driveLink (p : Port) (bytes : List Byte) (i : I s) : I (s.driveLink p bytes) :=
  kept.modPort p _ ((s.port p).eases_held _ _) i

theorem renew (p : Port) (i : I s) : I (s.renew p) := by
  unfold State.renew
  split
  · refine kept.modPort p _ ⟨fun _ => rfl, fun h => ⟨h.attn, h.length, h.keys, nofun, fun _ => rfl⟩⟩ i
  · exact i

theorem broadcast (n : Notice) (i : I s) : I (s.broadcast n) := by
  obtain ⟨ports, e⟩ := broadcast_eq s n
  have heard := (broadcast_within s n).heard
  rw [e] at heard ⊢
  exact kept.ports ports heard.eases i

theorem finish {r : Reply} (p : Port) (tag : Byte) (i : I r.state) : I (r.finish p tag) := by
  rw [Reply.finish]
  exact kept.hold p _ (kept.renew p i)

theorem beginCommand (p : Port) (params : List Byte) (i : I s) : I (s.beginCommand p params) := by
  rw [State.beginCommand]
  exact kept.driveLink p _ (kept.settle i)

theorem takeCommand {p : Port} (tag : Byte) (params : List Byte) {act : State → Reply}
    (acts : ∀ u : State, u.Acts p (act u).state) (i : I s) : I (takeCommand p tag params act s) := by
  have begun := kept.beginCommand p params i
  unfold Machine.takeCommand
  dsimp only
  split
  · next joined => exact kept.finish p tag (kept.acts begun joined (acts _))
  · exact kept.hold p _ begun

theorem execJoin (p : Port) (tag : Byte) (params : List Byte) (i : I s) :
    ∃ t, execJoin p tag params s = .next t ∧ I t := by
  have begun := kept.beginCommand p params i
  unfold Machine.execJoin
  dsimp only
  split
  · exact ⟨_, rfl, kept.finish p tag begun⟩
  · next absent =>
    split
    · exact ⟨_, rfl, kept.hold p _ begun⟩
    · refine ⟨_, rfl, kept.hold p _ (kept.modPort p _ ⟨fun _ => rfl, fun h => ?_⟩ begun)⟩
      exact ⟨h.attn, h.length, h.keys, nofun, fun _ => rfl⟩

theorem execLeave (p : Port) (tag : Byte) (params : List Byte) (i : I s) :
    ∃ t, execLeave p tag params s = .next t ∧ I t := by
  have begun := kept.beginCommand p params i
  unfold Machine.execLeave
  dsimp only
  split
  · split
    · exact ⟨_, rfl, kept.finish p tag begun⟩
    · exact ⟨_, rfl, kept.hold p _ (kept.losePort p .left begun)⟩
  · exact ⟨_, rfl, kept.hold p _ begun⟩

theorem execResetPart (p : Port) (tag : Byte) (params : List Byte) (i : I s) :
    ∃ t, execResetPart p tag params s = .next t ∧ I t := by
  have begun := kept.beginCommand p params i
  unfold Machine.execResetPart
  dsimp only
  split
  · split
    · exact ⟨_, rfl, kept.finish p tag begun⟩
    · split
      · split
        · exact ⟨_, rfl, kept.finish p tag begun⟩
        · exact ⟨_, rfl, kept.hold p _ (kept.driveLink p _ (kept.reset begun))⟩
      · exact ⟨_, rfl, kept.finish p tag begun⟩
  · exact ⟨_, rfl, kept.hold p _ begun⟩

theorem execUnknownCommand (p : Port) (code tag : Byte) (params : List Byte) (i : I s) :
    ∃ t, execUnknownCommand p code tag params s = .next t ∧ I t := by
  unfold Machine.execUnknownCommand
  split
  · exact ⟨_, rfl, i⟩
  · exact ⟨_, rfl, kept.finish p tag (kept.beginCommand p params i)⟩

theorem execBadFrame (p : Port) (bytes : List Byte) (stray : Bool) (i : I s) :
    ∃ t, execBadFrame p bytes stray s = .next t ∧ I t := by
  unfold Machine.execBadFrame
  split
  · exact ⟨_, rfl, kept.hold p _ (kept.driveLink p _ i)⟩
  · exact ⟨_, rfl, i⟩

theorem execReadTransfer (p : Port) (clocked : Nat) (i : I s) :
    ∃ t, execReadTransfer p clocked s = .next t ∧ I t := by
  unfold Machine.execReadTransfer
  split
  · exact ⟨_, rfl, i⟩
  · split
    · exact ⟨_, rfl, kept.driveLink p _ i⟩
    · dsimp only
      split
      · exact ⟨_, rfl, kept.modPort p _ (PortRecord.eases_held _ _ _) (kept.driveLink p _ i)⟩
      · exact ⟨_, rfl, kept.driveLink p _ i⟩

theorem execLockedFrame (lineIn pumpIn : Vector Slot 48) (i : I s) :
    ∃ t, execLockedFrame lineIn pumpIn s = .next t ∧ I t := by
  have settled := kept.settle i
  unfold Machine.execLockedFrame
  dsimp only
  split
  · next locked => exact ⟨_, rfl, kept.frame _ _ locked (epochDue_settle s) settled⟩
  · exact ⟨_, rfl, settled⟩

theorem execFrameBoundary (pulseAt pulseElsewhere : Bool) (i : I s) :
    ∃ t, execFrameBoundary pulseAt pulseElsewhere s = .next t ∧ I t := by
  have settled := kept.settle i
  unfold Machine.execFrameBoundary State.judgeBoundary
  dsimp only
  split
  · next locked =>
    have clears : ∀ (h : Highway) (count : Nat), h.sync = .locked → count ≤ 1 → h.Sound →
        { h with faultCount := count }.Sound := fun h count locked small i =>
      ⟨small, i.run, i.epoch, fun hunting => (SyncState.noConfusion (locked.symm.trans hunting)), i.locked⟩
    refine ⟨_, rfl, ?_⟩
    split
    · exact kept.highway _ (clears _ 0 locked (Nat.zero_le 1)) settled
    · split
      · exact kept.highway _ (clears _ 1 locked le_rfl) settled
      · exact kept.loseSync _ settled
  · exact ⟨_, rfl, settled⟩

theorem lock (i : I s) : I s.lock :=
  kept.broadcast _ (kept.markHead (kept.highway _ (fun _ => ⟨Nat.zero_le _, Nat.zero_le _, Nat.zero_le _,
    nofun, fun _ => ⟨rfl, rfl⟩⟩) i))

theorem judgePulse (hunting : s.highway.sync = .hunting) (spacing : Option Nat) (i : I s) :
    I (s.judgePulse spacing) := by
  cases spacing with
  | none => exact i
  | some clocks =>
    rw [judgePulse_some]
    split
    · exact kept.lock i
    · next count =>
      refine kept.highway _ (fun h => ⟨h.fault, ?_, h.epoch, h.hunting, fun locked => ?_⟩) i
      · have bound : s.runAfter clocks ≤ s.highway.runCount + 1 := by
          unfold State.runAfter
          split
          · exact le_rfl
          · exact Nat.zero_le _
        have run := h.run
        show s.runAfter clocks ≤ 15
        omega
      · cases hunting.symm.trans locked

theorem execHuntPulse (spacing : Option Nat) (i : I s) : ∃ t, execHuntPulse spacing s = .next t ∧ I t := by
  have settled := kept.settle i
  unfold Machine.execHuntPulse
  dsimp only
  split
  · next hunting => exact ⟨_, rfl, kept.judgePulse hunting spacing settled⟩
  · exact ⟨_, rfl, settled⟩

theorem execNoClock (i : I s) : ∃ t, execNoClock s = .next t ∧ I t := by
  have settled := kept.settle i
  unfold Machine.execNoClock
  dsimp only
  split
  · exact ⟨_, rfl, kept.loseSync _ settled⟩
  · next hunting =>
    refine ⟨_, rfl, kept.highway _ (fun h => ⟨h.fault, Nat.zero_le _, h.epoch, h.hunting, fun locked => ?_⟩) settled⟩
    cases hunting.symm.trans locked

theorem execOrderComplete (i : I s) : ∃ t, execOrderComplete s = .next t ∧ I t := by
  have settled := kept.settle i
  unfold Machine.execOrderComplete
  dsimp only
  split
  · exact ⟨_, rfl, kept.completeHead settled⟩
  · exact ⟨_, rfl, settled⟩

theorem expireLease (p : Port) (i : I s) : I (s.expireLease p) := by
  unfold State.expireLease
  split
  · exact kept.losePort p .lease i
  · exact i

theorem takeExpiries (i : I s) : I s.takeExpiries :=
  kept.expireCache (foldl_keeps kept.expireStrand _ (foldl_keeps kept.expireHold _
    (foldl_keeps kept.expireDrain _ (foldl_keeps kept.expireLease _ i))))

/-- Every command of Table 11-1 keeps the property. -/
theorem exec_frame {c : Instr} {f : Port × Byte × List Byte} (frame : frameOf c = some f) (i : I s) :
    ∃ t, exec c s = .next t ∧ I t := by
  obtain ⟨p, tag, params⟩ := f
  obtain ⟨act, block⟩ | rfl | rfl | rfl := block_or_port_command frame
  · exact ⟨_, exec_of_block frame block s, kept.takeCommand tag params (block_acts frame block) i⟩
  · rw [exec_join]; exact kept.execJoin p tag params i
  · rw [exec_leave]; exact kept.execLeave p tag params i
  · rw [exec_resetPart]; exact kept.execResetPart p tag params i

/-- Every command keeps the property. -/
theorem exec (c : Instr) (i : I s) : ∃ t, exec c s = .next t ∧ I t := by
  cases c
  case unknownCommand p code tag params => rw [exec_unknownCommand]; exact kept.execUnknownCommand p code tag params i
  case badFrame p bytes stray => rw [exec_badFrame]; exact kept.execBadFrame p bytes stray i
  case readTransfer p clocked => rw [exec_readTransfer]; exact kept.execReadTransfer p clocked i
  case reset => exact ⟨_, exec_reset s, kept.reset i⟩
  case lockedFrame lineIn pumpIn => rw [exec_lockedFrame]; exact kept.execLockedFrame lineIn pumpIn i
  case endOfPlay k => exact ⟨_, exec_endOfPlay k s, kept.endOfPlay k i⟩
  case frameBoundary at_ elsewhere => rw [exec_frameBoundary]; exact kept.execFrameBoundary at_ elsewhere i
  case huntPulse spacing => rw [exec_huntPulse]; exact kept.execHuntPulse spacing i
  case noClock => rw [exec_noClock]; exact kept.execNoClock i
  case epochEnd => exact ⟨_, exec_epochEnd s, kept.settle i⟩
  case orderComplete => rw [exec_orderComplete]; exact kept.execOrderComplete i
  case drainExpiry n => exact ⟨_, exec_drainExpiry n s, kept.expireDrain n (kept.settle i)⟩
  case leaseExpiry p => exact ⟨_, exec_leaseExpiry p s, kept.expireLease p (kept.settle i)⟩
  case holdExpiry n => exact ⟨_, exec_holdExpiry n s, kept.expireHold n (kept.settle i)⟩
  case strandExpiry n => exact ⟨_, exec_strandExpiry n s, kept.expireStrand n (kept.settle i)⟩
  case cacheAged => exact ⟨_, exec_cacheAged s, kept.expireCache (kept.settle i)⟩
  case timebaseTick => exact ⟨_, exec_timebaseTick s, kept.tick (kept.takeExpiries (kept.settle i))⟩
  all_goals exact kept.exec_frame rfl i

end KeptByEvents

/-- Of a property that does not look at the queue of waiting commands either: every step keeps it. -/
theorem KeptByEvents.step {I : State → Prop} (kept : KeptByEvents I)
    (pending : ∀ {s : State} (rest : List Instr), I s → I { s with pending := rest }) {s t : State} (i : I s)
    (h : Machine.step s = .next t) : I t := by
  unfold Machine.step at h
  split at h
  · cases h
    exact i
  · next c rest _ =>
    obtain ⟨u, e, j⟩ := kept.exec c (pending rest i)
    rw [e] at h
    cases h
    exact j

end Sys2Proof.Machine

/-! Updates of every record of one kind, and the grants of players at the end of an event (R93): how many channels leave
the probe queue, what a channel that waits in it finds, and that no channel waits beside an IDLE player. -/

namespace Sys2Proof.Machine

/-! ### Every channel, every player, every port -/

theorem mem_allPorts (p : Port) : p ∈ allPorts := by
  fin_cases p <;> decide

theorem mem_allPlayers (k : PlayerNo) : k ∈ allPlayers := by
  fin_cases k <;> decide

theorem mem_allChannels (n : ChannelNo) : n ∈ allChannels := List.mem_finRange n

theorem nodup_allPorts : allPorts.Nodup := by decide

theorem nodup_allPlayers : allPlayers.Nodup := by decide

theorem nodup_allChannels : allChannels.Nodup := List.nodup_finRange 48

theorem modChans_chan (f : Channel → Channel) (items : List ChannelNo) (nodup : items.Nodup) (s : State)
    (m : ChannelNo) :
    (items.foldl (fun s n => s.modChan n f) s).chan m = if m ∈ items then f (s.chan m) else s.chan m := by
  induction items generalizing s with
  | nil => rfl
  | cons n rest ih =>
    obtain ⟨fresh, nodup'⟩ := List.nodup_cons.1 nodup
    rw [List.foldl_cons, ih nodup', chan_modChan]
    by_cases own : n = m
    · subst own; simp [fresh]
    · simp [own, Ne.symm own]

@[simp] theorem modAllChannels_chan (s : State) (f : Channel → Channel) (m : ChannelNo) :
    (s.modAllChannels f).chan m = f (s.chan m) := by
  rw [State.modAllChannels, modChans_chan f _ nodup_allChannels, if_pos (mem_allChannels m)]

/-- A fold of updates each of which changes the channels alone. -/
theorem channels_foldl {α : Type} {f : State → α → State}
    (h : ∀ (s : State) (a : α), ∃ channels, f s a = { s with channels := channels }) (items : List α) (s : State) :
    ∃ channels, items.foldl f s = { s with channels := channels } := by
  induction items generalizing s with
  | nil => exact ⟨s.channels, rfl⟩
  | cons a rest ih =>
    obtain ⟨b, e⟩ := h s a
    obtain ⟨c, e'⟩ := ih (f s a)
    exact ⟨c, by rw [List.foldl_cons, e', e]⟩

theorem modAllChannels_eq (s : State) (f : Channel → Channel) :
    ∃ channels, s.modAllChannels f = { s with channels := channels } :=
  channels_foldl (fun _ _ => ⟨_, rfl⟩) _ s

theorem modPlays_play (f : Play → Play) (items : List PlayerNo) (nodup : items.Nodup) (s : State) (k : PlayerNo) :
    (items.foldl (fun s k => s.setPlay k ((s.play k).map f)) s).play k
      = if k ∈ items then (s.play k).map f else s.play k := by
  induction items generalizing s with
  | nil => rfl
  | cons j rest ih =>
    obtain ⟨fresh, nodup'⟩ := List.nodup_cons.1 nodup
    rw [List.foldl_cons, ih nodup', play_setPlay]
    by_cases own : j = k
    · subst own; simp [fresh]
    · simp [own, Ne.symm own]

@[simp] theorem modAllPlays_play (s : State) (f : Play → Play) (k : PlayerNo) :
    (s.modAllPlays f).play k = (s.play k).map f := by
  rw [State.modAllPlays, modPlays_play f _ nodup_allPlayers, if_pos (mem_allPlayers k)]

theorem modAllPlays_eq (s : State) (f : Play → Play) :
    ∃ players, s.modAllPlays f = { s with players := players } := by
  have fold : ∀ (items : List PlayerNo) (u : State), ∃ players,
      items.foldl (fun s k => s.setPlay k ((s.play k).map f)) u = { u with players := players } := fun items => by
    induction items with
    | nil => exact fun u => ⟨u.players, rfl⟩
    | cons k rest ih => intro u; obtain ⟨a, e⟩ := ih (u.setPlay k ((u.play k).map f)); exact ⟨a, e⟩
  exact fold _ s

/-! ### One grant -/

theorem idlePlayer_idle {s : State} {k : PlayerNo} (h : s.idlePlayer = some k) : s.play k = none := by
  simpa using List.find?_some h

theorem idlePlayer_eq_none_iff (s : State) : s.idlePlayer = none ↔ ∀ k, s.play k ≠ none := by
  simp only [State.idlePlayer, List.find?_eq_none, decide_eq_true_eq]
  exact ⟨fun h k => h k (mem_allPlayers k), fun h k _ => h k⟩

/-- No player is IDLE exactly where the count of IDLE players is 0. -/
theorem idleCount_eq_zero_iff (s : State) : s.idleCount none = 0 ↔ s.idlePlayer = none := by
  rw [idlePlayer_eq_none_iff, State.idleCount, List.countP_eq_zero]
  simp [mem_allPlayers]

theorem idleCount_le (s : State) (freed : Option PlayerNo) : s.idleCount freed ≤ 4 :=
  List.countP_le_length

/-- A player that starts to play is IDLE no more. -/
theorem idleCount_setPlay_some {s : State} {k : PlayerNo} (idle : s.play k = none) (x : Play) :
    (s.setPlay k (some x)).idleCount none + 1 = s.idleCount none := by
  have count (u : State) : u.idleCount none = (if u.play 0 = none then 1 else 0) + (if u.play 1 = none then 1 else 0)
      + (if u.play 2 = none then 1 else 0) + (if u.play 3 = none then 1 else 0) := by
    simp [State.idleCount, allPlayers, List.countP_cons]
    omega
  rw [count, count]
  match k with
  | 0 => simp [play_setPlay, idle]; omega
  | 1 => simp [play_setPlay, idle]; omega
  | 2 => simp [play_setPlay, idle]; omega
  | 3 => simp [play_setPlay, idle]

theorem idleCount_congr {s t : State} (h : ∀ k, (t.play k).isNone = (s.play k).isNone) (freed : Option PlayerNo) :
    t.idleCount freed = s.idleCount freed := by
  simp only [State.idleCount, h]

/-- What one grant does: nothing where no channel waits or no player is IDLE, or the oldest channel takes a player. -/
theorem grantOne_cases (s : State) :
    (s.Granted ∧ s.grantOne = s) ∨ ∃ n rest k, s.probeQueue = n :: rest ∧ s.play k = none
      ∧ s.grantOne = ((s.setProbeQueue rest).setPlay k (some (startPlay n (s.chan n).profile))).modChan n fun c =>
          { c.enter (.training .probing) with player := some k } := by
  cases queue : s.probeQueue with
  | nil => exact .inl ⟨.inl queue, grantOne_of_empty s queue⟩
  | cons n rest =>
    cases idle : s.idlePlayer with
    | none => exact .inl ⟨.inr idle, grantOne_of_no_idle s idle⟩
    | some k =>
      refine .inr ⟨n, rest, k, rfl, idlePlayer_idle idle, ?_⟩
      unfold State.grantOne
      rw [queue, idle]

theorem grantOne_of_granted {s : State} (h : s.Granted) : s.grantOne = s :=
  h.elim (grantOne_of_empty s) (grantOne_of_no_idle s)

/-- A grant takes a player, where there is one for the oldest channel. -/
theorem grantOne_idleCount (s : State) : s.grantOne.Granted ∨ s.grantOne.idleCount none + 1 = s.idleCount none := by
  obtain ⟨granted, same⟩ | ⟨n, rest, k, -, idle, e⟩ := grantOne_cases s
  · exact .inl (by rwa [same])
  · refine .inr ?_
    rw [e]
    exact idleCount_setPlay_some (s := s.setProbeQueue rest) idle (startPlay n (s.chan n).profile)

theorem grants_granted (s : State) : s.grants.Granted := by
  have next : ∀ u : State, u.Granted → u.grantOne.Granted := fun u h => by rwa [grantOne_of_granted h]
  have bound := idleCount_le s none
  unfold State.grants
  rcases grantOne_idleCount s with h1 | h1
  · exact next _ (next _ (next _ h1))
  rcases grantOne_idleCount s.grantOne with h2 | h2
  · exact next _ (next _ h2)
  rcases grantOne_idleCount s.grantOne.grantOne with h3 | h3
  · exact next _ h3
  rcases grantOne_idleCount s.grantOne.grantOne.grantOne with h4 | h4
  · exact h4
  · exact .inr ((idleCount_eq_zero_iff _).1 (by omega))

theorem closeEvent_granted (s₀ s : State) : (s₀.closeEvent s).Granted := by
  unfold State.closeEvent
  dsimp only
  split
  · exact grants_granted s
  · exact (grants_granted s).congr (comparePool_probeQueue _) (comparePool_players _)

/-- As many channels leave the front of the probe queue as players were IDLE. -/
theorem grantOne_iterate_probeQueue (j : Nat) (s : State) :
    (State.grantOne^[j] s).probeQueue = s.probeQueue.drop (min j (s.idleCount none)) := by
  induction j generalizing s with
  | zero => simp
  | succ j ih =>
    rw [Function.iterate_succ_apply, ih]
    obtain ⟨granted, same⟩ | ⟨n, rest, k, queue, idle, e⟩ := grantOne_cases s
    · rw [same]
      rcases granted with empty | busy
      · simp [empty]
      · simp [(idleCount_eq_zero_iff s).2 busy]
    · have count : s.grantOne.idleCount none + 1 = s.idleCount none := by
        rw [e]
        exact idleCount_setPlay_some (s := s.setProbeQueue rest) idle (startPlay n (s.chan n).profile)
      have left : s.grantOne.probeQueue = rest := by rw [e]; rfl
      rw [left, queue, ← count, Nat.add_min_add_right, List.drop_succ_cons]

theorem grants_probeQueue (s : State) : s.grants.probeQueue = s.probeQueue.drop (s.idleCount none) := by
  have h := grantOne_iterate_probeQueue 4 s
  rwa [Nat.min_eq_right (idleCount_le s none)] at h

theorem closeEvent_probeQueue (s₀ s : State) : (s₀.closeEvent s).probeQueue = s.probeQueue.drop (s.idleCount none) := by
  rw [← grants_probeQueue]
  unfold State.closeEvent
  dsimp only
  split
  · rfl
  · exact comparePool_probeQueue _

theorem closeEvent_players (s₀ s : State) : (s₀.closeEvent s).players = s.grants.players := by
  unfold State.closeEvent
  dsimp only
  split
  · rfl
  · exact comparePool_players _

theorem closeEvent_play (s₀ s : State) (k : PlayerNo) : (s₀.closeEvent s).play k = s.grants.play k := by
  simp only [State.play, closeEvent_players]

theorem closeEvent_chan_eq (s₀ s : State) (m : ChannelNo) : (s₀.closeEvent s).chan m = s.grants.chan m := by
  unfold State.closeEvent
  dsimp only
  split
  · rfl
  · exact comparePool_chan _ m

/-! ### A channel that waits -/

/-- Channel `n`, that entered the queue as `e`, waits in it still or plays from the first code (R93). -/
def State.WaitsOrPlays (t : State) (n : ChannelNo) (e : Channel) : Prop :=
  (t.chan n = e ∧ n ∈ t.probeQueue)
    ∨ ∃ k, t.chan n = { e.enter (.training .probing) with player := some k } ∧ t.play k = some (startPlay n e.profile)

theorem grantOne_waitsOrPlays {s : State} {n : ChannelNo} {e : Channel} (h : s.WaitsOrPlays n e) :
    s.grantOne.WaitsOrPlays n e := by
  obtain ⟨-, same⟩ | ⟨m, rest, j, queue, idle, grant⟩ := grantOne_cases s
  · rwa [same]
  · rw [grant]
    have profile : (s.chan n).profile = e.profile := by
      obtain ⟨c, -⟩ | ⟨k, c, -⟩ := h
      · rw [c]
      · rw [c]; rfl
    by_cases own : m = n
    · subst own
      refine .inr ⟨j, ?_, ?_⟩
      · rw [chan_modChan_self, chan_setPlay, chan_setProbeQueue]
        obtain ⟨c, -⟩ | ⟨k, c, -⟩ := h
        · rw [c]
        · rw [c]; rfl
      · rw [play_modChan, play_setPlay_self, profile]
    · rcases h with ⟨c, waits⟩ | ⟨k, c, plays⟩
      · refine .inl ⟨?_, ?_⟩
        · rw [chan_modChan_of_ne _ _ own]; exact c
        · rw [queue, List.mem_cons] at waits
          exact waits.resolve_left (Ne.symm own)
      · have ne : j ≠ k := fun same => by rw [← same, idle] at plays; cases plays
        refine .inr ⟨k, ?_, ?_⟩
        · rw [chan_modChan_of_ne _ _ own]; exact c
        · rw [play_modChan, play_setPlay_of_ne _ _ ne]; exact plays

theorem grants_waitsOrPlays {s : State} {n : ChannelNo} {e : Channel} (h : s.WaitsOrPlays n e) :
    s.grants.WaitsOrPlays n e :=
  grantOne_waitsOrPlays (grantOne_waitsOrPlays (grantOne_waitsOrPlays (grantOne_waitsOrPlays h)))

/-- A channel that an event has put into the probe queue, at the end of the event. -/
theorem closeEvent_inProbe (s₀ : State) {s : State} {n : ChannelNo} (waits : n ∈ s.probeQueue) :
    (s₀.closeEvent s).InProbe n (s.chan n) s.probeQueue (s.idleCount none) := by
  refine ⟨closeEvent_probeQueue s₀ s, ?_⟩
  have h := grants_waitsOrPlays (.inl ⟨rfl, waits⟩ : s.WaitsOrPlays n (s.chan n))
  unfold State.WaitsOrPlays at h
  rw [closeEvent_chan_eq, closeEvent_probeQueue, ← grants_probeQueue]
  simpa only [closeEvent_play] using h

end Sys2Proof.Machine

/-! What leaves every call as it stands (`State.Steady`): its state, lessee and player, its segments and records, the probe
queue, the cache and the free set. An invariant of the calls is kept by all of it at once. -/

namespace Sys2Proof.Machine

/-- `d` holds the call that `c` holds: what differs is measured, counted or timed. -/
structure Channel.Steady (c d : Channel) : Prop where
  state : d.state = c.state
  lessee : d.lessee = c.lessee
  player : d.player = c.player
  profile : d.profile = c.profile
  live : d.live = c.live
  records : d.ring.map (fun r => (r.id, r.segments)) = c.ring.map fun r => (r.id, r.segments)
  holds : c.holdCount ≤ c.policy.holdLimit → d.holdCount ≤ d.policy.holdLimit

theorem Channel.Steady.refl (c : Channel) : c.Steady c := ⟨rfl, rfl, rfl, rfl, rfl, rfl, id⟩

theorem Channel.Steady.trans {c d e : Channel} (h : c.Steady d) (h' : d.Steady e) : c.Steady e :=
  ⟨h'.state.trans h.state, h'.lessee.trans h.lessee, h'.player.trans h.player, h'.profile.trans h.profile,
    h'.live.trans h.live, h'.records.trans h.records, h'.holds ∘ h.holds⟩

theorem Channel.steady_modSnapshot (c : Channel) (number : Nat) (f : Snapshot → Snapshot)
    (same : ∀ r, (f r).id = r.id ∧ (f r).segments = r.segments) : c.Steady (c.modSnapshot number f) := by
  refine ⟨rfl, rfl, rfl, rfl, rfl, ?_, id⟩
  rw [Channel.modSnapshot, List.map_map]
  refine List.map_congr_left fun r _ => ?_
  dsimp only [Function.comp_apply]
  split
  · rw [(same r).1, (same r).2]
  · rfl

/-- `t` holds the calls of `s`, their plays, their places in the queue and their segments. -/
structure State.Steady (s t : State) : Prop where
  chan : ∀ n, (s.chan n).Steady (t.chan n)
  plays : ∀ k, (t.play k).map Play.channel = (s.play k).map Play.channel
  probeQueue : t.probeQueue = s.probeQueue
  cache : t.cache = s.cache
  free : t.pool.free = s.pool.free

theorem State.Steady.refl (s : State) : s.Steady s := ⟨fun _ => .refl _, fun _ => rfl, rfl, rfl, rfl⟩

theorem State.Steady.trans {s t u : State} (h : s.Steady t) (h' : t.Steady u) : s.Steady u :=
  ⟨fun n => (h.chan n).trans (h'.chan n), fun k => (h'.plays k).trans (h.plays k), h'.probeQueue.trans h.probeQueue,
    h'.cache.trans h.cache, h'.free.trans h.free⟩

theorem State.Steady.of_same {s t : State} (channels : t.channels = s.channels) (players : t.players = s.players)
    (probeQueue : t.probeQueue = s.probeQueue) (cache : t.cache = s.cache) (free : t.pool.free = s.pool.free) :
    s.Steady t :=
  ⟨fun n => by rw [State.chan, State.chan, channels]; exact .refl _, fun k => by rw [State.play, State.play, players],
    probeQueue, cache, free⟩

theorem steady_foldl {α : Type} {f : State → α → State} (h : ∀ (s : State) (a : α), s.Steady (f s a)) (items : List α)
    (s : State) : s.Steady (items.foldl f s) := by
  induction items generalizing s with
  | nil => exact .refl s
  | cons a rest ih => exact (h s a).trans (ih (f s a))

/-! ### The updates -/

theorem modChan_steady (s : State) (n : ChannelNo) (f : Channel → Channel) (h : (s.chan n).Steady (f (s.chan n))) :
    s.Steady (s.modChan n f) := by
  refine ⟨fun m => ?_, fun _ => rfl, rfl, rfl, rfl⟩
  rw [chan_modChan]
  split
  · next own => subst own; exact h
  · exact .refl _

theorem setPlay_steady (s : State) (k : PlayerNo) (x : Option Play)
    (h : x.map Play.channel = (s.play k).map Play.channel) : s.Steady (s.setPlay k x) := by
  refine ⟨fun _ => .refl _, fun j => ?_, rfl, rfl, rfl⟩
  rw [play_setPlay]
  split
  · next own => subst own; exact h
  · rfl

theorem setTaps_steady (s : State) (taps : Memory) : s.Steady (s.setTaps taps) := .of_same rfl rfl rfl rfl rfl

theorem setMover_steady (s : State) (orders : List Order) : s.Steady (s.setMover orders) := .of_same rfl rfl rfl rfl rfl

theorem modHighway_steady (s : State) (f : Highway → Highway) : s.Steady (s.modHighway f) := .of_same rfl rfl rfl rfl rfl

theorem modPort_steady (s : State) (p : Port) (f : PortRecord → PortRecord) : s.Steady (s.modPort p f) :=
  .of_same rfl rfl rfl rfl rfl

theorem modAllChannels_steady (s : State) (f : Channel → Channel) (h : ∀ c : Channel, c.Steady (f c)) :
    s.Steady (s.modAllChannels f) :=
  steady_foldl (α := ChannelNo) (fun s n => modChan_steady s n f (h _)) _ s

theorem modAllPlays_steady (s : State) (f : Play → Play) (h : ∀ x, (f x).channel = x.channel) :
    s.Steady (s.modAllPlays f) := by
  refine steady_foldl (α := PlayerNo) (fun s k => setPlay_steady s k _ ?_) _ s
  cases s.play k with
  | none => rfl
  | some x => exact congrArg some (h x)

theorem writeLive_steady (s : State) (n : ChannelNo) (bank : Bank) (indices : List Nat) (f : Nat → Tap) :
    s.Steady (s.writeLive n bank indices f) := setTaps_steady s _

theorem writeInitialTaps_steady (s : State) (n : ChannelNo) : s.Steady (s.writeInitialTaps n) :=
  ((writeLive_steady s n .near _ _).trans (writeLive_steady _ n .far _ _)).trans (writeLive_steady _ n .equal _ _)

theorem notify_steady (s : State) (p : Port) (n : Notice) : s.Steady (s.notify p n) :=
  .of_same (by simp) (by simp) (by simp) (by simp) (by simp)

theorem notifyLessee_steady (s : State) (lessee : Option Port) (n : Notice) : s.Steady (s.notifyLessee lessee n) := by
  cases lessee with
  | none => exact .refl s
  | some p => exact notify_steady s p n

theorem broadcast_steady (s : State) (n : Notice) : s.Steady (s.broadcast n) :=
  .of_same (by simp) (by simp) (by simp) (by simp) (by simp)

theorem broadcastExcept_steady (s : State) (p : Port) (n : Notice) : s.Steady (s.broadcastExcept p n) :=
  .of_same (by simp) (by simp) (by simp) (by simp) (by simp)

theorem comparePool_steady (s : State) : s.Steady s.comparePool :=
  .of_same (by simp) (by simp) (by simp) (by simp) (by simp)

/-! ### Orders -/

theorem pin_steady (s : State) (w : Work) : s.Steady (s.pin w) :=
  steady_foldl (α := ChannelNo × Nat)
    (fun s r => modChan_steady s r.1 _ (Channel.steady_modSnapshot _ _ _ (by exact fun _ => ⟨rfl, rfl⟩))) _ s

theorem unpin_steady (s : State) (w : Work) : s.Steady (s.unpin w) :=
  steady_foldl (α := ChannelNo × Nat)
    (fun s r => modChan_steady s r.1 _ (Channel.steady_modSnapshot _ _ _ (by exact fun _ => ⟨rfl, rfl⟩))) _ s

theorem markHead_steady (s : State) : s.Steady s.markHead := by
  unfold State.markHead
  split
  · exact .refl s
  · split
    · refine steady_foldl (fun s r => ?_) _ s
      split
      · exact modChan_steady s _ _ ⟨rfl, rfl, rfl, rfl, rfl, rfl, id⟩
      · exact .refl s
    · exact .refl s

theorem enqueue_steady (s : State) (o : Order) : s.Steady (s.enqueue o) := by
  have h := (setMover_steady s (s.mover ++ [o])).trans (pin_steady _ o.work)
  unfold State.enqueue
  dsimp only
  split
  · exact h.trans (markHead_steady _)
  · exact h

theorem dropRollback_steady (s : State) (o : Order) : s.Steady (s.dropRollback o) := by
  unfold State.dropRollback
  split
  · exact modChan_steady s _ _ ⟨rfl, rfl, rfl, rfl, rfl, rfl, id⟩
  · exact .refl s

theorem finishWork_steady (s : State) (w : Work) : s.Steady (s.finishWork w) := by
  unfold State.finishWork
  split
  · exact modChan_steady s _ _ (Channel.steady_modSnapshot _ _ _ (by exact fun _ => ⟨rfl, rfl⟩))
  · exact modChan_steady s _ _ ⟨rfl, rfl, rfl, rfl, rfl, rfl, id⟩
  all_goals exact .refl s

theorem setGuard_steady (s : State) (o : Order) : s.Steady (s.setGuard o) := by
  unfold State.setGuard
  dsimp only
  split
  · exact modChan_steady s _ _ ⟨rfl, rfl, rfl, rfl, rfl, rfl, id⟩
  · exact .refl s

theorem endComplete_steady (s : State) (o : Order) : s.Steady (s.endComplete o) :=
  ((((finishWork_steady s o.work).trans (unpin_steady _ o.work)).trans (setGuard_steady _ o)).trans
    (dropRollback_steady _ o)).trans (notify_steady _ _ _)

theorem completeHead_steady (s : State) : s.Steady s.completeHead := by
  unfold State.completeHead
  split
  · exact .refl s
  · next o rest _ => exact ((setMover_steady s rest).trans (endComplete_steady _ o)).trans (markHead_steady _)

theorem moveOffset_steady (w : Work) (s : State) (offset : Nat) : s.Steady (s.moveOffset w offset) := by
  unfold State.moveOffset
  dsimp only
  split
  · exact setTaps_steady s _
  · exact .refl s

theorem advanceHead_steady (s : State) : s.Steady s.advanceHead := by
  unfold State.advanceHead
  split
  · exact .refl s
  · next o rest _ =>
    dsimp only
    have moved := (steady_foldl (fun s i => moveOffset_steady o.work s (o.progress + i))
      (List.range (min 256 (o.total - o.progress))) s).trans
      (setMover_steady _ ({ o with progress := o.progress + min 256 (o.total - o.progress) } :: rest))
    split
    · exact moved.trans (completeHead_steady _)
    · exact moved

/-! ### The work of an epoch end that enters no state -/

theorem applyFinding_steady (s : State) (n : ChannelNo) (sums : LocatorSums) : s.Steady (s.applyFinding n sums) := by
  unfold State.applyFinding
  dsimp only
  split
  · refine State.Steady.trans ?_ (modChan_steady _ n _ ⟨rfl, rfl, rfl, rfl, rfl, rfl, id⟩)
    split
    · exact .refl s
    · exact writeLive_steady s n .far _ _
  · exact (writeLive_steady s n .far _ _).trans (modChan_steady _ n _ ⟨rfl, rfl, rfl, rfl, rfl, rfl, id⟩)

theorem detect_steady (s : State) (n : ChannelNo) (m : Option Measurements) : s.Steady (s.detect n m) := by
  unfold State.detect
  dsimp only
  split
  · split
    · exact .refl s
    · split
      · split
        · exact modChan_steady s n _ ⟨rfl, rfl, rfl, rfl, rfl, rfl, id⟩
        · exact (modChan_steady s n _ ⟨rfl, rfl, rfl, rfl, rfl, rfl, id⟩).trans (notifyLessee_steady _ _ _)
      · exact modChan_steady s n _ ⟨rfl, rfl, rfl, rfl, rfl, rfl, id⟩
  · exact modChan_steady s n _ ⟨rfl, rfl, rfl, rfl, rfl, rfl, id⟩

theorem updateTaps_steady (s : State) (n : ChannelNo) : s.Steady (s.updateTaps n) := by
  unfold State.updateTaps
  dsimp only
  refine State.Steady.trans ?_ (writeLive_steady _ n .equal _ _)
  split
  · exact (writeLive_steady s n .near _ _).trans (writeLive_steady _ n .far _ _)
  · exact writeLive_steady s n .near _ _

theorem spendBudget_steady (s : State) (n : ChannelNo) : s.Steady (s.spendBudget n) := by
  unfold State.spendBudget
  dsimp only
  have spent : s.Steady (s.modChan n fun c => { c with budget := c.budget - 1 }) :=
    modChan_steady s n _ ⟨rfl, rfl, rfl, rfl, rfl, rfl, id⟩
  split
  · split
    · exact spent.trans (notifyLessee_steady _ _ _)
    · exact spent
  · exact .refl s

theorem adaptChannel_steady (s : State) (c₀ : Channel) (n : ChannelNo) : s.Steady (s.adaptChannel c₀ n) := by
  unfold State.adaptChannel
  split
  · exact ((updateTaps_steady s n).trans (spendBudget_steady _ n)).trans
      (modChan_steady _ n _ ⟨rfl, rfl, rfl, rfl, rfl, rfl, id⟩)
  · exact .refl s

theorem Channel.steady_countEpoch (c : Channel) (guard₀ : Option Nat) : c.Steady (c.countEpoch guard₀) := by
  unfold Channel.countEpoch
  split <;> exact ⟨rfl, rfl, rfl, rfl, rfl, rfl, id⟩

theorem levelWork_steady (s₀ s : State) (n : ChannelNo) : s.Steady (s₀.levelWork s n) := by
  unfold State.levelWork
  dsimp only
  split
  · exact .refl s
  · exact .refl s
  · have judged : s.Steady (s.modChan n fun c => { c with level := (s₀.chan n).levelAfter s₀.config }) :=
      modChan_steady s n _ ⟨rfl, rfl, rfl, rfl, rfl, rfl, id⟩
    split
    · exact judged
    · exact judged.trans (notifyLessee_steady _ _ _)

theorem playersWork_steady (s : State) : s.Steady s.playersWork := modAllPlays_steady s _ fun _ => rfl

/-- What the engine does for channel `n` before its judgment (R61 steps 1 to 6). -/
def State.engineUpdate (s₀ s : State) (n : ChannelNo) : State :=
  let c₀ := s₀.chan n
  ((((s.modChan n (Channel.record c₀.handed)).detect n c₀.handed).modChan n
    fun c => { c with freeze := c₀.freezeReasons s₀.config }).adaptChannel c₀ n).modChan n (Channel.countEpoch c₀.guard)

theorem engineUpdate_steady (s₀ s : State) (n : ChannelNo) : s.Steady (s₀.engineUpdate s n) :=
  ((((modChan_steady s n _ ⟨rfl, rfl, rfl, rfl, rfl, rfl, id⟩).trans (detect_steady _ n _)).trans
    (modChan_steady _ n _ ⟨rfl, rfl, rfl, rfl, rfl, rfl, id⟩)).trans (adaptChannel_steady _ _ n)).trans
    (modChan_steady _ n _ (Channel.steady_countEpoch _ _))

/-- The engine's work for one channel: nothing, the measurements alone, or all of R61. -/
theorem engineWork_cases (s₀ s : State) (n : ChannelNo) :
    s.Steady (s₀.engineWork s n) ∨ s₀.engineWork s n = (s₀.engineUpdate s n).judgeChannel n := by
  unfold State.engineWork
  dsimp only
  split
  · exact .inl (.refl s)
  · exact .inl (modChan_steady s n _ ⟨rfl, rfl, rfl, rfl, rfl, rfl, id⟩)
  all_goals exact .inr rfl

/-! ### Frames, the loss of sync and the tick -/

theorem probeOf_play {s : State} {n : ChannelNo} {k : PlayerNo} {sample : Sample} {play : Play}
    (h : s.probeOf n = some (k, sample, play)) : ∃ x, s.play k = some x ∧ play = x.playCode.2 := by
  unfold State.probeOf at h
  split at h
  · split at h
    · split at h
      · next holds =>
        split at h
        · cases h; exact ⟨_, holds, rfl⟩
        · cases h
      · cases h
    · cases h
  · cases h

theorem frameCall_steady (s : State) (n : ChannelNo) (lineIn pumpIn : Sample) : s.Steady (s.frameCall n lineIn pumpIn) := by
  unfold State.frameCall
  dsimp only
  refine State.Steady.trans (State.Steady.trans ?_ (modChan_steady _ n _ ⟨rfl, rfl, rfl, rfl, rfl, rfl, id⟩))
    (modHighway_steady _ _)
  split
  · next k sample play probe =>
    obtain ⟨x, holds, rfl⟩ := probeOf_play probe
    exact setPlay_steady s k _ (by rw [holds]; rfl)
  · exact .refl s

theorem frameChannel_steady (lineIn pumpIn : Vector Slot 48) (s : State) (n : ChannelNo) :
    s.Steady (s.frameChannel lineIn pumpIn n) := by
  unfold State.frameChannel
  split
  · exact modHighway_steady s _
  · exact frameCall_steady s n _ _

theorem frame_steady (s : State) (lineIn pumpIn : Vector Slot 48) : s.Steady (s.frame lineIn pumpIn) :=
  (steady_foldl (frameChannel_steady lineIn pumpIn) _ s).trans (modHighway_steady _ _)

theorem loseSync_steady (s : State) (cause : SyncCause) : s.Steady (s.loseSync cause) := by
  have channels := modAllChannels_steady s Channel.loseSync fun _ => ⟨rfl, rfl, rfl, rfl, rfl, rfl, id⟩
  have plays := modAllPlays_steady (s.modAllChannels Channel.loseSync) Play.dropEpochSums fun _ => rfl
  unfold State.loseSync
  dsimp only
  generalize s.modAllChannels Channel.loseSync = u at channels plays ⊢
  generalize u.modAllPlays Play.dropEpochSums = v at plays ⊢
  exact ((channels.trans plays).trans (modHighway_steady v _)).trans (broadcast_steady _ _)

theorem tick_steady (s : State) : s.Steady s.tick := by
  have ports := steady_foldl (α := Port) (fun s p => modPort_steady s p PortRecord.tick) allPorts s
  unfold State.tick
  dsimp only
  generalize allPorts.foldl (fun s p => s.modPort p PortRecord.tick) s = u at ports ⊢
  have channels := modAllChannels_steady u Channel.tick fun _ => ⟨rfl, rfl, rfl, rfl, rfl, rfl, id⟩
  generalize u.modAllChannels Channel.tick = v at channels ⊢
  exact (ports.trans channels).trans (.of_same rfl rfl rfl rfl rfl)

end Sys2Proof.Machine

/-! The composed events taken apart: the loss of a port (R140), the orphaning of a call (R142), a fresh ATTACH (R13), the end
of a play (R95) and the epoch end (R36), each as the chain of its steps. -/

namespace Sys2Proof.Machine

/-! ### The cascade of a port's loss, step by step (R140) -/

/-- Steps 1 and 2: the port is ABSENT without a lease, and its orders are aborted. -/
def State.lossBegun (s : State) (p : Port) : State :=
  (s.modPort p fun r => { r with link := .absent, lease := none }).abortOrders fun o => o.port == p

/-- The channels whose release step 3 completes, in the order that is left open (log 1). -/
def State.lossReleases (s : State) (p : Port) : List ChannelNo :=
  rankSort (fun n => Config.freeRank s.freeIndex n.val)
    (allChannels.filter fun n => (s.chan n).lessee == some p && (s.chan n).state == .releasing)

/-- Step 3 taken. -/
def State.lossReleased (s : State) (p : Port) : State :=
  ((s.lossBegun p).lossReleases p).foldl State.completeRelease (s.lossBegun p).spendFree

/-- Step 4 taken: every call of the port orphaned or dropped. -/
def State.lossCalled (s : State) (p : Port) : State × LossCounts :=
  (allChannels.filter fun n => ((s.lossReleased p).chan n).isCallOf p).foldl (State.loseCall p)
    (s.lossReleased p, ⟨0, 0, ((s.lossBegun p).lossReleases p).length⟩)

theorem loseCall_eq (p : Port) (s : State) (counts : LossCounts) (n : ChannelNo) : State.loseCall p (s, counts) n =
    if (s.chan n).holdCount = (s.chan n).policy.holdLimit then
      ((s.vacate n false).broadcast (channelDropped n .holdLimit (s.chan n).state.item (s.chan n).holdCount),
        { counts with dropped := counts.dropped + 1 })
    else (s.orphan p n, { counts with orphaned := counts.orphaned + 1 }) := rfl

/-- A claim that port `p` holds is free (step 5). -/
def State.dropClaim (s : State) (p : Port) : State := if s.claim = some p then s.setClaim none else s

/-- Steps 5 to 7 of R140: the claim, the port's notices, PORT_LOST. -/
def State.lossToldAt (p : Port) (reason : LossReason) (r : State × LossCounts) : State :=
  ((r.1.dropClaim p).modPort p fun q => { q with queue := [], mask := [], overflow := false, attn := false }).broadcast
    ⟨.portLost, none, [(p.val : Int), (reason.code : Int), (r.2.orphaned : Int), (r.2.dropped : Int)]⟩

theorem losePort_eq (s : State) (p : Port) (reason : LossReason) :
    s.losePort p reason = (s.closeEvent (State.lossToldAt p reason (s.lossCalled p)), (s.lossCalled p).2) := by
  rfl

/-- What an orphaning makes of the record (R142). -/
def Channel.orphaned (c : Channel) : Channel :=
  { c.enter .orphaned with
    prior := some c.state.toPrior, lessee := none, holdCount := c.holdCount + 1,
    holdTimer := some (c.policy.holdTime.getD 0 * 10) }

theorem orphan_eq (s : State) (p : Port) (n : ChannelNo) :
    s.orphan p n = (((((s.abortOrders fun o => o.work.touches n).freePlayer n).leaveQueue n).modChan n
      Channel.orphaned).broadcast ⟨.channelOrphaned, some n,
        [(p.val : Int), (s.chan n).state.item, ((s.chan n).holdCount + 1 : Nat), ((s.chan n).policy.holdLimit : Int)]⟩) :=
  rfl

theorem vacate_eq (s : State) (n : ChannelNo) (park : Bool) : s.vacate n park =
    ((if park then (s.stripped n).park n else (s.stripped n).returnSegments ((s.stripped n).chan n).live).returnSegments
      (((s.stripped n).chan n).ring.flatMap (·.segments))).modChan n fun _ => .vacant := rfl

/-! ### A fresh ATTACH -/

/-- The record of a call newly attached on the lowest free segments (R13, R15, R44). -/
def Channel.fresh (p : Port) (profile : Profile) (policy : Policy) (free : List Nat) : Channel :=
  { Channel.attached p profile policy with origin := some .fresh, live := free.take profile.segments }

/-- The call on its segments, not yet in the probe queue. -/
def State.newCall (u : State) (p : Port) (n : ChannelNo) (profile : Profile) (policy : Policy) : State :=
  ((u.setFree (u.pool.free.drop profile.segments)).modChan n fun _ =>
    Channel.fresh p profile policy u.pool.free).writeInitialTaps n

theorem attachFresh_eq (s : State) (p : Port) (n : ChannelNo) (profile : Profile) (policy : Policy) :
    s.attachFresh p n profile policy =
      ((s.evictFor profile.segments policy.routeTag).newCall p n profile policy).enterQueued n := rfl

/-! ### The end of a play and of an epoch -/

/-- The finding of a play that has ended, where its channel has far taps (R97). -/
def State.findOf (s : State) (play : Play) : State :=
  match play.locator with
  | some l => s.applyFinding play.channel l.takeEpoch.running
  | none => s

/-- The channel of a play that has ended goes to SETTLING (R95). -/
def Channel.settle (c : Channel) : Channel := { c.enter (.training .settling) with player := none }

theorem endOfPlay_of_ended {s : State} {k : PlayerNo} {play : Play} (holds : s.play k = some play)
    (ended : play.ended = true) :
    s.endOfPlay k = (((s.findOf play).setPlay k none).modChan play.channel Channel.settle).grants := by
  unfold State.endOfPlay
  rw [holds]
  dsimp only
  rw [if_pos ended]
  rfl

theorem endOfPlay_cases (s : State) (k : PlayerNo) : s.endOfPlay k = s ∨ ∃ play, s.play k = some play ∧ play.ended = true
    ∧ s.endOfPlay k = (((s.findOf play).setPlay k none).modChan play.channel Channel.settle).grants := by
  cases holds : s.play k with
  | none => exact .inl (endOfPlay_of_not_ended s k (by rw [holds]; rfl))
  | some play =>
    cases ended : play.ended with
    | false => exact .inl (endOfPlay_of_not_ended s k (by rw [holds]; exact ended))
    | true => exact .inr ⟨play, rfl, ended, endOfPlay_of_ended holds ended⟩

theorem findOf_steady (s : State) (play : Play) : s.Steady (s.findOf play) := by
  unfold State.findOf
  split
  · exact applyFinding_steady s _ _
  · exact .refl s

/-- What an epoch end leaves of a channel of its sums and marks (R37). -/
def Channel.nextEpoch (c : Channel) : Channel := { c with sums := .zero, marks := .clear }

/-- The blocks' work of an epoch end in the given order. -/
def State.worked (s : State) (works : List EpochWork) : State := works.foldl s.runWork (s.modHighway Highway.nextEpoch)

/-- The order of the blocks' work, a free value (log 1). -/
def State.workOrder (s : State) : List EpochWork :=
  rankSort (fun w => Config.freeRank s.freeIndex w.code) s.epochWorks

theorem epochEndIn_eq (works : List EpochWork) (s : State) :
    State.epochEndIn works s = s.closeEvent ((s.worked works).modAllChannels Channel.nextEpoch).markHead := rfl

theorem epochEnd_eq (s : State) : s.epochEnd = State.epochEndIn s.workOrder s.spendFree := rfl

theorem removeAged_eq (s : State) : s.removeAged = (s.cache.filter s.aged).foldl (State.evict .aged) s := rfl

end Sys2Proof.Machine

/-! The players stay with their channels, and no channel waits beside an IDLE player (R91, R93): both are kept by every event,
hence by every step. -/

namespace Sys2Proof.Machine

/-! ### What keeps the players -/

/-- Every player holds the channel it held, and a channel names the player it named or none. -/
structure State.SamePlayers (s t : State) : Prop where
  plays : ∀ k, (t.play k).map Play.channel = (s.play k).map Play.channel
  named : ∀ n k, (t.chan n).player = some k → (s.chan n).player = some k

theorem State.SamePlayers.refl (s : State) : s.SamePlayers s := ⟨fun _ => rfl, fun _ _ h => h⟩

theorem State.SamePlayers.trans {s t u : State} (h : s.SamePlayers t) (h' : t.SamePlayers u) : s.SamePlayers u :=
  ⟨fun k => (h'.plays k).trans (h.plays k), fun n k e => h.named n k (h'.named n k e)⟩

theorem State.PlayersSound.of_same {s t : State} (i : s.PlayersSound) (h : s.SamePlayers t) : t.PlayersSound :=
  fun n k e => (h.plays k).trans (i n k (h.named n k e))

theorem State.Steady.samePlayers {s t : State} (h : s.Steady t) : s.SamePlayers t :=
  ⟨h.plays, fun n _ e => (h.chan n).player ▸ e⟩

theorem State.KeepsCalls.samePlayers {s t : State} (h : s.KeepsCalls t) : s.SamePlayers t := by
  refine ⟨fun k => by rw [State.play, State.play, h.players], fun n k e => ?_⟩
  obtain ⟨ring, rollback, marks, same⟩ := h.chan n
  rw [same] at e
  exact e

theorem State.SamePlayers.of_calls {s t : State} (channels : t.channels = s.channels) (players : t.players = s.players) :
    s.SamePlayers t :=
  ⟨fun k => by rw [State.play, State.play, players], fun n _ e => by rwa [State.chan, channels] at e⟩

theorem setProbeQueue_samePlayers (s : State) (queue : List ChannelNo) : s.SamePlayers (s.setProbeQueue queue) :=
  .of_calls rfl rfl

theorem setFree_samePlayers (s : State) (free : List Nat) : s.SamePlayers (s.setFree free) := .of_calls rfl rfl

theorem samePlayers_foldl {α : Type} {f : State → α → State} (h : ∀ (s : State) (a : α), s.SamePlayers (f s a))
    (items : List α) (s : State) : s.SamePlayers (items.foldl f s) := by
  induction items generalizing s with
  | nil => exact .refl s
  | cons a rest ih => exact (h s a).trans (ih (f s a))

theorem modChan_samePlayers (s : State) (n : ChannelNo) (f : Channel → Channel)
    (h : ∀ k, (f (s.chan n)).player = some k → (s.chan n).player = some k) : s.SamePlayers (s.modChan n f) := by
  refine ⟨fun _ => rfl, fun m k e => ?_⟩
  rw [chan_modChan] at e
  split at e
  · next own => subst own; exact h k e
  · exact e

theorem evict_samePlayers (reason : EvictReason) (s : State) (e : CacheEntry) : s.SamePlayers (s.evict reason e) :=
  .of_calls (evict_calls reason s e).1 (evict_calls reason s e).2.1

theorem evictFor_samePlayers (s : State) (need tag : Nat) : s.SamePlayers (s.evictFor need tag) := by
  refine samePlayers_foldl (fun u e => ?_) _ s
  split
  · exact evict_samePlayers _ u e
  · exact .refl u

theorem removeAged_samePlayers (s : State) : s.SamePlayers s.removeAged :=
  samePlayers_foldl (evict_samePlayers .aged) _ s

theorem park_samePlayers (s : State) (n : ChannelNo) : s.SamePlayers (s.park n) := by
  have same : s.SamePlayers (s.evictSame (s.chan n).policy.routeTag) := by
    unfold State.evictSame
    split
    · exact evict_samePlayers _ s _
    · exact .refl s
  have room : ∀ u : State, u.SamePlayers u.makeRoom := fun u => by
    unfold State.makeRoom
    split
    · split
      · exact evict_samePlayers _ u _
      · exact .refl u
    · exact .refl u
  exact (same.trans (room _)).trans (.of_calls rfl rfl)

theorem enterQueued_samePlayers (s : State) (n : ChannelNo) : s.SamePlayers (s.enterQueued n) :=
  (setProbeQueue_samePlayers s _).trans (modChan_samePlayers _ n _ (by exact fun _ e => nomatch e))

theorem newCall_samePlayers (u : State) (p : Port) (n : ChannelNo) (profile : Profile) (policy : Policy) :
    u.SamePlayers (u.newCall p n profile policy) := by
  unfold State.newCall
  refine State.SamePlayers.trans ?_ (writeInitialTaps_steady _ n).samePlayers
  exact (setFree_samePlayers u _).trans (modChan_samePlayers _ n _ (by exact fun _ e => nomatch e))

theorem attachFresh_samePlayers (s : State) (p : Port) (n : ChannelNo) (profile : Profile) (policy : Policy) :
    s.SamePlayers (s.attachFresh p n profile policy) := by
  rw [attachFresh_eq]
  exact ((evictFor_samePlayers s _ _).trans (newCall_samePlayers _ p n profile policy)).trans (enterQueued_samePlayers _ n)

theorem adoptInto_samePlayers (s : State) (p : Port) (n : ChannelNo) : s.SamePlayers (s.adoptInto p n) := by
  unfold State.adoptInto
  dsimp only
  split
  · refine State.SamePlayers.trans ?_ (modChan_samePlayers _ n _ (by exact fun _ e => e))
    exact modChan_samePlayers s n _ (by exact fun _ e => e)
  · refine State.SamePlayers.trans ?_ (modChan_samePlayers _ n _ (by exact fun _ e => e))
    exact modChan_samePlayers s n _ (by exact fun _ e => e)
  · refine State.SamePlayers.trans ?_ (modChan_samePlayers _ n _ (by exact fun _ e => e))
    exact modChan_samePlayers s n _ (by exact fun _ e => e)
  · refine State.SamePlayers.trans ?_ (enterQueued_samePlayers _ n)
    exact modChan_samePlayers s n _ (by exact fun _ e => e)

theorem snapshotRoom_samePlayers {s : State} {n : ChannelNo} {room : SnapshotRoom} (h : s.snapshotRoom n = .ok room) :
    s.SamePlayers room.state := by
  unfold State.snapshotRoom at h
  dsimp only at h
  split at h
  · cases h; exact .of_calls rfl rfl
  · split at h
    · next r _ =>
      cases h
      show s.SamePlayers (s.modChan n fun c => c.dropSnapshot r.id)
      exact modChan_samePlayers s n _ (by exact fun _ e => e)
    · cases h

theorem retrainDiverged_samePlayers (s : State) (n : ChannelNo) : s.SamePlayers (s.retrainDiverged n) :=
  (enterQueued_samePlayers s n).trans (notifyLessee_steady _ _ _).samePlayers

theorem diverge_samePlayers (s : State) (n : ChannelNo) : s.SamePlayers (s.diverge n) := by
  unfold State.diverge
  dsimp only
  split
  · exact (modChan_samePlayers s n _ (by exact fun _ e => e)).trans (notifyLessee_steady _ _ _).samePlayers
  · exact retrainDiverged_samePlayers s n
  · split
    · exact retrainDiverged_samePlayers s n
    · split
      · split
        · exact ((modChan_samePlayers s n _ (by exact fun _ e => e)).trans (enqueue_steady _ _).samePlayers).trans
            (notifyLessee_steady _ _ _).samePlayers
        · exact retrainDiverged_samePlayers s n
      · exact retrainDiverged_samePlayers s n

theorem judgeChannel_samePlayers (s : State) (n : ChannelNo) : s.SamePlayers (s.judgeChannel n) := by
  have converges : s.SamePlayers (s.converge n) :=
    (modChan_samePlayers s n _ (by exact fun _ e => e)).trans (notifyLessee_steady _ _ _).samePlayers
  have stalls : s.SamePlayers (s.stall n) :=
    (modChan_samePlayers s n _ (by exact fun _ e => e)).trans (notifyLessee_steady _ _ _).samePlayers
  have proves : s.SamePlayers (s.judgeProving n) := by
    unfold State.judgeProving
    dsimp only
    split
    · exact (modChan_samePlayers s n _ (by exact fun _ e => e)).trans (notifyLessee_steady _ _ _).samePlayers
    · split
      · exact (enterQueued_samePlayers s n).trans (notifyLessee_steady _ _ _).samePlayers
      · exact .refl s
  unfold State.judgeChannel
  dsimp only
  split
  · split
    · exact converges
    · split
      · exact stalls
      · exact .refl s
  · split
    · exact converges
    · exact .refl s
  · split
    · exact proves
    · split
      · exact diverge_samePlayers s n
      · exact .refl s
  all_goals exact .refl s

theorem runWork_samePlayers (s₀ s : State) (w : EpochWork) : s.SamePlayers (s₀.runWork s w) := by
  cases w with
  | engine n =>
    rcases engineWork_cases s₀ s n with steady | judged
    · exact steady.samePlayers
    · rw [State.runWork, judged]
      exact (engineUpdate_steady s₀ s n).samePlayers.trans (judgeChannel_samePlayers _ n)
  | level n => exact (levelWork_steady s₀ s n).samePlayers
  | players => exact (playersWork_steady s).samePlayers
  | mover =>
    rw [State.runWork, State.moverWork]
    split
    · exact .refl s
    · exact (advanceHead_steady s).samePlayers

/-! ### What gives a player to a channel or takes it away -/

section

variable {s : State} (i : s.PlayersSound)
include i

theorem grantOne_playersSound : s.grantOne.PlayersSound := by
  obtain ⟨-, same⟩ | ⟨n, rest, k, -, idle, grant⟩ := grantOne_cases s
  · rwa [same]
  · rw [grant]
    intro m j names
    rw [play_modChan, play_setPlay]
    rw [chan_modChan] at names
    split at names
    · next own => cases names; rw [if_pos rfl, ← own]; rfl
    · have holds := i m j names
      have other : k ≠ j := fun same => by rw [← same, idle] at holds; cases holds
      rw [if_neg other]
      exact holds

theorem grants_playersSound : s.grants.PlayersSound :=
  grantOne_playersSound (grantOne_playersSound (grantOne_playersSound (grantOne_playersSound i)))

theorem closeEvent_playersSound (s₀ : State) : (s₀.closeEvent s).PlayersSound := by
  have granted := grants_playersSound i
  unfold State.closeEvent
  dsimp only
  split
  · exact granted
  · exact granted.of_same (comparePool_steady _).samePlayers

/-- A player and the channel it holds part. -/
theorem part_playersSound {k : PlayerNo} {n : ChannelNo} (holds : (s.play k).map Play.channel = some n)
    (f : Channel → Channel) (cleared : ∀ c, (f c).player = none) : ((s.setPlay k none).modChan n f).PlayersSound := by
  intro m j names
  rw [play_modChan, play_setPlay]
  rw [chan_modChan] at names
  split at names
  · rw [cleared] at names; cases names
  · next other =>
    have sound := i m j names
    have ne : k ≠ j := fun same => by
      rw [← same, holds] at sound
      exact other (Option.some.inj sound)
    rw [if_neg ne]
    exact sound

theorem freePlayer_playersSound (n : ChannelNo) : (s.freePlayer n).PlayersSound := by
  unfold State.freePlayer
  split
  · next k names => exact part_playersSound i (i n k names) _ fun _ => rfl
  · exact i

theorem stripped_playersSound (n : ChannelNo) : (s.stripped n).PlayersSound := by
  unfold State.stripped
  refine freePlayer_playersSound ?_ n
  exact i.of_same ((abortOrders_keeps s _).samePlayers.trans (.of_calls rfl rfl))

theorem vacate_playersSound (n : ChannelNo) (park : Bool) : (s.vacate n park).PlayersSound := by
  have stripped := stripped_playersSound i n
  rw [vacate_eq]
  generalize s.stripped n = u at stripped ⊢
  refine State.PlayersSound.of_same ?_ (modChan_samePlayers _ n _ (by exact fun _ e => nomatch e))
  refine State.PlayersSound.of_same ?_ (returnSegments_keeps _ _).samePlayers
  split
  · exact stripped.of_same (park_samePlayers _ n)
  · exact stripped.of_same (returnSegments_keeps _ _).samePlayers

theorem orphan_playersSound (p : Port) (n : ChannelNo) : (s.orphan p n).PlayersSound := by
  have freed := freePlayer_playersSound (i.of_same (abortOrders_keeps s fun o => o.work.touches n).samePlayers) n
  rw [orphan_eq]
  generalize (s.abortOrders fun o => o.work.touches n).freePlayer n = u at freed ⊢
  refine State.PlayersSound.of_same ?_ (broadcast_steady _ _).samePlayers
  exact State.PlayersSound.of_same (s := u.leaveQueue n) freed (modChan_samePlayers _ n _ (by exact fun _ e => e))

theorem endOfPlay_playersSound (k : PlayerNo) : (s.endOfPlay k).PlayersSound := by
  obtain same | ⟨play, holds, -, ends⟩ := endOfPlay_cases s k
  · rwa [same]
  · have found := findOf_steady s play
    rw [ends]
    refine grants_playersSound (part_playersSound (i.of_same found.samePlayers) ?_ _ fun _ => rfl)
    rw [found.plays, holds]
    rfl

theorem epochEnd_playersSound : s.epochEnd.PlayersSound := by
  rw [epochEnd_eq, epochEndIn_eq]
  refine closeEvent_playersSound ?_ _
  refine State.PlayersSound.of_same ?_ (markHead_steady _).samePlayers
  have worked : (s.spendFree.worked s.workOrder).PlayersSound :=
    State.PlayersSound.of_same (s := s.spendFree.modHighway Highway.nextEpoch) i
      (samePlayers_foldl (runWork_samePlayers s.spendFree) s.workOrder _)
  exact worked.of_same (modAllChannels_steady _ _ (by exact fun _ => ⟨rfl, rfl, rfl, rfl, rfl, rfl, id⟩)).samePlayers

theorem loseCall_playersSound (p : Port) (counts : LossCounts) (n : ChannelNo) :
    (State.loseCall p (s, counts) n).1.PlayersSound := by
  have dropped := vacate_playersSound i n false
  rw [loseCall_eq]
  split
  · dsimp only
    exact dropped.of_same (broadcast_steady _ _).samePlayers
  · dsimp only
    exact orphan_playersSound i p n

omit i in
theorem loseCalls_playersSound (p : Port) (calls : List ChannelNo) {r : State × LossCounts} (j : r.1.PlayersSound) :
    (calls.foldl (State.loseCall p) r).1.PlayersSound := by
  induction calls generalizing r with
  | nil => exact j
  | cons n rest ih => exact ih (loseCall_playersSound j p r.2 n)

theorem losePort_playersSound (p : Port) (reason : LossReason) : (s.losePort p reason).1.PlayersSound := by
  have begun : (s.lossBegun p).PlayersSound :=
    i.of_same ((modPort_steady s p _).samePlayers.trans (abortOrders_keeps _ _).samePlayers)
  have released : (s.lossReleased p).PlayersSound := by
    unfold State.lossReleased
    refine foldl_keeps (I := State.PlayersSound) (fun n j => ?_) _ (s := (s.lossBegun p).spendFree) begun
    exact vacate_playersSound j n _
  have called : (s.lossCalled p).1.PlayersSound := by
    unfold State.lossCalled
    exact loseCalls_playersSound p _ released
  rw [losePort_eq]
  dsimp only
  generalize s.lossCalled p = r at called ⊢
  refine closeEvent_playersSound ?_ s
  rw [State.lossToldAt]
  refine State.PlayersSound.of_same ?_ (broadcast_steady _ _).samePlayers
  refine State.PlayersSound.of_same ?_ (modPort_steady _ p _).samePlayers
  unfold State.dropClaim
  split <;> exact called

theorem dropExpired_playersSound (n : ChannelNo) (reason : DropReason) (was : Int) :
    (s.dropExpired n reason was).PlayersSound :=
  (closeEvent_playersSound (vacate_playersSound i n false) s).of_same (broadcast_steady _ _).samePlayers

theorem acts_playersSound {p : Port} {u : State} (acts : s.Acts p u) : u.PlayersSound := by
  cases acts with
  | nothing => exact i
  | @resumes n profile policy e =>
    exact State.PlayersSound.of_same (s := s.setCache (s.cache.filter fun x => x.routeTag ≠ e.routeTag)) i
      (modChan_samePlayers _ n _ (by exact fun _ e => nomatch e))
  | attaches =>
    refine closeEvent_playersSound ?_ s
    exact i.of_same (attachFresh_samePlayers s _ _ _ _)
  | @releases n =>
    refine closeEvent_playersSound ?_ s
    have freed := freePlayer_playersSound i n
    generalize s.freePlayer n = v at freed ⊢
    refine State.PlayersSound.of_same ?_ (abortOrders_keeps _ _).samePlayers
    exact State.PlayersSound.of_same (s := v.leaveQueue n) freed (modChan_samePlayers _ n _ (by exact fun _ e => e))
  | @retrains n =>
    refine closeEvent_playersSound ?_ s
    have freed := freePlayer_playersSound i n
    generalize s.freePlayer n = v at freed ⊢
    exact State.PlayersSound.of_same (s := v.leaveQueue n) freed (enterQueued_samePlayers _ n)
  | @wipes n =>
    refine closeEvent_playersSound ?_ s
    have freed := freePlayer_playersSound i n
    generalize s.freePlayer n = v at freed ⊢
    have wiped : ((v.leaveQueue n).writeInitialTaps n).PlayersSound :=
      State.PlayersSound.of_same (s := v.leaveQueue n) freed (writeInitialTaps_steady _ n).samePlayers
    generalize (v.leaveQueue n).writeInitialTaps n = w at wiped ⊢
    exact (wiped.of_same (modChan_samePlayers _ n _ (by exact fun _ e => e))).of_same (enterQueued_samePlayers _ n)
  | @adopts n =>
    refine State.PlayersSound.of_same ?_ (broadcastExcept_steady _ _ _).samePlayers
    refine closeEvent_playersSound ?_ s
    exact i.of_same (adoptInto_samePlayers s p n)
  | setsPolicy => exact i.of_same (modChan_samePlayers s _ _ (by exact fun _ e => e))
  | clearsHolds => exact i.of_same (modChan_samePlayers s _ _ (by exact fun _ e => e))
  | setsBudget => exact i.of_same (modChan_samePlayers s _ _ (by exact fun _ e => e))
  | pauses holds => exact i.of_same (setPlay_steady s _ _ (by rw [holds]; rfl)).samePlayers
  | @snapshots n tag room _ found =>
    refine closeEvent_playersSound ?_ s
    have roomy := i.of_same (snapshotRoom_samePlayers found)
    unfold State.snapshotOn
    dsimp only
    refine State.PlayersSound.of_same ?_ (enqueue_steady _ _).samePlayers
    exact roomy.of_same (modChan_samePlayers _ n _ (by exact fun _ e => e))
  | restores => exact i.of_same (enqueue_steady s _).samePlayers
  | drops =>
    refine closeEvent_playersSound ?_ s
    exact i.of_same (removeSnapshot_keeps s _ _).samePlayers
  | moves => exact i.of_same (enqueue_steady s _).samePlayers
  | @cancels place o =>
    refine closeEvent_playersSound ?_ s
    unfold State.cancelOrder
    refine State.PlayersSound.of_same ?_ (markHead_steady _).samePlayers
    exact i.of_same ((setMover_keeps s _).trans (endEarly_keeps _ _ o)).samePlayers
  | ages =>
    unfold State.takeAged
    split
    · exact closeEvent_playersSound (i.of_same (removeAged_samePlayers s)) s
    · exact i
  | purges =>
    refine closeEvent_playersSound ?_ s
    exact i.of_same (evict_samePlayers _ s _)
  | notices => exact i
  | claims => exact i
  | yields => exact i
  | @configures items =>
    have written : (s.setConfig (s.config.writeAll items)).PlayersSound := i
    have aged := written.of_same (removeAged_samePlayers _)
    unfold State.writeConfig
    dsimp only
    generalize s.setConfig (s.config.writeAll items) = v at written aged ⊢
    split
    · split
      · exact closeEvent_playersSound written s
      · exact written.of_same (comparePool_steady _).samePlayers
    · split
      · exact closeEvent_playersSound aged s
      · exact aged.of_same (comparePool_steady _).samePlayers

end

/-- That the player a channel names holds it is kept by every event (R91). -/
theorem playersSound_kept : KeptByEvents State.PlayersSound where
  ports _ _ i := i
  highway _ _ i := i
  endOfPlay k i := endOfPlay_playersSound i k
  epochEnd i := epochEnd_playersSound i
  acts i _ acts := acts_playersSound i acts
  reset _ n k names := by
    rw [State.chan, State.resetPart, State.reset] at names
    simp [Vector.get] at names
    cases names
  losePort p reason i := losePort_playersSound i p reason
  frame lineIn pumpIn _ _ i := i.of_same (frame_steady _ lineIn pumpIn).samePlayers
  loseSync cause i := i.of_same (loseSync_steady _ cause).samePlayers
  markHead i := i.of_same (markHead_steady _).samePlayers
  completeHead i := closeEvent_playersSound (i.of_same (completeHead_steady _).samePlayers) _
  expireDrain n i := by
    unfold State.expireDrain
    split
    · exact (closeEvent_playersSound (vacate_playersSound i n _) _).of_same (notifyLessee_steady _ _ _).samePlayers
    · exact i
  expireHold n i := by
    unfold State.expireHold
    split
    · dsimp only
      split
      · exact dropExpired_playersSound i n _ _
      · exact (i.of_same (modChan_samePlayers _ n _ (by exact fun _ e => e))).of_same (broadcast_steady _ _).samePlayers
    · exact i
  expireStrand n i := by
    unfold State.expireStrand
    split
    · exact dropExpired_playersSound i n _ _
    · exact i
  expireCache i := closeEvent_playersSound (i.of_same (removeAged_samePlayers _)) _
  tick i := i.of_same (tick_steady _).samePlayers

/-! ### No channel waits beside an IDLE player -/

/-- The queue that was granted, with the same players playing. -/
theorem State.Granted.of_plays {s t : State} (h : s.Granted) (queue : t.probeQueue = s.probeQueue)
    (plays : ∀ k, (t.play k).map Play.channel = (s.play k).map Play.channel) : t.Granted := by
  refine h.imp (fun empty => queue.trans empty) fun busy => ?_
  rw [idlePlayer_eq_none_iff] at busy ⊢
  intro k idle
  have same := plays k
  rw [idle, Option.map_none, eq_comm, Option.map_eq_none_iff] at same
  exact busy k same

theorem State.Granted.of_steady {s t : State} (h : s.Granted) (steady : s.Steady t) : t.Granted :=
  h.of_plays steady.probeQueue steady.plays

theorem removeAged_probeQueue (s : State) : s.removeAged.probeQueue = s.probeQueue := by
  have fold (entries : List CacheEntry) (u : State) :
      (entries.foldl (State.evict .aged) u).probeQueue = u.probeQueue := by
    induction entries generalizing u with
    | nil => rfl
    | cons e rest ih => rw [List.foldl_cons, ih, (evict_calls .aged u e).2.2.1]
  rw [removeAged_eq, fold]

theorem acts_granted {s u : State} {p : Port} (h : s.Granted) (acts : s.Acts p u) : u.Granted := by
  cases acts with
  | nothing | resumes | setsPolicy | clearsHolds | setsBudget | notices | claims | yields => exact h.of_plays rfl fun _ => rfl
  | attaches | releases | retrains | wipes | snapshots | drops | cancels | purges => exact closeEvent_granted s _
  | adopts => exact (closeEvent_granted s _).of_steady (broadcastExcept_steady _ _ _)
  | pauses holds => exact h.of_steady (setPlay_steady s _ _ (by rw [holds]; rfl))
  | restores => exact h.of_steady (enqueue_steady s _)
  | moves => exact h.of_steady (enqueue_steady s _)
  | ages =>
    unfold State.takeAged
    split
    · exact closeEvent_granted s _
    · exact h
  | @configures items =>
    have aged : (s.setConfig (s.config.writeAll items)).removeAged.Granted :=
      h.of_plays (removeAged_probeQueue _) (removeAged_samePlayers (s.setConfig (s.config.writeAll items))).plays
    unfold State.writeConfig
    dsimp only
    split
    · split
      · exact closeEvent_granted s _
      · exact State.Granted.of_steady (s := s.setConfig (s.config.writeAll items)) (h.of_plays rfl fun _ => rfl)
          (comparePool_steady _)
    · split
      · exact closeEvent_granted s _
      · exact aged.of_steady (comparePool_steady _)

theorem dropExpired_granted (s : State) (n : ChannelNo) (reason : DropReason) (was : Int) :
    (s.dropExpired n reason was).Granted := by
  unfold State.dropExpired
  exact (closeEvent_granted s _).of_steady (broadcast_steady _ _)

/-- That no channel waits beside an IDLE player is kept by every event (R93). -/
theorem granted_kept : KeptByEvents State.Granted where
  ports _ _ h := h.of_plays rfl fun _ => rfl
  highway _ _ h := h.of_plays rfl fun _ => rfl
  endOfPlay {s} k h := by
    obtain same | ⟨play, -, -, ends⟩ := endOfPlay_cases s k
    · rwa [same]
    · rw [ends]; exact grants_granted _
  epochEnd _ := by rw [epochEnd_eq, epochEndIn_eq]; exact closeEvent_granted _ _
  acts h _ acts := acts_granted h acts
  reset _ := .inl rfl
  losePort p reason _ := by rw [losePort_eq]; dsimp only; exact closeEvent_granted _ _
  frame lineIn pumpIn _ _ h := h.of_steady (frame_steady _ lineIn pumpIn)
  loseSync cause h := h.of_steady (loseSync_steady _ cause)
  markHead h := h.of_steady (markHead_steady _)
  completeHead _ := closeEvent_granted _ _
  expireDrain {s} n h := by
    unfold State.expireDrain
    split
    · dsimp only
      exact (closeEvent_granted s _).of_steady (notifyLessee_steady _ _ _)
    · exact h
  expireHold {s} n h := by
    unfold State.expireHold
    split
    · dsimp only
      split
      · exact dropExpired_granted s n _ _
      · exact State.Granted.of_steady (s := s.modChan n Channel.strand) (h.of_plays rfl fun _ => rfl) (broadcast_steady _ _)
    · exact h
  expireStrand {s} n h := by
    unfold State.expireStrand
    split
    · exact dropExpired_granted s n _ _
    · exact h
  expireCache _ := by unfold State.expireCache; exact closeEvent_granted _ _
  tick h := h.of_steady (tick_steady _)

/-- Settles O60, by what each event keeps of the players and of the probe queue. -/
theorem playersKept : Obligations.PlayersKept :=
  ⟨fun _ _ => playersSound_kept.step fun _ i => i, fun _ _ => granted_kept.step fun _ h => h.of_plays rfl fun _ => rfl⟩

end Sys2Proof.Machine

/-! The events that touch every record of one kind, each as one equation: the LOCKED frame (R28), the loss of sync (R33) and
the tick (R38); and what a block can touch beside the calls and their stores. -/

namespace Sys2Proof.Machine

/-! ### Every port -/

theorem modPorts_port (f : PortRecord → PortRecord) (items : List Port) (nodup : items.Nodup) (s : State) (q : Port) :
    (items.foldl (fun s p => s.modPort p f) s).port q = if q ∈ items then f (s.port q) else s.port q := by
  induction items generalizing s with
  | nil => rfl
  | cons p rest ih =>
    obtain ⟨fresh, nodup'⟩ := List.nodup_cons.1 nodup
    rw [List.foldl_cons, ih nodup', port_modPort]
    by_cases own : p = q
    · subst own; simp [fresh]
    · simp [own, Ne.symm own]

theorem modPorts_eq (f : PortRecord → PortRecord) (items : List Port) (s : State) :
    ∃ ports, items.foldl (fun s p => s.modPort p f) s = { s with ports := ports } := by
  induction items generalizing s with
  | nil => exact ⟨s.ports, rfl⟩
  | cons p rest ih =>
    obtain ⟨ports, e⟩ := ih (s.modPort p f)
    exact ⟨ports, by rw [List.foldl_cons, e]; rfl⟩

/-! ### The tick -/

theorem tick_port (s : State) (p : Port) : s.tick.port p = (s.port p).tick := by
  have ported := modPorts_port PortRecord.tick allPorts nodup_allPorts s p
  rw [if_pos (mem_allPorts p)] at ported
  unfold State.tick
  dsimp only
  generalize allPorts.foldl (fun s p => s.modPort p PortRecord.tick) s = u at ported ⊢
  obtain ⟨channels, e⟩ := modAllChannels_eq u Channel.tick
  rw [e]
  exact ported

theorem tick_chan (s : State) (n : ChannelNo) : s.tick.chan n = (s.chan n).tick := by
  obtain ⟨ports, e⟩ := modPorts_eq PortRecord.tick allPorts s
  unfold State.tick
  dsimp only
  obtain ⟨channels, e'⟩ := modAllChannels_eq { s with ports := ports } Channel.tick
  have ticked := modAllChannels_chan { s with ports := ports } Channel.tick n
  rw [e'] at ticked
  rw [e, e']
  exact ticked

theorem tick_eq (s : State) : s.tick =
    { s with timebase := s.timebase + 1, ports := s.tick.ports, channels := s.tick.channels } := by
  obtain ⟨ports, e⟩ := modPorts_eq PortRecord.tick allPorts s
  obtain ⟨channels, e'⟩ := modAllChannels_eq { s with ports := ports } Channel.tick
  unfold State.tick
  dsimp only
  rw [e, e']

/-! ### The loss of sync -/

/-- HUNTING from the count of the timebase, the partial epoch discarded, zeros in the output slots (R33). -/
def Highway.loseSync (h : Highway) (now : Word32) : Highway :=
  { h with
    sync := .hunting, faultCount := 0, runCount := 0, runReference := false, huntStart := now, epochFrames := 0,
    lineOut := Vector.replicate 48 0, pumpOut := Vector.replicate 48 0 }

/-- Every channel's histories, sums and marks and every play's sums of the epoch lost. -/
def State.dropEpoch (s : State) : State := (s.modAllChannels Channel.loseSync).modAllPlays Play.dropEpochSums

theorem dropEpoch_chan (s : State) (n : ChannelNo) : s.dropEpoch.chan n = (s.chan n).loseSync := by
  have lost := modAllChannels_chan s Channel.loseSync n
  obtain ⟨players, e⟩ := modAllPlays_eq (s.modAllChannels Channel.loseSync) Play.dropEpochSums
  obtain ⟨channels, e'⟩ := modAllChannels_eq s Channel.loseSync
  rw [e'] at lost
  rw [State.dropEpoch, e, e']
  exact lost

theorem dropEpoch_play (s : State) (k : PlayerNo) : s.dropEpoch.play k = (s.play k).map Play.dropEpochSums := by
  obtain ⟨channels, e⟩ := modAllChannels_eq s Channel.loseSync
  rw [State.dropEpoch, modAllPlays_play, e]
  rfl

theorem dropEpoch_eq (s : State) : ∃ channels players, s.dropEpoch = { s with channels := channels, players := players } := by
  obtain ⟨channels, e⟩ := modAllChannels_eq s Channel.loseSync
  obtain ⟨players, e'⟩ := modAllPlays_eq { s with channels := channels } Play.dropEpochSums
  exact ⟨channels, players, by rw [State.dropEpoch, e, e']⟩

/-- The frames discarded, the cause and the epoch counter, as SYNC_LOST gives them (R33). -/
def syncLost (h : Highway) (cause : SyncCause) : Notice :=
  ⟨.syncLost, none, [(h.epochFrames : Int), (cause.code : Int), (h.epochCounter.toNat / 65536 : Nat),
    (h.epochCounter.toNat % 65536 : Nat)]⟩

theorem loseSync_eq (s : State) (cause : SyncCause) : s.loseSync cause =
    (s.dropEpoch.modHighway fun h => h.loseSync s.timebase).broadcast (syncLost s.highway cause) := by
  obtain ⟨channels, players, e⟩ := dropEpoch_eq s
  unfold State.loseSync
  dsimp only
  rw [show (s.modAllChannels Channel.loseSync).modAllPlays Play.dropEpochSums = s.dropEpoch from rfl, e]
  rfl

/-- An entry to HUNTING leaves what `State.SyncLost` says. -/
theorem loseSync_lost (s : State) (cause : SyncCause) : s.SyncLost (s.loseSync cause) cause := by
  obtain ⟨channels, players, e⟩ := dropEpoch_eq s
  have chans := dropEpoch_chan s
  have plays := dropEpoch_play s
  have ports : (s.dropEpoch.modHighway fun h => h.loseSync s.timebase).ports = s.ports := by rw [e]; rfl
  have joined (q : Port) : (s.dropEpoch.modHighway fun h => h.loseSync s.timebase).port q = s.port q := by
    rw [State.port, ports]; rfl
  rw [loseSync_eq]
  generalize s.dropEpoch = u at *
  refine ⟨?_, fun n => ?_, fun k => ?_, ?_, fun q j => told_broadcast ((joined q).symm ▸ j) _, ?_⟩
  · rw [broadcast_highway, e]; rfl
  · rw [chan_broadcast]; exact chans n
  · rw [play_broadcast]; exact plays k
  · exact (State.Heard.of_ports ports).trans (broadcast_within _ _).heard
  · obtain ⟨told, same⟩ := broadcast_eq (u.modHighway fun h => h.loseSync s.timebase) (syncLost s.highway cause)
    rw [same, e]
    rfl

/-! ### The LOCKED frame -/

/-- A frame for one channel changes its record, its player and its two slots. -/
theorem frameChannel_eq (lineIn pumpIn : Vector Slot 48) (s : State) (n : ChannelNo) :
    ∃ channels players lineOut pumpOut, s.frameChannel lineIn pumpIn n = { s with
      channels := channels, players := players, highway := { s.highway with lineOut := lineOut, pumpOut := pumpOut } } := by
  unfold State.frameChannel
  split
  · exact ⟨_, _, _, _, rfl⟩
  · unfold State.frameCall
    dsimp only
    split
    · exact ⟨_, _, _, _, rfl⟩
    · exact ⟨_, _, _, _, rfl⟩

theorem frameChannels_eq (lineIn pumpIn : Vector Slot 48) (items : List ChannelNo) (s : State) :
    ∃ channels players lineOut pumpOut, items.foldl (State.frameChannel lineIn pumpIn) s = { s with
      channels := channels, players := players, highway := { s.highway with lineOut := lineOut, pumpOut := pumpOut } } := by
  induction items generalizing s with
  | nil => exact ⟨s.channels, s.players, s.highway.lineOut, s.highway.pumpOut, rfl⟩
  | cons n rest ih =>
    obtain ⟨channels, players, lineOut, pumpOut, e⟩ := frameChannel_eq lineIn pumpIn s n
    obtain ⟨channels', players', lineOut', pumpOut', e'⟩ := ih (s.frameChannel lineIn pumpIn n)
    exact ⟨channels', players', lineOut', pumpOut', by rw [List.foldl_cons, e', e]⟩

theorem frame_eq (s : State) (lineIn pumpIn : Vector Slot 48) :
    ∃ channels players lineOut pumpOut, s.frame lineIn pumpIn = { s with
      channels := channels, players := players
      highway := { s.highway with epochFrames := s.highway.epochFrames + 1, lineOut := lineOut, pumpOut := pumpOut } } := by
  obtain ⟨channels, players, lineOut, pumpOut, e⟩ := frameChannels_eq lineIn pumpIn allChannels s
  exact ⟨channels, players, lineOut, pumpOut, by rw [State.frame, e]; rfl⟩

/-! ### What a block can touch -/

theorem evictFor_within (s : State) (need tag : Nat) : s.Within (s.evictFor need tag) :=
  within_foldl _ (fun u e => by
    split
    · exact evict_within _ u e
    · exact .refl u) _ s

theorem newCall_within (u : State) (p : Port) (n : ChannelNo) (profile : Profile) (policy : Policy) :
    u.Within (u.newCall p n profile policy) := by
  unfold State.newCall
  exact ((setFree_within u _).trans (modChan_within _ n _)).trans (writeInitialTaps_within _ n)

theorem attachFresh_within (s : State) (p : Port) (n : ChannelNo) (profile : Profile) (policy : Policy) :
    s.Within (s.attachFresh p n profile policy) := by
  rw [attachFresh_eq]
  exact ((evictFor_within s _ _).trans (newCall_within _ p n profile policy)).trans (enterQueued_within _ n)

theorem adoptInto_within (s : State) (p : Port) (n : ChannelNo) : s.Within (s.adoptInto p n) := by
  unfold State.adoptInto
  dsimp only
  split
  · exact (modChan_within s n _).trans (modChan_within _ n _)
  · exact (modChan_within s n _).trans (modChan_within _ n _)
  · exact (modChan_within s n _).trans (modChan_within _ n _)
  · exact (modChan_within s n _).trans (enterQueued_within _ n)

theorem snapshotRoom_within {s : State} {n : ChannelNo} {room : SnapshotRoom} (h : s.snapshotRoom n = .ok room) :
    s.Within room.state := by
  unfold State.snapshotRoom at h
  dsimp only at h
  split at h
  · cases h; exact setFree_within s _
  · split at h
    · next r _ =>
      cases h
      show s.Within (s.modChan n fun c => c.dropSnapshot r.id)
      exact modChan_within s n _
    · cases h

theorem snapshotOn_within (p : Port) (tag : Byte) (n : ChannelNo) (room : SnapshotRoom) :
    room.state.Within (State.snapshotOn p tag n room) := by
  unfold State.snapshotOn
  dsimp only
  exact (modChan_within _ n _).trans (enqueue_within _ _)

theorem cancelOrder_within (s : State) (place : Nat) (o : Order) : s.Within (s.cancelOrder place o) := by
  unfold State.cancelOrder
  exact ((setMover_within s _).trans (endEarly_within _ _ o)).trans (markHead_within _)

theorem removeAged_within (s : State) : s.Within s.removeAged := by
  rw [removeAged_eq]
  exact within_foldl _ (evict_within .aged) _ s

theorem expireCache_within (s : State) : s.Within s.expireCache := by
  unfold State.expireCache
  exact (removeAged_within s).trans (closeEvent_within s _)

/-- SET_CONFIG touches beside the configuration what the aging of the cache and the comparison of the pool touch. -/
theorem writeConfig_within (s : State) (items : List (ConfigParam × Int)) :
    (s.setConfig (s.config.writeAll items)).Within (s.writeConfig items) := by
  unfold State.writeConfig
  dsimp only
  generalize s.setConfig (s.config.writeAll items) = u
  split
  · split
    · exact closeEvent_within s u
    · exact comparePool_within u
  · have aged := removeAged_within u
    split
    · exact aged.trans (closeEvent_within s _)
    · exact aged.trans (comparePool_within _)

/-- What a block touches: the calls and their stores with the notices of that, or its port's notices, or the claim, or the
configuration. -/
theorem acts_cases {s u : State} {p : Port} (acts : s.Acts p u) : s.Within u
    ∨ (∃ f : PortRecord → PortRecord, ((f (s.port p)).link = (s.port p).link ∧ (f (s.port p)).lease = (s.port p).lease
        ∧ (f (s.port p)).held = (s.port p).held ∧ (f (s.port p)).linkOut = (s.port p).linkOut)
        ∧ ((s.port p).joined = true → (s.port p).Sound → (f (s.port p)).Sound) ∧ u = s.modPort p f)
    ∨ (s.claim = none ∧ u = s.setClaim (some p)) ∨ u = s.setClaim none
    ∨ ∃ items, s.config.accepts items = true ∧ (s.setConfig (s.config.writeAll items)).Within u := by
  cases acts with
  | nothing => exact .inl (.refl s)
  | @resumes n _ _ e => exact .inl ((setCache_within s (s.cache.filter fun x => x.routeTag ≠ e.routeTag)).trans (modChan_within _ n _))
  | attaches => exact .inl ((attachFresh_within s _ _ _ _).trans (closeEvent_within s _))
  | @releases n =>
    exact .inl ((((((freePlayer_within s n).trans (leaveQueue_within _ n)).trans (modChan_within _ n _)).trans
      (abortOrders_within _ _))).trans (closeEvent_within s _))
  | @retrains n =>
    exact .inl ((((freePlayer_within s n).trans (leaveQueue_within _ n)).trans (enterQueued_within _ n)).trans
      (closeEvent_within s _))
  | @wipes n =>
    exact .inl ((((((freePlayer_within s n).trans (leaveQueue_within _ n)).trans (writeInitialTaps_within _ n)).trans
      (modChan_within _ n _)).trans (enterQueued_within _ n)).trans (closeEvent_within s _))
  | adopts =>
    exact .inl (((adoptInto_within s _ _).trans (closeEvent_within s _)).trans (broadcastExcept_within _ _ _))
  | setsPolicy => exact .inl (modChan_within s _ _)
  | clearsHolds => exact .inl (modChan_within s _ _)
  | setsBudget => exact .inl (modChan_within s _ _)
  | pauses => exact .inl (setPlay_within s _ _)
  | snapshots _ found =>
    exact .inl (((snapshotRoom_within found).trans (snapshotOn_within _ _ _ _)).trans (closeEvent_within s _))
  | restores => exact .inl (enqueue_within s _)
  | drops => exact .inl ((removeSnapshot_within s _ _).trans (closeEvent_within s _))
  | moves => exact .inl (enqueue_within s _)
  | cancels => exact .inl ((cancelOrder_within s _ _).trans (closeEvent_within s _))
  | ages =>
    refine .inl ?_
    unfold State.takeAged
    split
    · exact expireCache_within s
    · exact .refl s
  | purges => exact .inl ((evict_within _ s _).trans (closeEvent_within s _))
  | notices fields sound => exact .inr (.inl ⟨_, fields, sound, rfl⟩)
  | claims free => exact .inr (.inr (.inl ⟨free, rfl⟩))
  | yields => exact .inr (.inr (.inr (.inl rfl)))
  | configures accepted => exact .inr (.inr (.inr (.inr ⟨_, accepted, writeConfig_within s _⟩)))

end Sys2Proof.Machine

/-! The invariant of the part beside the calls (`State.Sound`): ports, claim, configuration, highway and the stores that events
share, each kept by every event. -/

namespace Sys2Proof.Machine

/-! ### What the loss of a port leaves beside the calls -/

theorem loseCalls_within (p : Port) (calls : List ChannelNo) (r : State × LossCounts) :
    r.1.Within (calls.foldl (State.loseCall p) r).1 := by
  induction calls generalizing r with
  | nil => exact .refl _
  | cons n rest ih =>
    refine State.Within.trans ?_ (ih _)
    obtain ⟨s, counts⟩ := r
    rw [loseCall_eq]
    split
    · dsimp only
      exact (vacate_within s n false).trans (broadcast_within _ _)
    · dsimp only
      rw [orphan_eq]
      exact ((((abortOrders_within s _).trans (freePlayer_within _ n)).trans (leaveQueue_within _ n)).trans
        (modChan_within _ n _)).trans (broadcast_within _ _)

theorem State.Within.spendFree {s t : State} (h : s.Within t) : s.spendFree.Within t.spendFree :=
  ⟨h.pending, congrArg (· + 1) h.freeIndex, h.claim, h.config, h.highway, h.timebase, h.heard⟩

/-- Port `p` taken off its link, one free value spent: what the first four steps of R140 start from. -/
def State.unlink (s : State) (p : Port) : State :=
  (s.modPort p fun r => { r with link := .absent, lease := none }).spendFree

theorem lossBegun_within (s : State) (p : Port) : (s.unlink p).Within (s.lossBegun p).spendFree :=
  State.Within.spendFree (abortOrders_within _ _)

theorem lossReleased_within (s : State) (p : Port) : (s.unlink p).Within (s.lossReleased p) :=
  (lossBegun_within s p).trans (within_foldl _ completeRelease_within _ _)

theorem lossCalled_within (s : State) (p : Port) : (s.unlink p).Within (s.lossCalled p).1 :=
  (lossReleased_within s p).trans (by unfold State.lossCalled; exact loseCalls_within p _ (s.lossReleased p, _))

/-- The ports after the loss of port `p`: its own at the values of reset but for what it holds for its reader, and at the
others notices have arrived. -/
theorem losePort_port (s : State) (p : Port) (reason : LossReason) :
    (s.losePort p reason).1.port p = { PortRecord.reset with held := (s.port p).held, linkOut := (s.port p).linkOut }
      ∧ ∀ q, q ≠ p → ∃ ns : List Notice, (s.losePort p reason).1.port q =
          if (s.port q).joined then ns.foldl PortRecord.arrive (s.port q) else s.port q := by
  have called := lossCalled_within s p
  rw [losePort_eq]
  dsimp only
  generalize s.lossCalled p = r at called ⊢
  have dropped : (r.1.dropClaim p).ports = r.1.ports := by unfold State.dropClaim; split <;> rfl
  have told := ((broadcast_within ((r.1.dropClaim p).modPort p fun q =>
    { q with queue := [], mask := [], overflow := false, attn := false }) ⟨.portLost, none,
      [(p.val : Int), (reason.code : Int), (r.2.orphaned : Int), (r.2.dropped : Int)]⟩).trans (closeEvent_within s _)).heard
  have absent : ((s.unlink p).port p).joined = false := by
    unfold State.unlink
    rw [port_spendFree, port_modPort_self]
    rfl
  have own := called.heard.of_absent absent
  have cleared : ((r.1.dropClaim p).modPort p fun q =>
      { q with queue := [], mask := [], overflow := false, attn := false }).port p
        = { PortRecord.reset with held := (s.port p).held, linkOut := (s.port p).linkOut } := by
    rw [port_modPort_self, State.port, dropped]
    change { (r.1.port p) with queue := [], mask := [], overflow := false, attn := false } = _
    rw [own, State.unlink, port_spendFree, port_modPort_self]
    rfl
  refine ⟨?_, fun q other => ?_⟩
  · rw [State.lossToldAt]
    exact (told.of_absent (by rw [cleared]; rfl)).trans cleared
  · have before : ((r.1.dropClaim p).modPort p fun q =>
        { q with queue := [], mask := [], overflow := false, attn := false }).port q = r.1.port q := by
      rw [port_modPort_of_ne _ _ (Ne.symm other), State.port, dropped]
      rfl
    have start : (s.unlink p).port q = s.port q := by
      rw [State.unlink, port_spendFree, port_modPort_of_ne _ _ (Ne.symm other)]
    rw [State.lossToldAt]
    have chain : ∀ {a b c : PortRecord}, (∃ ns : List Notice, b = if a.joined then ns.foldl PortRecord.arrive a else a) →
        (∃ ns : List Notice, c = if b.joined then ns.foldl PortRecord.arrive b else b) →
        ∃ ns : List Notice, c = if a.joined then ns.foldl PortRecord.arrive a else a := by
      rintro a b c ⟨ns, rfl⟩ ⟨ms, rfl⟩
      refine ⟨ns ++ ms, ?_⟩
      by_cases joined : a.joined = true
      · simp [joined, arriveAll_joined, List.foldl_append]
      · simp [joined]
    refine chain ?_ (told q)
    rw [before]
    have heard := called.heard q
    rwa [start] at heard

/-- The parts of the state that the loss of a port leaves alone, and the claim (R140 step 5). -/
theorem losePort_frame (s : State) (p : Port) (reason : LossReason) :
    let t := (s.losePort p reason).1
    t.pending = s.pending ∧ t.freeIndex = s.freeIndex + 1 ∧ t.claim = (if s.claim = some p then none else s.claim)
      ∧ t.config = s.config ∧ t.highway = s.highway ∧ t.timebase = s.timebase := by
  have called := lossCalled_within s p
  rw [losePort_eq]
  dsimp only
  generalize s.lossCalled p = r at called ⊢
  have told : ((r.1.dropClaim p).modPort p fun q =>
      { q with queue := [], mask := [], overflow := false, attn := false }).Within
        (s.closeEvent (State.lossToldAt p reason r)) := by
    unfold State.lossToldAt
    exact (broadcast_within _ _).trans (closeEvent_within s _)
  have claim : (r.1.dropClaim p).claim = if s.claim = some p then none else s.claim := by
    have same : r.1.claim = s.claim := called.claim
    unfold State.dropClaim
    rw [same]
    split
    · rfl
    · exact same
  have rest : (r.1.dropClaim p).pending = r.1.pending ∧ (r.1.dropClaim p).freeIndex = r.1.freeIndex
      ∧ (r.1.dropClaim p).config = r.1.config ∧ (r.1.dropClaim p).highway = r.1.highway
      ∧ (r.1.dropClaim p).timebase = r.1.timebase := by
    unfold State.dropClaim
    split <;> exact ⟨rfl, rfl, rfl, rfl, rfl⟩
  obtain ⟨pending, freeIndex, config, highway, timebase⟩ := rest
  exact ⟨told.pending.trans (pending.trans called.pending), told.freeIndex.trans (freeIndex.trans called.freeIndex),
    told.claim.trans claim, told.config.trans (config.trans called.config), told.highway.trans (highway.trans called.highway),
    told.timebase.trans (timebase.trans called.timebase)⟩

/-! ### The stores -/

theorem snapshotRoom_stores {s : State} {n : ChannelNo} {room : SnapshotRoom} (h : s.snapshotRoom n = .ok room)
    (i : s.StoresSound) : room.state.StoresSound ∧ room.state.mover = s.mover := by
  unfold State.snapshotRoom at h
  dsimp only at h
  split at h
  · cases h; exact ⟨takeSegments_stores _ i, rfl⟩
  · split at h
    · cases h; exact ⟨i, rfl⟩
    · cases h

section

variable {s : State} (i : s.StoresSound)
include i

theorem removeAged_stores : s.removeAged.StoresSound := by
  rw [removeAged_eq]
  exact stores_foldl _ (fun _ e => evict_stores .aged e) _ s i

theorem evictFor_stores (need tag : Nat) : (s.evictFor need tag).StoresSound := by
  refine stores_foldl _ (fun u e j => ?_) _ s i
  split
  · exact evict_stores _ e j
  · exact j

theorem attachFresh_stores (p : Port) (n : ChannelNo) (profile : Profile) (policy : Policy) :
    (s.attachFresh p n profile policy).StoresSound := by
  have evicted := evictFor_stores i profile.segments policy.routeTag
  rw [attachFresh_eq]
  generalize s.evictFor profile.segments policy.routeTag = u at evicted ⊢
  refine enterQueued_stores n ?_
  unfold State.newCall
  exact writeInitialTaps_stores n (takeSegments_stores (s := u) profile.segments evicted)

theorem adoptInto_stores (p : Port) (n : ChannelNo) : (s.adoptInto p n).StoresSound := by
  unfold State.adoptInto
  dsimp only
  split <;> exact i

omit i in
/-- A MOVE that no check refuses finds room in the queue and in its port's quota (R113). -/
theorem room_of_moveRefusal_none {p : Port} {w : Work} (h : s.moveRefusal p w = none) :
    s.mover.length < 16 ∧ s.commandOrders p < 6 := by
  unfold State.moveRefusal at h
  split at h
  · cases h
  · split at h
    · cases h
    · split at h
      · cases h
      · split at h
        · cases h
        · split at h
          · cases h
          · next room => omega

theorem acts_stores {p : Port} {u : State} (acts : s.Acts p u) : u.StoresSound := by
  cases acts with
  | nothing => exact i
  | resumes => exact modChan_stores _ _ (shrinkCache_stores i List.filter_sublist)
  | attaches => exact closeEvent_stores s (attachFresh_stores i _ _ _ _)
  | releases =>
    exact closeEvent_stores s (abortOrders_stores _ (modChan_stores _ _ (leaveQueue_stores _ (freePlayer_stores _ i))))
  | retrains => exact closeEvent_stores s (enterQueued_stores _ (leaveQueue_stores _ (freePlayer_stores _ i)))
  | wipes =>
    exact closeEvent_stores s (enterQueued_stores _ (modChan_stores _ _ (writeInitialTaps_stores _
      (leaveQueue_stores _ (freePlayer_stores _ i)))))
  | adopts => exact broadcastExcept_stores _ _ (closeEvent_stores s (adoptInto_stores i _ _))
  | setsPolicy => exact i
  | clearsHolds => exact i
  | setsBudget => exact i
  | pauses => exact i
  | snapshots _ found places =>
    obtain ⟨roomy, mover⟩ := snapshotRoom_stores found i
    refine closeEvent_stores s ?_
    unfold State.snapshotOn
    dsimp only
    refine enqueue_stores _ (modChan_stores _ _ roomy) ?_ nofun
    rw [modChan_mover, mover]
    exact places
  | restores places => exact enqueue_stores _ i places nofun
  | drops => exact closeEvent_stores s (removeSnapshot_stores _ _ i)
  | moves accepted =>
    obtain ⟨places, quota⟩ := room_of_moveRefusal_none accepted
    exact enqueue_stores _ i places fun _ => quota
  | @cancels place o =>
    refine closeEvent_stores s ?_
    unfold State.cancelOrder
    exact markHead_stores (endEarly_stores _ o (shrinkMover_stores i (List.eraseIdx_sublist s.mover place)))
  | ages =>
    unfold State.takeAged
    split
    · unfold State.expireCache
      exact closeEvent_stores s (removeAged_stores i)
    · exact i
  | purges => exact closeEvent_stores s (evict_stores _ _ i)
  | notices => exact i
  | claims => exact i
  | yields => exact i
  | @configures items =>
    have written : (s.setConfig (s.config.writeAll items)).StoresSound := i
    have aged := removeAged_stores written
    unfold State.writeConfig
    dsimp only
    generalize s.setConfig (s.config.writeAll items) = v at written aged ⊢
    split
    · split
      · exact closeEvent_stores s written
      · exact comparePool_stores written
    · split
      · exact closeEvent_stores s aged
      · exact comparePool_stores aged

omit i in
theorem loseCalls_stores (p : Port) (calls : List ChannelNo) {r : State × LossCounts} (j : r.1.StoresSound) :
    (calls.foldl (State.loseCall p) r).1.StoresSound := by
  induction calls generalizing r with
  | nil => exact j
  | cons n rest ih =>
    refine ih ?_
    obtain ⟨u, counts⟩ := r
    rw [loseCall_eq]
    split
    · dsimp only
      exact broadcast_stores _ (vacate_stores n false j)
    · dsimp only
      rw [orphan_eq]
      exact broadcast_stores _ (modChan_stores n _ (leaveQueue_stores n (freePlayer_stores n (abortOrders_stores _ j))))

theorem losePort_stores (p : Port) (reason : LossReason) : (s.losePort p reason).1.StoresSound := by
  have begun : (s.lossBegun p).spendFree.StoresSound := abortOrders_stores _ (modPort_stores p _ i)
  have released : (s.lossReleased p).StoresSound := stores_foldl _ (fun _ n => completeRelease_stores n) _ _ begun
  have called : (s.lossCalled p).1.StoresSound := by
    unfold State.lossCalled
    exact loseCalls_stores p _ released
  rw [losePort_eq]
  dsimp only
  generalize s.lossCalled p = r at called ⊢
  refine closeEvent_stores s ?_
  unfold State.lossToldAt
  refine broadcast_stores _ (modPort_stores p _ ?_)
  unfold State.dropClaim
  split <;> exact called

theorem dropExpired_stores (n : ChannelNo) (reason : DropReason) (was : Int) : (s.dropExpired n reason was).StoresSound := by
  unfold State.dropExpired
  exact broadcast_stores _ (closeEvent_stores s (vacate_stores n false i))

end

theorem reset_stores : State.reset.StoresSound where
  canonical := rfl
  ascending := by
    simp only [State.reset, Pool.reset]
    exact List.pairwise_lt_range
  places := Nat.zero_le _
  quotas _ := Nat.zero_le _
  size := Nat.zero_le _
  tags := List.nodup_nil

/-- The stores stay sound through every event. -/
theorem storesSound_kept : KeptByEvents State.StoresSound where
  ports _ _ i := i
  highway _ _ i := i
  endOfPlay k i := endOfPlay_stores k i
  epochEnd i := epochEnd_stores i
  acts i _ acts := acts_stores i acts
  reset _ := reset_stores
  losePort p reason i := losePort_stores i p reason
  frame {s} lineIn pumpIn _ _ i := by
    obtain ⟨_, _, _, _, e⟩ := frame_eq s lineIn pumpIn
    rw [e]
    exact i
  loseSync {s} cause i := by
    rw [loseSync_eq]
    have dropped : s.dropEpoch.StoresSound := modAllPlays_stores _ (modAllChannels_stores _ i)
    generalize s.dropEpoch = u at dropped ⊢
    exact broadcast_stores _ (modHighway_stores _ dropped)
  markHead i := markHead_stores i
  completeHead {s} i := closeEvent_stores s (s := s.completeHead) (completeHead_stores i)
  expireDrain {s} n i := by
    unfold State.expireDrain
    split
    · dsimp only
      exact notifyLessee_stores _ _ (closeEvent_stores s (completeRelease_stores n i))
    · exact i
  expireHold {s} n i := by
    unfold State.expireHold
    split
    · dsimp only
      split
      · exact dropExpired_stores i n _ _
      · exact broadcast_stores _ (modChan_stores n _ i)
    · exact i
  expireStrand {s} n i := by
    unfold State.expireStrand
    split
    · exact dropExpired_stores i n _ _
    · exact i
  expireCache {s} i := by
    unfold State.expireCache
    exact closeEvent_stores s (removeAged_stores i)
  tick {s} i := by
    have e := tick_eq s
    generalize s.tick = t at e ⊢
    rw [e]
    exact i

end Sys2Proof.Machine

/-! The ports, the claim, the configuration and the highway stay sound (`State.FrontSound`), and with the stores the whole of
`State.Sound`. -/

namespace Sys2Proof.Machine

/-! ### The configuration -/

/-- Every parameter within its range and on its step (R151). -/
def SharedConfig.InRange (c : SharedConfig) : Prop :=
  ConfigParam.leasePeriod.allows c.leasePeriod = true ∧ ConfigParam.joinGrace.allows c.joinGrace = true
    ∧ ConfigParam.convergence.allows c.convergence = true ∧ ConfigParam.trainingLimit.allows c.trainingLimit = true
    ∧ ConfigParam.contentionMargin.allows c.contentionMargin = true ∧ ConfigParam.fastStep.allows c.fastStep = true
    ∧ ConfigParam.trackingStep.allows c.trackingStep = true ∧ ConfigParam.farFloor.allows c.farFloor = true
    ∧ ConfigParam.cacheLifetime.allows c.cacheLifetime = true ∧ ConfigParam.poolLowWater.allows c.poolLowWater = true
    ∧ ConfigParam.levelWarn.allows c.levelWarn = true ∧ ConfigParam.levelFade.allows c.levelFade = true
    ∧ ConfigParam.levelLoss.allows c.levelLoss = true

theorem legal_iff (c : SharedConfig) : c.Legal ↔ c.ordered = true ∧ c.InRange := Iff.rfl

/-- A value in the range of a parameter that is a count is the count it gives. -/
theorem toNat_of_onStep {lo hi step v : Int} (nonneg : 0 ≤ lo) (h : onStep lo hi step v = true) : (v.toNat : Int) = v := by
  simp only [onStep, Bool.and_eq_true, decide_eq_true_eq] at h
  obtain ⟨⟨low, -⟩, -⟩ := h
  exact Int.toNat_of_nonneg (nonneg.trans low)

theorem write_inRange {c : SharedConfig} {param : ConfigParam} {v : Int} (i : c.InRange) (h : param.allows v = true) :
    (c.write param v).InRange := by
  obtain ⟨lease, grace, conv, limit, margin, fast, track, floor, life, mark, warn, fade, loss⟩ := i
  cases param with
  | leasePeriod =>
    have e := toNat_of_onStep (by decide) h
    exact ⟨by rw [SharedConfig.write, e]; exact h, grace, conv, limit, margin, fast, track, floor, life, mark, warn, fade, loss⟩
  | joinGrace =>
    have e := toNat_of_onStep (by decide) h
    exact ⟨lease, by rw [SharedConfig.write, e]; exact h, conv, limit, margin, fast, track, floor, life, mark, warn, fade, loss⟩
  | convergence => exact ⟨lease, grace, h, limit, margin, fast, track, floor, life, mark, warn, fade, loss⟩
  | trainingLimit =>
    have e := toNat_of_onStep (by decide) h
    exact ⟨lease, grace, conv, by rw [SharedConfig.write, e]; exact h, margin, fast, track, floor, life, mark, warn, fade, loss⟩
  | contentionMargin => exact ⟨lease, grace, conv, limit, h, fast, track, floor, life, mark, warn, fade, loss⟩
  | fastStep =>
    have e := toNat_of_onStep (by decide) h
    exact ⟨lease, grace, conv, limit, margin, by rw [SharedConfig.write, e]; exact h, track, floor, life, mark, warn, fade, loss⟩
  | trackingStep =>
    have e := toNat_of_onStep (by decide) h
    exact ⟨lease, grace, conv, limit, margin, fast, by rw [SharedConfig.write, e]; exact h, floor, life, mark, warn, fade, loss⟩
  | farFloor => exact ⟨lease, grace, conv, limit, margin, fast, track, h, life, mark, warn, fade, loss⟩
  | cacheLifetime =>
    have e := toNat_of_onStep (by decide) h
    exact ⟨lease, grace, conv, limit, margin, fast, track, floor, by rw [SharedConfig.write, e]; exact h, mark, warn, fade, loss⟩
  | poolLowWater =>
    have e := toNat_of_onStep (by decide) h
    exact ⟨lease, grace, conv, limit, margin, fast, track, floor, life, by rw [SharedConfig.write, e]; exact h, warn, fade, loss⟩
  | levelWarn => exact ⟨lease, grace, conv, limit, margin, fast, track, floor, life, mark, h, fade, loss⟩
  | levelFade => exact ⟨lease, grace, conv, limit, margin, fast, track, floor, life, mark, warn, h, loss⟩
  | levelLoss => exact ⟨lease, grace, conv, limit, margin, fast, track, floor, life, mark, warn, fade, h⟩

theorem writeAll_inRange (items : List (ConfigParam × Int)) {c : SharedConfig} (i : c.InRange)
    (h : ∀ item ∈ items, item.1.allows item.2 = true) : (c.writeAll items).InRange := by
  induction items generalizing c with
  | nil => exact i
  | cons item rest ih =>
    rw [SharedConfig.writeAll, List.foldl_cons]
    exact ih (write_inRange i (h item List.mem_cons_self)) fun x hx => h x (List.mem_cons_of_mem _ hx)

/-- A list that SET_CONFIG accepts leaves a legal configuration (R151). -/
theorem legal_of_accepts {c : SharedConfig} {items : List (ConfigParam × Int)} (i : c.Legal)
    (h : c.accepts items = true) : (c.writeAll items).Legal := by
  simp only [SharedConfig.accepts, Bool.and_eq_true, List.all_eq_true] at h
  obtain ⟨⟨-, allowed⟩, ordered⟩ := h
  exact ⟨ordered, writeAll_inRange items i.2 allowed⟩

/-! ### Ports, claim, configuration, highway -/

/-- `State.Sound` but for the stores. -/
structure State.FrontSound (s : State) : Prop where
  ports : ∀ p, (s.port p).Sound
  claim : ∀ p, s.claim = some p → (s.port p).joined = true
  config : s.config.Legal
  highway : s.highway.Sound

theorem sound_iff (s : State) : s.Sound ↔ s.FrontSound ∧ s.StoresSound :=
  ⟨fun h => ⟨⟨h.ports, h.claim, h.config, h.highway⟩, h.stores⟩,
    fun ⟨h, stores⟩ => ⟨h.ports, h.claim, h.config, stores, h.highway⟩⟩

theorem State.FrontSound.of_within {s t : State} (i : s.FrontSound) (h : s.Within t) : t.FrontSound where
  ports p := h.heard.sound (i.ports p)
  claim p holds := by
    rw [h.heard.joined]
    exact i.claim p (h.claim.symm.trans holds)
  config := h.config ▸ i.config
  highway := h.highway ▸ i.highway

theorem State.FrontSound.modHighway {s : State} (i : s.FrontSound) (f : Highway → Highway) (h : (f s.highway).Sound) :
    (s.modHighway f).FrontSound := ⟨i.ports, i.claim, i.config, h⟩

/-- A port at the values of reset, whatever it holds for its reader. -/
theorem reset_sound (held : Option Response) (linkOut : List Byte) :
    PortRecord.Sound { PortRecord.reset with held := held, linkOut := linkOut } :=
  ⟨rfl, Nat.zero_le _, List.nodup_nil, fun _ => ⟨rfl, rfl, rfl, rfl⟩, fun present => absurd rfl present⟩

theorem reset_frontSound : State.reset.FrontSound where
  ports p := by
    have e : State.reset.port p = .reset := by fin_cases p <;> rfl
    rw [e]
    exact reset_sound none []
  claim := nofun
  config := by unfold SharedConfig.Legal; decide
  highway := ⟨Nat.zero_le _, Nat.zero_le _, Nat.zero_le _, fun _ => ⟨rfl, rfl, rfl, rfl⟩, nofun⟩

theorem tick_sound {r : PortRecord} (h : r.Sound) : r.tick.Sound := by
  refine ⟨h.attn, h.length, h.keys, fun absent => ?_, fun present => ?_⟩
  · obtain ⟨lease, rest⟩ := h.absent absent
    exact ⟨by rw [PortRecord.tick, lease]; rfl, rest⟩
  · obtain ⟨k, e⟩ := Option.isSome_iff_exists.1 (h.joined present)
    rw [PortRecord.tick, e]
    rfl

theorem losePort_frontSound {s : State} (i : s.FrontSound) (p : Port) (reason : LossReason) :
    (s.losePort p reason).1.FrontSound := by
  obtain ⟨own, others⟩ := losePort_port s p reason
  obtain ⟨-, -, claim, config, highway, -⟩ := losePort_frame s p reason
  generalize (s.losePort p reason).1 = t at *
  refine ⟨fun q => ?_, fun q holds => ?_, config ▸ i.config, highway ▸ i.highway⟩
  · by_cases same : q = p
    · rw [same, own]
      exact reset_sound _ _
    · obtain ⟨ns, e⟩ := others q same
      rw [e]
      split
      · next joined => exact arriveAll_sound ns (i.ports q) joined
      · exact i.ports q
  · rw [claim] at holds
    split at holds
    · cases holds
    · next free =>
      have other : q ≠ p := fun same => free (same ▸ holds)
      obtain ⟨ns, e⟩ := others q other
      have joined := i.claim q holds
      rw [e, if_pos joined, arriveAll_joined]
      exact joined

theorem acts_frontSound {s u : State} {p : Port} (i : s.FrontSound) (joined : (s.port p).joined = true)
    (acts : s.Acts p u) : u.FrontSound := by
  obtain within | ⟨f, ⟨link, -⟩, sound, rfl⟩ | ⟨-, rfl⟩ | rfl | ⟨items, accepted, within⟩ := acts_cases acts
  · exact i.of_within within
  · refine ⟨fun q => ?_, fun q holds => ?_, i.config, i.highway⟩
    · rw [port_modPort]
      split
      · next own => subst own; exact sound joined (i.ports _)
      · exact i.ports q
    · rw [port_modPort]
      split
      · next own =>
        subst own
        rw [PortRecord.joined, link]
        exact joined
      · exact i.claim q holds
  · exact ⟨i.ports, fun q holds => by cases holds; exact joined, i.config, i.highway⟩
  · exact ⟨i.ports, nofun, i.config, i.highway⟩
  · exact State.FrontSound.of_within (s := s.setConfig (s.config.writeAll items))
      ⟨i.ports, i.claim, legal_of_accepts i.config accepted, i.highway⟩ within

theorem dropExpired_within (s : State) (n : ChannelNo) (reason : DropReason) (was : Int) :
    s.Within (s.dropExpired n reason was) := by
  unfold State.dropExpired
  exact ((vacate_within s n false).trans (closeEvent_within s _)).trans (broadcast_within _ _)

theorem expireDrain_within (s : State) (n : ChannelNo) : s.Within (s.expireDrain n) := by
  unfold State.expireDrain
  split
  · dsimp only
    exact ((completeRelease_within s n).trans (closeEvent_within s _)).trans (notifyLessee_within _ _ _)
  · exact .refl s

theorem expireHold_within (s : State) (n : ChannelNo) : s.Within (s.expireHold n) := by
  unfold State.expireHold
  split
  · dsimp only
    split
    · exact dropExpired_within s n _ _
    · exact (modChan_within s n _).trans (broadcast_within _ _)
  · exact .refl s

theorem expireStrand_within (s : State) (n : ChannelNo) : s.Within (s.expireStrand n) := by
  unfold State.expireStrand
  split
  · exact dropExpired_within s n _ _
  · exact .refl s

/-- Ports, claim, configuration and highway stay sound through every event. -/
theorem frontSound_kept : KeptByEvents State.FrontSound where
  ports ports eases i :=
    ⟨fun q => (eases q).sound (i.ports q), fun q holds => (eases q).joined (i.claim q holds), i.config, i.highway⟩
  highway f sound i := i.modHighway f (sound i.highway)
  endOfPlay k i := i.of_within (endOfPlay_within _ k)
  epochEnd {s} i := by
    have h := i.highway
    have opened : (s.spendFree.modHighway Highway.nextEpoch).FrontSound :=
      ⟨i.ports, i.claim, i.config, h.fault, h.run, Nat.zero_le _, fun hunting =>
        ⟨(h.hunting hunting).1, rfl, (h.hunting hunting).2.2⟩, h.locked⟩
    exact opened.of_within (epochEnd_within s)
  acts i joined acts := acts_frontSound i joined acts
  reset _ := ⟨reset_frontSound.ports, reset_frontSound.claim, reset_frontSound.config, reset_frontSound.highway⟩
  losePort p reason i := losePort_frontSound i p reason
  frame {s} lineIn pumpIn locked notDue i := by
    obtain ⟨_, _, _, _, e⟩ := frame_eq s lineIn pumpIn
    have few : s.highway.epochFrames < 80 := by
      simpa [State.epochDue, locked] using notDue
    have h := i.highway
    rw [e]
    exact ⟨i.ports, i.claim, i.config, h.fault, h.run, few, fun hunting => (nomatch locked.symm.trans hunting), h.locked⟩
  loseSync {s} cause i := by
    have lost := loseSync_lost s cause
    generalize s.loseSync cause = t at lost ⊢
    have claim : t.claim = s.claim := by rw [lost.rest]
    have config : t.config = s.config := by rw [lost.rest]
    refine ⟨fun q => lost.heard.sound (i.ports q), fun q holds => ?_, config ▸ i.config, ?_⟩
    · rw [lost.heard.joined]
      exact i.claim q (claim.symm.trans holds)
    · rw [lost.highway]
      exact ⟨Nat.zero_le _, Nat.zero_le _, Nat.zero_le _, fun _ => ⟨rfl, rfl, rfl, rfl⟩, nofun⟩
  markHead i := i.of_within (markHead_within _)
  completeHead i := i.of_within ((completeHead_within _).trans (closeEvent_within _ _))
  expireDrain n i := i.of_within (expireDrain_within _ n)
  expireHold n i := i.of_within (expireHold_within _ n)
  expireStrand n i := i.of_within (expireStrand_within _ n)
  expireCache i := i.of_within (expireCache_within _)
  tick {s} i := by
    have e := tick_eq s
    have ports := tick_port s
    generalize s.tick = t at e ports ⊢
    refine ⟨fun q => ports q ▸ tick_sound (i.ports q), fun q holds => ?_, ?_, ?_⟩
    · rw [ports]
      exact i.claim q (by rw [e] at holds; exact holds)
    · rw [e]; exact i.config
    · rw [e]; exact i.highway

/-- Every step keeps the part sound. -/
theorem sound_step {s t : State} (i : s.Sound) (h : step s = .next t) : t.Sound := by
  rw [sound_iff] at i ⊢
  exact ⟨frontSound_kept.step (fun _ i => ⟨i.ports, i.claim, i.config, i.highway⟩) i.1 h,
    storesSound_kept.step (fun _ i => i) i.2 h⟩

end Sys2Proof.Machine

/-! The probe queue, the players and the states of the channels agree (`State.ProbeSound`, R91, R92): the queue holds the QUEUED
channels, a channel names a player exactly in PROBING, and a player that plays is the player of its channel. -/

namespace Sys2Proof.Machine

/-- Queue, players and states agree. -/
structure State.ProbeSound (s : State) : Prop where
  nodup : s.probeQueue.Nodup
  queued : ∀ n, n ∈ s.probeQueue ↔ (s.chan n).state = .training .queued
  probing : ∀ n, (s.chan n).player ≠ none ↔ (s.chan n).state = .training .probing
  named : s.PlayersSound
  plays : ∀ k play, s.play k = some play → (s.chan play.channel).player = some k

/-- Queue, players and states agree but for channel `n`, which is in no queue and has no player, whatever its state. -/
structure State.ProbeSoundBut (s : State) (n : ChannelNo) : Prop where
  nodup : s.probeQueue.Nodup
  out : n ∉ s.probeQueue
  queued : ∀ m, m ≠ n → (m ∈ s.probeQueue ↔ (s.chan m).state = .training .queued)
  free : (s.chan n).player = none
  probing : ∀ m, m ≠ n → ((s.chan m).player ≠ none ↔ (s.chan m).state = .training .probing)
  named : s.PlayersSound
  plays : ∀ k play, s.play k = some play → (s.chan play.channel).player = some k

/-! ### What touches neither -/

/-- States, players and queue are the same. -/
structure State.SameProbe (s t : State) : Prop where
  state : ∀ n, (t.chan n).state = (s.chan n).state
  player : ∀ n, (t.chan n).player = (s.chan n).player
  queue : t.probeQueue = s.probeQueue
  plays : ∀ k, (t.play k).map Play.channel = (s.play k).map Play.channel

theorem State.SameProbe.refl (s : State) : s.SameProbe s := ⟨fun _ => rfl, fun _ => rfl, rfl, fun _ => rfl⟩

theorem State.SameProbe.trans {s t u : State} (h : s.SameProbe t) (h' : t.SameProbe u) : s.SameProbe u :=
  ⟨fun n => (h'.state n).trans (h.state n), fun n => (h'.player n).trans (h.player n), h'.queue.trans h.queue,
    fun k => (h'.plays k).trans (h.plays k)⟩

theorem State.SameProbe.samePlayers {s t : State} (h : s.SameProbe t) : s.SamePlayers t :=
  ⟨h.plays, fun n _ e => h.player n ▸ e⟩

/-- A player that plays in `t` plays for the same channel in `s`. -/
theorem State.SameProbe.play_of {s t : State} (h : s.SameProbe t) {k : PlayerNo} {play : Play} (e : t.play k = some play) :
    ∃ x, s.play k = some x ∧ x.channel = play.channel := by
  have same := h.plays k
  rw [e] at same
  exact Option.map_eq_some_iff.1 same.symm

theorem State.ProbeSound.of_same {s t : State} (i : s.ProbeSound) (h : s.SameProbe t) : t.ProbeSound where
  nodup := h.queue ▸ i.nodup
  queued n := by rw [h.queue, h.state]; exact i.queued n
  probing n := by rw [h.player, h.state]; exact i.probing n
  named := i.named.of_same h.samePlayers
  plays k play e := by
    obtain ⟨x, holds, channel⟩ := h.play_of e
    rw [h.player, ← channel]
    exact i.plays k x holds

theorem State.ProbeSoundBut.of_same {s t : State} {n : ChannelNo} (i : s.ProbeSoundBut n) (h : s.SameProbe t) :
    t.ProbeSoundBut n where
  nodup := h.queue ▸ i.nodup
  out := h.queue ▸ i.out
  queued m other := by rw [h.queue, h.state]; exact i.queued m other
  free := (h.player n).trans i.free
  probing m other := by rw [h.player, h.state]; exact i.probing m other
  named := i.named.of_same h.samePlayers
  plays k play e := by
    obtain ⟨x, holds, channel⟩ := h.play_of e
    rw [h.player, ← channel]
    exact i.plays k x holds

theorem State.Steady.sameProbe {s t : State} (h : s.Steady t) : s.SameProbe t :=
  ⟨fun n => (h.chan n).state, fun n => (h.chan n).player, h.probeQueue, h.plays⟩

theorem State.KeepsCalls.sameProbe {s t : State} (h : s.KeepsCalls t) : s.SameProbe t := by
  refine ⟨fun n => ?_, fun n => ?_, h.probeQueue, fun k => by rw [State.play, State.play, h.players]⟩
  · obtain ⟨ring, rollback, marks, same⟩ := h.chan n
    rw [same]
  · obtain ⟨ring, rollback, marks, same⟩ := h.chan n
    rw [same]

theorem State.SameProbe.of_calls {s t : State} (channels : t.channels = s.channels) (players : t.players = s.players)
    (queue : t.probeQueue = s.probeQueue) : s.SameProbe t :=
  ⟨fun n => by rw [State.chan, State.chan, channels], fun n => by rw [State.chan, State.chan, channels], queue,
    fun k => by rw [State.play, State.play, players]⟩

theorem sameProbe_foldl {α : Type} {f : State → α → State} (h : ∀ (s : State) (a : α), s.SameProbe (f s a))
    (items : List α) (s : State) : s.SameProbe (items.foldl f s) := by
  induction items generalizing s with
  | nil => exact .refl s
  | cons a rest ih => exact (h s a).trans (ih (f s a))

theorem modChan_sameProbe (s : State) (n : ChannelNo) (f : Channel → Channel)
    (state : (f (s.chan n)).state = (s.chan n).state) (player : (f (s.chan n)).player = (s.chan n).player) :
    s.SameProbe (s.modChan n f) := by
  refine ⟨fun m => ?_, fun m => ?_, rfl, fun _ => rfl⟩
  · rw [chan_modChan]
    split
    · next own => subst own; exact state
    · rfl
  · rw [chan_modChan]
    split
    · next own => subst own; exact player
    · rfl

theorem evict_sameProbe (reason : EvictReason) (s : State) (e : CacheEntry) : s.SameProbe (s.evict reason e) :=
  .of_calls (evict_calls reason s e).1 (evict_calls reason s e).2.1 (evict_calls reason s e).2.2.1

theorem evictFor_sameProbe (s : State) (need tag : Nat) : s.SameProbe (s.evictFor need tag) := by
  refine sameProbe_foldl (fun u e => ?_) _ s
  split
  · exact evict_sameProbe _ u e
  · exact .refl u

theorem removeAged_sameProbe (s : State) : s.SameProbe s.removeAged := by
  rw [removeAged_eq]
  exact sameProbe_foldl (evict_sameProbe .aged) _ s

theorem park_sameProbe (s : State) (n : ChannelNo) : s.SameProbe (s.park n) := by
  have same : s.SameProbe (s.evictSame (s.chan n).policy.routeTag) := by
    unfold State.evictSame
    split
    · exact evict_sameProbe _ s _
    · exact .refl s
  have room (u : State) : u.SameProbe u.makeRoom := by
    unfold State.makeRoom
    split
    · split
      · exact evict_sameProbe _ u _
      · exact .refl u
    · exact .refl u
  exact (same.trans (room _)).trans (.of_calls rfl rfl rfl)

theorem returnSegments_sameProbe (s : State) (segments : List Nat) : s.SameProbe (s.returnSegments segments) :=
  .of_calls rfl rfl rfl

theorem snapshotRoom_sameProbe {s : State} {n : ChannelNo} {room : SnapshotRoom} (h : s.snapshotRoom n = .ok room) :
    s.SameProbe room.state := by
  unfold State.snapshotRoom at h
  dsimp only at h
  split at h
  · cases h; exact .of_calls rfl rfl rfl
  · split at h
    · next r _ =>
      cases h
      show s.SameProbe (s.modChan n fun c => c.dropSnapshot r.id)
      exact modChan_sameProbe s n _ rfl rfl
    · cases h

/-! ### A channel that leaves the queue and its player -/

/-- A channel neither QUEUED nor PROBING stands outside. -/
theorem State.ProbeSound.but {s : State} {n : ChannelNo} (i : s.ProbeSound)
    (notQueued : (s.chan n).state ≠ .training .queued) (notProbing : (s.chan n).state ≠ .training .probing) :
    s.ProbeSoundBut n :=
  ⟨i.nodup, fun waits => notQueued ((i.queued n).1 waits), fun m _ => i.queued m,
    not_ne_iff.1 fun names => notProbing ((i.probing n).1 names), fun m _ => i.probing m, i.named, i.plays⟩

theorem freePlayer_play (s : State) (n : ChannelNo) (k : PlayerNo) :
    (s.freePlayer n).play k = if (s.chan n).player = some k then none else s.play k := by
  unfold State.freePlayer
  cases names : (s.chan n).player with
  | none => simp
  | some j =>
    dsimp only
    rw [play_modChan, play_setPlay]
    simp only [Option.some.injEq]

theorem freePlayer_state (s : State) (n m : ChannelNo) : ((s.freePlayer n).chan m).state = (s.chan m).state := by
  rw [freePlayer_chan]
  split <;> rfl

theorem freePlayer_player (s : State) (n m : ChannelNo) :
    ((s.freePlayer n).chan m).player = if n = m then none else (s.chan m).player := by
  rw [freePlayer_chan]
  split <;> rfl

theorem leave_but {s : State} (i : s.ProbeSound) (n : ChannelNo) : ((s.freePlayer n).leaveQueue n).ProbeSoundBut n := by
  have queue : ((s.freePlayer n).leaveQueue n).probeQueue = s.probeQueue.filter fun m => m ≠ n := by
    show ((s.freePlayer n).probeQueue.filter fun m => decide (m ≠ n)) = _
    rw [freePlayer_probeQueue]
  have plays (k : PlayerNo) : ((s.freePlayer n).leaveQueue n).play k = (s.freePlayer n).play k := rfl
  have chans (m : ChannelNo) : ((s.freePlayer n).leaveQueue n).chan m = (s.freePlayer n).chan m := rfl
  refine ⟨?_, ?_, fun m other => ?_, ?_, fun m other => ?_, ?_, fun k play e => ?_⟩
  · rw [queue]; exact i.nodup.filter _
  · rw [queue]; simp
  · rw [queue, chans, freePlayer_state, ← i.queued m]
    simp [other]
  · rw [chans, freePlayer_player, if_pos rfl]
  · rw [chans, freePlayer_state, freePlayer_player, if_neg (Ne.symm other)]
    exact i.probing m
  · exact freePlayer_playersSound i.named n
  · rw [plays, freePlayer_play] at e
    split at e
    · cases e
    · next keeps =>
      have names := i.plays k play e
      rw [chans, freePlayer_player]
      split
      · next own => exact absurd (own ▸ names) keeps
      · exact names

theorem leave_but' {s : State} (i : s.ProbeSound) (n : ChannelNo) : ((s.leaveQueue n).freePlayer n).ProbeSoundBut n := by
  refine (leave_but i n).of_same ?_
  have swap : (s.leaveQueue n).freePlayer n = (s.freePlayer n).leaveQueue n := by
    have chan : (s.leaveQueue n).chan n = s.chan n := rfl
    unfold State.freePlayer
    rw [chan]
    split
    · rfl
    · rfl
  rw [swap]
  exact .refl _

/-- A channel outside that takes a state other than QUEUED and PROBING, without a player. -/
theorem State.ProbeSoundBut.enter {s : State} {n : ChannelNo} (i : s.ProbeSoundBut n) (f : Channel → Channel)
    (notQueued : (f (s.chan n)).state ≠ .training .queued) (notProbing : (f (s.chan n)).state ≠ .training .probing)
    (player : (f (s.chan n)).player = none) : (s.modChan n f).ProbeSound where
  nodup := i.nodup
  queued m := by
    rw [chan_modChan, modChan_probeQueue]
    split
    · next own => subst own; exact iff_of_false i.out notQueued
    · next other => exact i.queued m (Ne.symm other)
  probing m := by
    rw [chan_modChan]
    split
    · next own => subst own; exact iff_of_false (not_not.2 player) notProbing
    · next other => exact i.probing m (Ne.symm other)
  named := i.named.of_same (modChan_samePlayers s n f (by rw [player]; exact fun _ e => nomatch e))
  plays k play e := by
    have names := i.plays k play e
    rw [chan_modChan]
    split
    · next own => rw [← own, i.free] at names; cases names
    · exact names

theorem State.ProbeSoundBut.enterQueued {s : State} {n : ChannelNo} (i : s.ProbeSoundBut n) : (s.enterQueued n).ProbeSound where
  nodup := by
    show (s.probeQueue ++ [n]).Nodup
    exact List.nodup_append.2 ⟨i.nodup, List.nodup_singleton n, fun a ha b hb e => i.out (by
      rw [List.mem_singleton] at hb; rw [← hb, ← e]; exact ha)⟩
  queued m := by
    unfold State.enterQueued
    rw [chan_modChan, modChan_probeQueue, setProbeQueue_probeQueue, List.mem_append, List.mem_singleton]
    split
    · next own => exact iff_of_true (.inr own.symm) rfl
    · next other =>
      rw [or_iff_left (Ne.symm other)]
      exact i.queued m (Ne.symm other)
  probing m := by
    unfold State.enterQueued
    rw [chan_modChan]
    split
    · exact iff_of_false (not_not.2 rfl) nofun
    · next other => exact i.probing m (Ne.symm other)
  named := i.named.of_same (enterQueued_samePlayers s n)
  plays k play e := by
    have names := i.plays k play e
    unfold State.enterQueued
    rw [chan_modChan]
    split
    · next own => rw [← own, i.free] at names; cases names
    · exact names

/-! ### Grants and the end of a play -/

theorem grantOne_probeSound {s : State} (i : s.ProbeSound) : s.grantOne.ProbeSound := by
  have named := grantOne_playersSound i.named
  obtain ⟨-, same⟩ | ⟨n, rest, k, queue, idle, grant⟩ := grantOne_cases s
  · rwa [same]
  · rw [grant] at named ⊢
    have nodup := i.nodup
    rw [queue] at nodup
    obtain ⟨fresh, nodup'⟩ := List.nodup_cons.1 nodup
    refine ⟨nodup', fun m => ?_, fun m => ?_, named, fun j play e => ?_⟩
    · rw [chan_modChan]
      show m ∈ rest ↔ _
      split
      · next own => subst own; exact iff_of_false fresh nofun
      · next other =>
        have waits := i.queued m
        rw [queue, List.mem_cons, or_iff_right (Ne.symm other)] at waits
        exact waits
    · rw [chan_modChan]
      split
      · exact iff_of_true nofun rfl
      · exact i.probing m
    · rw [play_modChan, play_setPlay] at e
      rw [chan_modChan]
      split at e
      · next own => cases e; rw [if_pos (show n = (startPlay n (s.chan n).profile).channel from rfl), own]
      · have names := i.plays j play e
        split
        · next own =>
          have queued : (s.chan n).state = .training .queued := (i.queued n).1 (by rw [queue]; exact List.mem_cons_self)
          have probing := (i.probing n).1 (by rw [own]; intro none; rw [none] at names; cases names)
          cases queued.symm.trans probing
        · exact names

theorem grants_probeSound {s : State} (i : s.ProbeSound) : s.grants.ProbeSound :=
  grantOne_probeSound (grantOne_probeSound (grantOne_probeSound (grantOne_probeSound i)))

theorem closeEvent_probeSound (s₀ : State) {s : State} (i : s.ProbeSound) : (s₀.closeEvent s).ProbeSound := by
  have granted := grants_probeSound i
  unfold State.closeEvent
  dsimp only
  split
  · exact granted
  · exact granted.of_same (comparePool_steady _).sameProbe

/-- The player of a play that has ended and its channel part, and the channel goes to SETTLING (R95). -/
theorem settle_probeSound {s : State} (i : s.ProbeSound) {k : PlayerNo} {n : ChannelNo}
    (names : (s.chan n).player = some k) : ((s.setPlay k none).modChan n Channel.settle).ProbeSound := by
  have probing := (i.probing n).1 (by rw [names]; nofun)
  refine ⟨i.nodup, fun m => ?_, fun m => ?_, ?_, fun j play e => ?_⟩
  · rw [chan_modChan, modChan_probeQueue, setPlay_probeQueue, chan_setPlay]
    split
    · next own =>
      subst own
      refine iff_of_false (fun waits => ?_) nofun
      cases ((i.queued n).1 waits).symm.trans probing
    · exact i.queued m
  · rw [chan_modChan, chan_setPlay]
    split
    · exact iff_of_false (not_not.2 rfl) nofun
    · exact i.probing m
  · exact part_playersSound i.named (i.named n k names) _ fun _ => rfl
  · rw [play_modChan, play_setPlay] at e
    split at e
    · cases e
    · next other =>
      have holds := i.plays j play e
      rw [chan_modChan, chan_setPlay]
      split
      · next own => rw [← own, names] at holds; exact absurd (Option.some.inj holds) other
      · exact holds

theorem endOfPlay_probeSound {s : State} (i : s.ProbeSound) (k : PlayerNo) : (s.endOfPlay k).ProbeSound := by
  obtain same | ⟨play, holds, -, ends⟩ := endOfPlay_cases s k
  · rwa [same]
  · have found := (findOf_steady s play).sameProbe
    rw [ends]
    exact grants_probeSound (settle_probeSound (i.of_same found) ((found.player _).trans (i.plays k play holds)))

end Sys2Proof.Machine

/-! Every segment has one holder (`State.HeldSound`, R42): the free set, a live list, a snapshot record or a cache entry. The
holders of a segment are counted, and each operation moves segments from one holder to another. -/

namespace Sys2Proof.Machine

/-- How many holders segment `x` has. -/
def State.holdings (s : State) (x : Nat) : Nat :=
  s.pool.free.count x + (∑ n : ChannelNo, (s.chan n).segments.count x) + (s.cache.flatMap (·.segments)).count x

/-- Every segment of the pool has one holder, the entries of the cache have a tag each and are as long as their banks need. -/
structure State.HeldSound (s : State) : Prop where
  tags : (s.cache.map CacheEntry.routeTag).Nodup
  single : ∀ x, s.holdings x = if x < 768 then 1 else 0
  entries : ∀ e ∈ s.cache, e.segments.length = bankSegments e.near + bankSegments e.far + bankSegments e.eq

theorem State.HeldSound.le_one {s : State} (i : s.HeldSound) (x : Nat) : s.holdings x ≤ 1 := by
  rw [i.single]
  split <;> omega

/-! ### Counting -/

theorem count_flatMap_allChannels (f : ChannelNo → List Nat) (x : Nat) :
    (allChannels.flatMap f).count x = ∑ n : ChannelNo, (f n).count x := by
  rw [List.count_flatMap, ← List.sum_ofFn, allChannels, List.ofFn_eq_map]
  rfl

theorem sum_modChan (s : State) (n : ChannelNo) (f : Channel → Channel) (x : Nat) :
    (∑ m : ChannelNo, ((s.modChan n f).chan m).segments.count x) + (s.chan n).segments.count x
      = (∑ m : ChannelNo, (s.chan m).segments.count x) + (f (s.chan n)).segments.count x := by
  rw [← Finset.add_sum_erase _ _ (Finset.mem_univ n), ← Finset.add_sum_erase _ (fun m => (s.chan m).segments.count x)
    (Finset.mem_univ n), chan_modChan_self]
  have rest : ∑ m ∈ Finset.univ.erase n, ((s.modChan n f).chan m).segments.count x
      = ∑ m ∈ Finset.univ.erase n, (s.chan m).segments.count x :=
    Finset.sum_congr rfl fun m hm => by rw [chan_modChan_of_ne _ _ (Ne.symm (Finset.ne_of_mem_erase hm))]
  omega

theorem holdings_modChan (s : State) (n : ChannelNo) (f : Channel → Channel) (x : Nat) :
    (s.modChan n f).holdings x + (s.chan n).segments.count x = s.holdings x + (f (s.chan n)).segments.count x := by
  have sum := sum_modChan s n f x
  simp only [State.holdings, modChan_pool, modChan_cache]
  omega

theorem holdings_congr {s t : State} (channels : ∀ n, (t.chan n).segments = (s.chan n).segments)
    (free : t.pool.free = s.pool.free) (cache : t.cache = s.cache) (x : Nat) : t.holdings x = s.holdings x := by
  simp only [State.holdings, channels, free, cache]

theorem insertSegment_perm {y : Nat} {free : List Nat} (fresh : y ∉ free) : (insertSegment y free).Perm (y :: free) := by
  induction free with
  | nil => exact .refl _
  | cons z rest ih =>
    rw [List.mem_cons, not_or] at fresh
    rw [insertSegment]
    split
    · exact .refl _
    · split
      · next same => exact absurd same fresh.1
      · exact ((ih fresh.2).cons z).trans (.swap y z rest)

theorem insertSegments_perm (segments : List Nat) {free : List Nat} (fresh : (segments ++ free).Nodup) :
    (segments.foldl (fun f x => insertSegment x f) free).Perm (segments ++ free) := by
  induction segments generalizing free with
  | nil => exact .refl _
  | cons y rest ih =>
    rw [List.cons_append, List.nodup_cons, List.mem_append, not_or] at fresh
    have here := insertSegment_perm fresh.1.2
    have after : (rest ++ insertSegment y free).Perm (y :: (rest ++ free)) :=
      (here.append_left rest).trans List.perm_middle
    rw [List.foldl_cons]
    exact (ih (after.nodup_iff.2 (List.nodup_cons.2 ⟨by simp [fresh.1], fresh.2⟩))).trans after

/-- Segments that no other holder has return to the free set. -/
theorem holdings_returnSegments (s : State) (segments : List Nat)
    (fresh : ∀ x, segments.count x + s.holdings x ≤ 1) (x : Nat) :
    (s.returnSegments segments).holdings x = s.holdings x + segments.count x := by
  have nodup : (segments ++ s.pool.free).Nodup := by
    rw [List.nodup_iff_count_le_one]
    intro y
    have bound := fresh y
    rw [List.count_append]
    simp only [State.holdings] at bound
    omega
  have free : (s.returnSegments segments).pool.free.count x = segments.count x + s.pool.free.count x := by
    rw [← List.count_append]
    exact (insertSegments_perm segments nodup).count_eq x
  have chans (n : ChannelNo) : (s.returnSegments segments).chan n = s.chan n := rfl
  have cache : (s.returnSegments segments).cache = s.cache := rfl
  simp only [State.holdings, free, chans, cache]
  omega

theorem count_flatMap_filter {α : Type} (f : α → List Nat) (keep : α → Bool) (items : List α) (x : Nat) :
    ((items.filter keep).flatMap f).count x + ((items.filter fun a => !keep a).flatMap f).count x
      = (items.flatMap f).count x := by
  induction items with
  | nil => rfl
  | cons a rest ih =>
    cases e : keep a <;> simp only [List.filter_cons, e, List.flatMap_cons, List.count_append, Bool.not_true, Bool.not_false,
      if_true, if_false, Bool.false_eq_true] <;> omega

/-! ### What moves no segment -/

theorem Channel.Steady.segments {c d : Channel} (h : c.Steady d) : d.segments = c.segments := by
  have records := congrArg (List.flatMap Prod.snd) h.records
  rw [List.flatMap_map, List.flatMap_map] at records
  rw [Channel.segments, Channel.segments, h.live]
  exact congrArg (c.live ++ ·) records

theorem State.Steady.holdings {s t : State} (h : s.Steady t) (x : Nat) : t.holdings x = s.holdings x :=
  holdings_congr (fun n => (h.chan n).segments) h.free h.cache x

/-- Every segment has as many holders as before, and the cache is the same. -/
structure State.SameHeld (s t : State) : Prop where
  cache : t.cache = s.cache
  single : (∀ x, s.holdings x ≤ 1) → ∀ x, t.holdings x = s.holdings x

theorem State.SameHeld.refl (s : State) : s.SameHeld s := ⟨rfl, fun _ _ => rfl⟩

theorem State.SameHeld.trans {s t u : State} (h : s.SameHeld t) (h' : t.SameHeld u) : s.SameHeld u :=
  ⟨h'.cache.trans h.cache, fun one x =>
    (h'.single (fun y => by rw [h.single one]; exact one y) x).trans (h.single one x)⟩

theorem State.HeldSound.of_same {s t : State} (i : s.HeldSound) (h : s.SameHeld t) : t.HeldSound :=
  ⟨h.cache ▸ i.tags, fun x => (h.single i.le_one x).trans (i.single x), h.cache ▸ i.entries⟩

theorem State.Steady.sameHeld {s t : State} (h : s.Steady t) : s.SameHeld t := ⟨h.cache, fun _ => h.holdings⟩

theorem State.SameHeld.of_same {s t : State} (channels : ∀ n, (t.chan n).segments = (s.chan n).segments)
    (free : t.pool.free = s.pool.free) (cache : t.cache = s.cache) : s.SameHeld t :=
  ⟨cache, fun _ => holdings_congr channels free cache⟩

theorem modChan_sameHeld (s : State) (n : ChannelNo) (f : Channel → Channel)
    (h : (f (s.chan n)).segments = (s.chan n).segments) : s.SameHeld (s.modChan n f) := by
  refine .of_same (fun m => ?_) rfl rfl
  rw [chan_modChan]
  split
  · next own => subst own; exact h
  · rfl

theorem sameHeld_foldl {α : Type} {f : State → α → State} (h : ∀ (s : State) (a : α), s.SameHeld (f s a)) (items : List α)
    (s : State) : s.SameHeld (items.foldl f s) := by
  induction items generalizing s with
  | nil => exact .refl s
  | cons a rest ih => exact (h s a).trans (ih (f s a))

theorem freePlayer_sameHeld (s : State) (n : ChannelNo) : s.SameHeld (s.freePlayer n) := by
  refine .of_same (fun m => ?_) (by rw [freePlayer_pool]) (freePlayer_cache s n)
  rw [freePlayer_chan]
  split <;> rfl

theorem leaveQueue_sameHeld (s : State) (n : ChannelNo) : s.SameHeld (s.leaveQueue n) :=
  .of_same (fun _ => rfl) rfl rfl

theorem enterQueued_sameHeld (s : State) (n : ChannelNo) : s.SameHeld (s.enterQueued n) := by
  have waits : s.SameHeld (s.setProbeQueue (s.probeQueue ++ [n])) := .of_same (fun _ => rfl) rfl rfl
  unfold State.enterQueued
  exact waits.trans (modChan_sameHeld _ n _ (by exact rfl))

theorem grantOne_sameHeld (s : State) : s.SameHeld s.grantOne := by
  obtain ⟨-, same⟩ | ⟨n, rest, k, -, -, grant⟩ := grantOne_cases s
  · rw [same]; exact .refl s
  · rw [grant]
    refine .of_same (fun m => ?_) rfl rfl
    rw [chan_modChan]
    split <;> rfl

theorem closeEvent_sameHeld (s₀ s : State) : s.SameHeld (s₀.closeEvent s) := by
  have granted : s.SameHeld s.grants :=
    (((grantOne_sameHeld s).trans (grantOne_sameHeld _)).trans (grantOne_sameHeld _)).trans (grantOne_sameHeld _)
  unfold State.closeEvent
  dsimp only
  split
  · exact granted
  · exact granted.trans (comparePool_steady _).sameHeld

/-- The records named leave a ring for the free set. -/
theorem removeSnapshot_sameHeld (s : State) (n : ChannelNo) (id : Nat) : s.SameHeld (s.removeSnapshot n id) := by
  refine ⟨rfl, fun one x => ?_⟩
  let dropped := ((s.chan n).ring.filter fun r => decide (r.id = id)).flatMap (·.segments)
  have split (y : Nat) : (s.modChan n fun c => c.dropSnapshot id).holdings y + dropped.count y = s.holdings y := by
    have moved := holdings_modChan s n (fun c => c.dropSnapshot id) y
    have parts := count_flatMap_filter (·.segments) (fun r : Snapshot => decide (r.id = id)) (s.chan n).ring y
    have kept : ((s.chan n).dropSnapshot id).segments.count y
        = (s.chan n).live.count y
          + (((s.chan n).ring.filter fun r => !decide (r.id = id)).flatMap (·.segments)).count y := by
      rw [Channel.dropSnapshot, Channel.segments, List.count_append]
      simp only [ne_eq, decide_not]
    have all : (s.chan n).segments.count y = (s.chan n).live.count y + ((s.chan n).ring.flatMap (·.segments)).count y := by
      rw [Channel.segments, List.count_append]
    show _ + (((s.chan n).ring.filter fun r => decide (r.id = id)).flatMap (·.segments)).count y = _
    omega
  have returned := holdings_returnSegments (s.modChan n fun c => c.dropSnapshot id) dropped (fun y => by
    have := split y
    have := one y
    omega) x
  have here := split x
  show ((s.modChan n fun c => c.dropSnapshot id).returnSegments dropped).holdings x = _
  omega

theorem giveUp_sameHeld (s : State) (w : Work) : s.SameHeld (s.giveUp w) := by
  unfold State.giveUp
  split
  · exact removeSnapshot_sameHeld s _ _
  all_goals exact (unpin_steady s _).sameHeld

theorem endEarly_sameHeld (how : OrderEnd) (s : State) (o : Order) : s.SameHeld (State.endEarly how s o) :=
  ((giveUp_sameHeld s o.work).trans (dropRollback_steady _ o).sameHeld).trans (notify_steady _ _ _).sameHeld

theorem abortOrders_sameHeld (s : State) (which : Order → Bool) : s.SameHeld (s.abortOrders which) :=
  ((setMover_steady s _).sameHeld.trans (sameHeld_foldl (endEarly_sameHeld .aborted) _ _)).trans
    (markHead_steady _).sameHeld

theorem stripped_sameHeld (s : State) (n : ChannelNo) : s.SameHeld (s.stripped n) :=
  ((abortOrders_sameHeld s _).trans (leaveQueue_sameHeld _ n)).trans (freePlayer_sameHeld _ n)

/-! ### Entries that leave the cache -/

/-- Where each item has a key of its own, one item alone has that item's key. -/
theorem filter_key_of_mem {α : Type} [DecidableEq α] (key : α → Nat) {items : List α} {a : α} (keys : (items.map key).Nodup)
    (held : a ∈ items) : items.filter (fun y => decide (key y = key a)) = [a] := by
  have unique : ∀ y ∈ items, (key y = key a) ↔ y = a := fun y hy =>
    ⟨fun same => List.inj_on_of_nodup_map keys hy held same, fun same => by rw [same]⟩
  rw [List.filter_congr (q := fun y => decide (y = a)) fun y hy => by simp only [unique y hy]]
  rw [← List.filter_congr (p := fun y => y == a) fun y _ => by rw [beq_eq_decide], List.filter_beq,
    List.count_eq_one_of_mem keys.of_map held]
  rfl

/-- An item apart from the others of a list in which each has a key of its own. -/
theorem count_apart {α : Type} [DecidableEq α] (key : α → Nat) (f : α → List Nat) {items : List α} {a : α}
    (keys : (items.map key).Nodup) (held : a ∈ items) (x : Nat) :
    (items.flatMap f).count x
      = (f a).count x + ((items.filter fun y => decide (key y ≠ key a)).flatMap f).count x := by
  have parts := count_flatMap_filter f (fun y : α => decide (key y = key a)) items x
  rw [filter_key_of_mem key keys held] at parts
  simp only [List.flatMap_cons, List.flatMap_nil, List.append_nil] at parts
  simp only [ne_eq, decide_not]
  omega

/-- An entry apart from the others of a cache in which each has a tag of its own. -/
theorem count_cache {cache : List CacheEntry} {e : CacheEntry} (tags : (cache.map CacheEntry.routeTag).Nodup)
    (held : e ∈ cache) (x : Nat) :
    (cache.flatMap (·.segments)).count x
      = e.segments.count x + ((cache.filter fun y => y.routeTag ≠ e.routeTag).flatMap (·.segments)).count x :=
  count_apart CacheEntry.routeTag (·.segments) tags held x

theorem evict_holdings (reason : EvictReason) {s : State} {e : CacheEntry}
    (tags : (s.cache.map CacheEntry.routeTag).Nodup) (held : e ∈ s.cache) (one : ∀ x, s.holdings x ≤ 1) (x : Nat) :
    (s.evict reason e).holdings x = s.holdings x := by
  have left (y : Nat) : (s.setCache (s.cache.filter fun z => z.routeTag ≠ e.routeTag)).holdings y + e.segments.count y
      = s.holdings y := by
    have parts := count_cache tags held y
    have chans (n : ChannelNo) : (s.setCache (s.cache.filter fun z => z.routeTag ≠ e.routeTag)).chan n = s.chan n := rfl
    simp only [State.holdings, setCache_pool, setCache_cache, chans]
    omega
  have returned := holdings_returnSegments (s.setCache (s.cache.filter fun z => z.routeTag ≠ e.routeTag)) e.segments
    (fun y => by
      have := left y
      have := one y
      omega) x
  have here := left x
  unfold State.evict
  dsimp only
  rw [(broadcast_steady _ _).holdings]
  omega

theorem evict_heldSound (reason : EvictReason) {s : State} (i : s.HeldSound) {e : CacheEntry} (held : e ∈ s.cache) :
    (s.evict reason e).HeldSound := by
  have cache := evict_cache reason s e
  refine ⟨?_, fun x => (evict_holdings reason i.tags held i.le_one x).trans (i.single x), fun y hy => ?_⟩
  · rw [cache]; exact i.tags.sublist (List.filter_sublist.map _)
  · rw [cache] at hy; exact i.entries y (List.mem_of_mem_filter hy)

/-- Entries with a tag each leave one after the other; each is still there when its turn comes. -/
theorem evictAll_heldSound (reason : EvictReason) (gone : List CacheEntry) {s : State} (i : s.HeldSound)
    (tags : (gone.map CacheEntry.routeTag).Nodup) (held : ∀ e ∈ gone, e ∈ s.cache) :
    (gone.foldl (State.evict reason) s).HeldSound := by
  induction gone generalizing s with
  | nil => exact i
  | cons e rest ih =>
    rw [List.map_cons, List.nodup_cons] at tags
    rw [List.foldl_cons]
    refine ih (evict_heldSound reason i (held e List.mem_cons_self)) tags.2 fun y hy => ?_
    rw [evict_cache, List.mem_filter]
    refine ⟨held y (List.mem_cons_of_mem _ hy), decide_eq_true fun same => tags.1 ?_⟩
    rw [← same]
    exact List.mem_map_of_mem hy

theorem removeAged_heldSound {s : State} (i : s.HeldSound) : s.removeAged.HeldSound := by
  rw [removeAged_eq]
  exact evictAll_heldSound .aged _ i (i.tags.sublist (List.filter_sublist.map _)) fun e he => List.mem_of_mem_filter he

/-! ### Eviction for an ATTACH -/

theorem evictionOrder_perm (tag : Nat) (cache : List CacheEntry) : (evictionOrder tag cache).Perm cache := by
  unfold evictionOrder
  have same : (cache.filter fun e => e.routeTag != tag) = cache.filter fun e => !(e.routeTag == tag) := rfl
  rw [same]
  exact List.filter_append_perm _ cache

/-- One step of the eviction for a need of segments (R46). -/
def State.evictStep (need : Nat) (s : State) (e : CacheEntry) : State :=
  if s.pool.free.length < need then s.evict .claimed e else s

theorem evictFor_eq (s : State) (need tag : Nat) :
    s.evictFor need tag = (evictionOrder tag s.cache).foldl (State.evictStep need) s := rfl

theorem evictSteps_of_enough {need : Nat} (entries : List CacheEntry) {s : State} (enough : need ≤ s.pool.free.length) :
    entries.foldl (State.evictStep need) s = s := by
  induction entries with
  | nil => rfl
  | cons e rest ih =>
    rw [List.foldl_cons, State.evictStep, if_neg (not_lt.2 enough)]
    exact ih

/-- Evictions in an order that names every entry: the segments keep their holders, and there are enough free ones at the end
or no entry is left. -/
theorem evictSteps_heldSound (need : Nat) (entries : List CacheEntry) {s : State} (i : s.HeldSound)
    (tags : (entries.map CacheEntry.routeTag).Nodup) (held : ∀ e, e ∈ entries ↔ e ∈ s.cache) :
    let u := entries.foldl (State.evictStep need) s
    u.HeldSound ∧ (need ≤ u.pool.free.length ∨ u.cache = []) := by
  induction entries generalizing s with
  | nil => exact ⟨i, .inr (List.eq_nil_iff_forall_not_mem.2 fun e he => List.not_mem_nil ((held e).2 he))⟩
  | cons e rest ih =>
    by_cases enough : need ≤ s.pool.free.length
    · dsimp only
      rw [evictSteps_of_enough _ enough]
      exact ⟨i, .inl enough⟩
    · have inCache : e ∈ s.cache := (held e).1 List.mem_cons_self
      rw [List.map_cons, List.nodup_cons] at tags
      rw [List.foldl_cons, State.evictStep, if_pos (not_le.1 enough)]
      refine ih (evict_heldSound .claimed i inCache) tags.2 fun y => ?_
      rw [evict_cache, List.mem_filter, ← held y, List.mem_cons, decide_eq_true_eq]
      constructor
      · exact fun hy => ⟨.inr hy, fun same => tags.1 (same ▸ List.mem_map_of_mem hy)⟩
      · rintro ⟨rfl | hy, other⟩
        · exact absurd rfl other
        · exact hy

theorem length_flatMap_segments (cache : List CacheEntry) :
    (cache.flatMap (·.segments)).length = (cache.map fun e => e.segments.length).sum := by
  rw [List.length_flatMap]

theorem evictFor_heldSound {s : State} (i : s.HeldSound) (need tag : Nat) : (s.evictFor need tag).HeldSound := by
  have perm := evictionOrder_perm tag s.cache
  exact (evictSteps_heldSound need (evictionOrder tag s.cache) i ((perm.map _).nodup_iff.2 i.tags) fun e =>
    perm.mem_iff).1

theorem evictFor_channels (s : State) (need tag : Nat) : (s.evictFor need tag).channels = s.channels := by
  have fold (entries : List CacheEntry) (u : State) :
      (entries.foldl (State.evictStep need) u).channels = u.channels := by
    induction entries generalizing u with
    | nil => rfl
    | cons e rest ih =>
      rw [List.foldl_cons, ih, State.evictStep]
      split
      · exact (evict_calls _ u e).1
      · rfl
  exact fold _ s

/-- Where the free set and the cache together hold enough, the free set holds enough after the evictions (R44, R46). -/
theorem evictFor_enough {s : State} (i : s.HeldSound) {need : Nat} (tag : Nat)
    (obtainable : need ≤ s.pool.free.length + s.cacheSegments) : need ≤ (s.evictFor need tag).pool.free.length := by
  have perm := evictionOrder_perm tag s.cache
  obtain ⟨after, enough | empty⟩ := evictSteps_heldSound need (evictionOrder tag s.cache) i
    ((perm.map _).nodup_iff.2 i.tags) fun e => perm.mem_iff
  · exact enough
  · rw [← evictFor_eq] at after empty
    have channels := evictFor_channels s need tag
    generalize s.evictFor need tag = u at after empty channels ⊢
    have all : u.pool.free.Perm (s.pool.free ++ s.cache.flatMap (·.segments)) := by
      rw [List.perm_iff_count]
      intro x
      have same := (after.single x).trans (i.single x).symm
      have chans (n : ChannelNo) : u.chan n = s.chan n := by rw [State.chan, channels]; rfl
      simp only [State.holdings, chans, empty, List.flatMap_nil, List.count_nil] at same
      rw [List.count_append]
      omega
    rw [all.length_eq, List.length_append, length_flatMap_segments]
    exact obtainable

/-! ### Becoming VACANT -/

theorem evictSame_heldSound {s : State} (i : s.HeldSound) (tag : Nat) : (s.evictSame tag).HeldSound := by
  unfold State.evictSame
  split
  · next e found => exact evict_heldSound _ i (List.mem_of_find?_eq_some found)
  · exact i

theorem makeRoom_heldSound {s : State} (i : s.HeldSound) : s.makeRoom.HeldSound := by
  unfold State.makeRoom
  split
  · next oldest rest first =>
    split
    · exact evict_heldSound _ i (by rw [first]; exact List.mem_cons_self)
    · exact i
  · exact i

/-- The state in which a park has made its room (R125 steps 1 and 2). -/
def State.roomFor (s : State) (tag : Nat) : State := (s.evictSame tag).makeRoom

theorem roomFor_calls (s : State) (tag : Nat) :
    (s.roomFor tag).channels = s.channels ∧ (s.roomFor tag).players = s.players
      ∧ (s.roomFor tag).probeQueue = s.probeQueue ∧ (s.roomFor tag).mover = s.mover
      ∧ (s.roomFor tag).parkCounter = s.parkCounter := by
  have same : (s.evictSame tag).channels = s.channels ∧ (s.evictSame tag).players = s.players
      ∧ (s.evictSame tag).probeQueue = s.probeQueue ∧ (s.evictSame tag).mover = s.mover
      ∧ (s.evictSame tag).parkCounter = s.parkCounter := by
    unfold State.evictSame
    split
    · exact evict_calls _ s _
    · exact ⟨rfl, rfl, rfl, rfl, rfl⟩
  obtain ⟨channels, players, queue, mover, counter⟩ := same
  unfold State.roomFor
  generalize s.evictSame tag = u at *
  unfold State.makeRoom
  split
  · split
    · obtain ⟨channels', players', queue', mover', counter'⟩ := evict_calls .full u _
      exact ⟨channels'.trans channels, players'.trans players, queue'.trans queue, mover'.trans mover,
        counter'.trans counter⟩
    · exact ⟨channels, players, queue, mover, counter⟩
  · exact ⟨channels, players, queue, mover, counter⟩

theorem roomFor_heldSound {s : State} (i : s.HeldSound) (tag : Nat) : (s.roomFor tag).HeldSound :=
  makeRoom_heldSound (evictSame_heldSound i tag)

theorem mem_roomFor {s : State} (tag : Nat) {e : CacheEntry} (h : e ∈ (s.roomFor tag).cache) : e.routeTag ≠ tag := by
  refine evictSame_fresh s tag e ?_
  unfold State.roomFor State.makeRoom at h
  split at h
  · split at h
    · rw [evict_cache] at h; exact List.mem_of_mem_filter h
    · exact h
  · exact h

theorem vacate_freed (s : State) (n : ChannelNo) : s.vacate n false =
    (((s.stripped n).modChan n fun _ => .vacant).returnSegments ((s.stripped n).chan n).live).returnSegments
      (((s.stripped n).chan n).ring.flatMap (·.segments)) := rfl

theorem vacate_parked (s : State) (n : ChannelNo) : s.vacate n true =
    ((((s.stripped n).roomFor ((s.stripped n).chan n).policy.routeTag).modChan n fun _ => .vacant).addEntry
      ((s.stripped n).chan n)).returnSegments (((s.stripped n).chan n).ring.flatMap (·.segments)) := rfl

/-- The segments of a channel whose record is made VACANT are no one's. -/
theorem holdings_vacant (s : State) (n : ChannelNo) (x : Nat) :
    (s.modChan n fun _ => .vacant).holdings x + ((s.chan n).live.count x + ((s.chan n).ring.flatMap (·.segments)).count x)
      = s.holdings x := by
  have moved := holdings_modChan s n (fun _ => .vacant) x
  have none : Channel.vacant.segments.count x = 0 := rfl
  have all : (s.chan n).segments.count x = (s.chan n).live.count x + ((s.chan n).ring.flatMap (·.segments)).count x := by
    rw [Channel.segments, List.count_append]
  omega

theorem vacate_freed_heldSound {s : State} (i : s.HeldSound) (n : ChannelNo) : (s.vacate n false).HeldSound := by
  have stripped := i.of_same (stripped_sameHeld s n)
  rw [vacate_freed]
  generalize s.stripped n = u at stripped ⊢
  have split := holdings_vacant u n
  have one := stripped.le_one
  have live := holdings_returnSegments (u.modChan n fun _ => .vacant) (u.chan n).live fun y => by
    have := split y; have := one y; omega
  have ring := holdings_returnSegments ((u.modChan n fun _ => .vacant).returnSegments (u.chan n).live)
    ((u.chan n).ring.flatMap (·.segments)) fun y => by
      have := split y; have := one y; have := live y; omega
  refine ⟨stripped.tags, fun x => ?_, stripped.entries⟩
  have := split x; have := live x; have := ring x; have := stripped.single x
  omega

theorem vacate_parked_heldSound {s : State} (i : s.HeldSound) (n : ChannelNo)
    (sized : (s.chan n).live.length = (s.chan n).profile.segments) : (s.vacate n true).HeldSound := by
  have stripped := i.of_same (stripped_sameHeld s n)
  have sized' : ((s.stripped n).chan n).live.length = ((s.stripped n).chan n).profile.segments := by
    obtain ⟨c, ⟨marks, rfl⟩, e⟩ := (stripped_chan s n).1
    rw [e]
    exact sized
  rw [vacate_parked]
  generalize s.stripped n = v at stripped sized' ⊢
  have roomy := roomFor_heldSound stripped (v.chan n).policy.routeTag
  have chan : (v.roomFor (v.chan n).policy.routeTag).chan n = v.chan n := by
    rw [State.chan, (roomFor_calls v _).1]; rfl
  have fresh : ∀ e ∈ (v.roomFor (v.chan n).policy.routeTag).cache, e.routeTag ≠ (v.chan n).policy.routeTag :=
    fun e he => mem_roomFor _ he
  generalize v.roomFor (v.chan n).policy.routeTag = u at roomy chan fresh ⊢
  rw [← chan] at sized' fresh ⊢
  have split := holdings_vacant u n
  have one := roomy.le_one
  have entered (y : Nat) : ((u.modChan n fun _ => .vacant).addEntry (u.chan n)).holdings y
      = (u.modChan n fun _ => .vacant).holdings y + (u.chan n).live.count y := by
    simp only [State.holdings, State.addEntry, List.flatMap_append, List.count_append]
    simp only [List.flatMap_cons, List.flatMap_nil, List.append_nil, Channel.cacheEntry]
    have chans (m : ChannelNo) : ((u.modChan n fun _ => .vacant).addEntry (u.chan n)).chan m
        = (u.modChan n fun _ => .vacant).chan m := rfl
    simp only [State.addEntry, Channel.cacheEntry] at chans
    simp only [chans]
    omega
  have ring := holdings_returnSegments ((u.modChan n fun _ => .vacant).addEntry (u.chan n))
    ((u.chan n).ring.flatMap (·.segments)) fun y => by
      have := split y; have := one y; have := entered y; omega
  refine ⟨?_, fun x => ?_, fun e he => ?_⟩
  · show (List.map CacheEntry.routeTag (u.cache ++ [_])).Nodup
    rw [List.map_append, List.nodup_append]
    refine ⟨roomy.tags, List.nodup_singleton _, fun a ha b hb same => ?_⟩
    obtain ⟨e, he, rfl⟩ := List.mem_map.1 ha
    rw [List.map_singleton, List.mem_singleton] at hb
    exact fresh e he (same.trans hb)
  · have := split x; have := entered x; have := ring x; have := roomy.single x
    omega
  · have he' : e ∈ u.cache ++ [(u.chan n).cacheEntry (nextParkNumber u.parkCounter) u.timebase] := he
    rw [List.mem_append, List.mem_singleton] at he'
    obtain old | rfl := he'
    · exact roomy.entries e old
    · exact sized'

theorem vacate_heldSound {s : State} (i : s.HeldSound) (n : ChannelNo) (park : Bool)
    (sized : (s.chan n).live.length = (s.chan n).profile.segments) : (s.vacate n park).HeldSound := by
  cases park with
  | false => exact vacate_freed_heldSound i n
  | true => exact vacate_parked_heldSound i n sized

end Sys2Proof.Machine

/-! The calls stay sound (`State.CallsCore`): each record by itself, the holders of the segments, and queue, players and states
together. A channel that changes its state is taken out of queue and players first (`State.CoreBut`) and enters the new
state from there. -/

namespace Sys2Proof.Machine

/-! ### One record -/

/-- A channel record as R2, R3, R7, R8 and R51 give it. -/
structure Channel.CallSound (c : Channel) : Prop where
  live : c.live.length = c.profile.segments
  records : ∀ r ∈ c.ring, r.segments.length = c.profile.segments
  few : c.ring.length ≤ 3
  ids : (c.ring.map Snapshot.id).Nodup
  vacant : c.state = .vacant → c.live = [] ∧ c.ring = []
  lessee : c.lessee ≠ none ↔ c.state.inCall = true ∨ c.state = .releasing
  holds : c.holdCount ≤ c.policy.holdLimit

/-- The id and the segments of each record of a ring. -/
def Channel.extents (c : Channel) : List (Nat × List Nat) := c.ring.map fun r => (r.id, r.segments)

/-- `d` holds what `c` holds, but that records may have left the ring. -/
structure Channel.Sheds (c d : Channel) : Prop where
  profile : d.profile = c.profile
  live : d.live = c.live
  records : d.extents.Sublist c.extents
  holds : c.holdCount ≤ c.policy.holdLimit → d.holdCount ≤ d.policy.holdLimit

theorem Channel.Sheds.refl (c : Channel) : c.Sheds c := ⟨rfl, rfl, .refl _, id⟩

theorem Channel.Sheds.trans {c d e : Channel} (h : c.Sheds d) (h' : d.Sheds e) : c.Sheds e :=
  ⟨h'.profile.trans h.profile, h'.live.trans h.live, h'.records.trans h.records, h'.holds ∘ h.holds⟩

theorem Channel.Steady.sheds {c d : Channel} (h : c.Steady d) : c.Sheds d :=
  ⟨h.profile, h.live, by rw [Channel.extents, h.records]; exact .refl _, h.holds⟩

/-- A record that holds no more than a sound one, in a state that has a lessee where it should. -/
theorem Channel.CallSound.of_sheds {c d : Channel} (i : c.CallSound) (h : c.Sheds d)
    (vacant : d.state = .vacant → c.state = .vacant)
    (lessee : d.lessee ≠ none ↔ d.state.inCall = true ∨ d.state = .releasing) : d.CallSound where
  live := by rw [h.live, h.profile]; exact i.live
  records r hr := by
    have extent : (r.id, r.segments) ∈ c.extents := h.records.subset (List.mem_map_of_mem hr)
    obtain ⟨x, hx, same⟩ := List.mem_map.1 extent
    rw [h.profile, ← i.records x hx, (Prod.mk.inj same).2]
  few := by
    have shorter := h.records.length_le
    simp only [Channel.extents, List.length_map] at shorter
    exact shorter.trans i.few
  ids := by
    have sub := h.records.map Prod.fst
    simp only [Channel.extents, List.map_map] at sub
    exact i.ids.sublist sub
  vacant e := by
    obtain ⟨live, ring⟩ := i.vacant (vacant e)
    refine ⟨h.live.trans live, ?_⟩
    have none := h.records
    rw [Channel.extents, Channel.extents, ring, List.map_nil, List.sublist_nil, List.map_eq_nil_iff] at none
    exact none
  lessee := lessee
  holds := h.holds i.holds

/-- The same, state and lessee unchanged. -/
theorem Channel.CallSound.shed {c d : Channel} (i : c.CallSound) (h : c.Sheds d) (state : d.state = c.state)
    (lessee : d.lessee = c.lessee) : d.CallSound :=
  i.of_sheds h (fun e => state ▸ e) (by rw [state, lessee]; exact i.lessee)

theorem vacant_callSound : Channel.vacant.CallSound :=
  ⟨rfl, fun _ h => (nomatch h), Nat.zero_le _, List.nodup_nil, fun _ => ⟨rfl, rfl⟩,
    iff_of_false (not_not.2 rfl) (by rintro (h | h) <;> cases h), Nat.zero_le _⟩

/-- `t` holds at every channel what `s` holds, but that records may have left the rings. -/
def State.Sheds (s t : State) : Prop :=
  ∀ n, (s.chan n).Sheds (t.chan n) ∧ (t.chan n).state = (s.chan n).state ∧ (t.chan n).lessee = (s.chan n).lessee

theorem State.Sheds.refl (s : State) : s.Sheds s := fun _ => ⟨.refl _, rfl, rfl⟩

theorem State.Sheds.trans {s t u : State} (h : s.Sheds t) (h' : t.Sheds u) : s.Sheds u := fun n =>
  ⟨(h n).1.trans (h' n).1, (h' n).2.1.trans (h n).2.1, (h' n).2.2.trans (h n).2.2⟩

theorem State.Steady.sheds {s t : State} (h : s.Steady t) : s.Sheds t := fun n =>
  ⟨(h.chan n).sheds, (h.chan n).state, (h.chan n).lessee⟩

theorem State.Sheds.of_channels {s t : State} (h : t.channels = s.channels) : s.Sheds t := fun n => by
  have same : t.chan n = s.chan n := by rw [State.chan, h]; rfl
  rw [same]
  exact ⟨.refl _, rfl, rfl⟩

theorem sheds_foldl {α : Type} {f : State → α → State} (h : ∀ (s : State) (a : α), s.Sheds (f s a)) (items : List α)
    (s : State) : s.Sheds (items.foldl f s) := by
  induction items generalizing s with
  | nil => exact .refl s
  | cons a rest ih => exact (h s a).trans (ih (f s a))

theorem modChan_sheds (s : State) (n : ChannelNo) (f : Channel → Channel) (h : (s.chan n).Sheds (f (s.chan n)))
    (state : (f (s.chan n)).state = (s.chan n).state) (lessee : (f (s.chan n)).lessee = (s.chan n).lessee) :
    s.Sheds (s.modChan n f) := by
  intro m
  rw [chan_modChan]
  split
  · next own => subst own; exact ⟨h, state, lessee⟩
  · exact ⟨.refl _, rfl, rfl⟩

theorem Channel.dropSnapshot_sheds (c : Channel) (id : Nat) : c.Sheds (c.dropSnapshot id) :=
  ⟨rfl, rfl, List.filter_sublist.map _, fun h => h⟩

theorem removeSnapshot_sheds (s : State) (n : ChannelNo) (id : Nat) : s.Sheds (s.removeSnapshot n id) :=
  (modChan_sheds s n (fun c => c.dropSnapshot id) (Channel.dropSnapshot_sheds _ id) rfl rfl).trans (.of_channels rfl)

theorem giveUp_sheds (s : State) (w : Work) : s.Sheds (s.giveUp w) := by
  unfold State.giveUp
  split
  · exact removeSnapshot_sheds s _ _
  all_goals exact (unpin_steady s _).sheds

theorem endEarly_sheds (how : OrderEnd) (s : State) (o : Order) : s.Sheds (State.endEarly how s o) :=
  ((giveUp_sheds s o.work).trans (dropRollback_steady _ o).sheds).trans (notify_steady _ _ _).sheds

theorem abortOrders_sheds (s : State) (which : Order → Bool) : s.Sheds (s.abortOrders which) :=
  ((setMover_steady s _).sheds.trans (sheds_foldl (endEarly_sheds .aborted) _ _)).trans (markHead_steady _).sheds

theorem freePlayer_sheds (s : State) (n : ChannelNo) : s.Sheds (s.freePlayer n) := by
  intro m
  rw [freePlayer_chan]
  split
  · exact ⟨⟨rfl, rfl, .refl _, id⟩, rfl, rfl⟩
  · exact ⟨.refl _, rfl, rfl⟩

/-! ### All calls -/

/-- The calls are sound: each record, the holders of the segments, queue and players. -/
structure State.CallsCore (s : State) : Prop where
  held : s.HeldSound
  calls : ∀ n, (s.chan n).CallSound
  probe : s.ProbeSound

/-- The calls are sound but for channel `n`, which is in no queue and has no player. -/
structure State.CoreBut (s : State) (n : ChannelNo) : Prop where
  held : s.HeldSound
  calls : ∀ m, m ≠ n → (s.chan m).CallSound
  probe : s.ProbeSoundBut n

theorem State.CallsCore.shed {s t : State} (i : s.CallsCore) (held : s.SameHeld t) (sheds : s.Sheds t)
    (probe : s.SameProbe t) : t.CallsCore :=
  ⟨i.held.of_same held, fun n => (i.calls n).shed (sheds n).1 (sheds n).2.1 (sheds n).2.2, i.probe.of_same probe⟩

theorem State.CallsCore.steady {s t : State} (i : s.CallsCore) (h : s.Steady t) : t.CallsCore :=
  i.shed h.sameHeld h.sheds h.sameProbe

theorem State.CoreBut.shed {s t : State} {n : ChannelNo} (i : s.CoreBut n) (held : s.SameHeld t) (sheds : s.Sheds t)
    (probe : s.SameProbe t) : t.CoreBut n :=
  ⟨i.held.of_same held, fun m other => (i.calls m other).shed (sheds m).1 (sheds m).2.1 (sheds m).2.2,
    i.probe.of_same probe⟩

theorem State.CoreBut.steady {s t : State} {n : ChannelNo} (i : s.CoreBut n) (h : s.Steady t) : t.CoreBut n :=
  i.shed h.sameHeld h.sheds h.sameProbe

theorem State.CallsCore.but {s : State} {n : ChannelNo} (i : s.CallsCore)
    (notQueued : (s.chan n).state ≠ .training .queued) (notProbing : (s.chan n).state ≠ .training .probing) : s.CoreBut n :=
  ⟨i.held, fun m _ => i.calls m, i.probe.but notQueued notProbing⟩

theorem leave_coreBut {s : State} (i : s.CallsCore) (n : ChannelNo) : ((s.freePlayer n).leaveQueue n).CoreBut n where
  held := i.held.of_same ((freePlayer_sameHeld s n).trans (leaveQueue_sameHeld _ n))
  calls m _ := (i.calls m).shed (freePlayer_sheds s n m).1 (freePlayer_sheds s n m).2.1 (freePlayer_sheds s n m).2.2
  probe := leave_but i.probe n

/-- The channel outside takes a state other than QUEUED and PROBING. -/
theorem State.CoreBut.enter {s : State} {n : ChannelNo} (i : s.CoreBut n) (f : Channel → Channel)
    (sound : (f (s.chan n)).CallSound) (segments : (f (s.chan n)).segments = (s.chan n).segments)
    (notQueued : (f (s.chan n)).state ≠ .training .queued) (notProbing : (f (s.chan n)).state ≠ .training .probing)
    (player : (f (s.chan n)).player = none) : (s.modChan n f).CallsCore where
  held := i.held.of_same (modChan_sameHeld s n f segments)
  calls m := by
    rw [chan_modChan]
    split
    · next own => subst own; exact sound
    · next other => exact i.calls m (Ne.symm other)
  probe := i.probe.enter f notQueued notProbing player

/-- The channel outside is changed and stays outside. -/
theorem State.ProbeSoundBut.modChan {s : State} {n : ChannelNo} (i : s.ProbeSoundBut n) (f : Channel → Channel)
    (player : (f (s.chan n)).player = none) : (s.modChan n f).ProbeSoundBut n := by
  have keep (m : ChannelNo) (other : m ≠ n) : (s.modChan n f).chan m = s.chan m := chan_modChan_of_ne s f (Ne.symm other)
  refine ⟨i.nodup, i.out, fun m other => ?_, ?_, fun m other => ?_, ?_, fun k play e => ?_⟩
  · rw [keep m other]; exact i.queued m other
  · rw [chan_modChan_self]; exact player
  · rw [keep m other]; exact i.probing m other
  · exact i.named.of_same (modChan_samePlayers s n f (by rw [player]; exact fun _ e => nomatch e))
  · have names := i.plays k play e
    have other : play.channel ≠ n := fun own => by rw [own, i.free] at names; cases names
    rw [keep _ other]
    exact names

/-- The same of all calls, where the holders are kept. -/
theorem State.CoreBut.modChan_held {s : State} {n : ChannelNo} (i : s.CoreBut n) (f : Channel → Channel)
    (held : (s.modChan n f).HeldSound) (player : (f (s.chan n)).player = none) : (s.modChan n f).CoreBut n :=
  ⟨held, fun m other => by rw [chan_modChan_of_ne s f (Ne.symm other)]; exact i.calls m other, i.probe.modChan f player⟩

theorem State.CoreBut.modChan {s : State} {n : ChannelNo} (i : s.CoreBut n) (f : Channel → Channel)
    (segments : (f (s.chan n)).segments = (s.chan n).segments) (player : (f (s.chan n)).player = none) :
    (s.modChan n f).CoreBut n :=
  i.modChan_held f (i.held.of_same (modChan_sameHeld s n f segments)) player

/-- The channel outside joins the probe queue (R9). -/
theorem State.CoreBut.enterQueued {s : State} {n : ChannelNo} (i : s.CoreBut n) (live : (s.chan n).live.length = (s.chan n).profile.segments)
    (records : ∀ r ∈ (s.chan n).ring, r.segments.length = (s.chan n).profile.segments) (few : (s.chan n).ring.length ≤ 3)
    (ids : ((s.chan n).ring.map Snapshot.id).Nodup) (lessee : (s.chan n).lessee ≠ none)
    (holds : (s.chan n).holdCount ≤ (s.chan n).policy.holdLimit) : (s.enterQueued n).CallsCore where
  held := i.held.of_same (enterQueued_sameHeld s n)
  calls m := by
    unfold State.enterQueued
    rw [chan_modChan]
    split
    · next own =>
      subst own
      exact ⟨live, records, few, ids, nofun, iff_of_true lessee (.inl rfl), holds⟩
    · next other => exact i.calls m (Ne.symm other)
  probe := i.probe.enterQueued

theorem State.CoreBut.requeue {s : State} {n : ChannelNo} (i : s.CoreBut n) (sound : (s.chan n).CallSound)
    (lessee : (s.chan n).lessee ≠ none) : (s.enterQueued n).CallsCore :=
  i.enterQueued sound.live sound.records sound.few sound.ids lessee sound.holds

/-! ### Grants -/

theorem grantOne_core {s : State} (i : s.CallsCore) : s.grantOne.CallsCore := by
  refine ⟨i.held.of_same (grantOne_sameHeld s), fun m => ?_, grantOne_probeSound i.probe⟩
  obtain ⟨-, same⟩ | ⟨n, rest, k, queue, -, grant⟩ := grantOne_cases s
  · rw [same]; exact i.calls m
  · have queued : (s.chan n).state = .training .queued :=
      (i.probe.queued n).1 (by rw [queue]; exact List.mem_cons_self)
    rw [grant, chan_modChan]
    split
    · next own =>
      subst own
      refine (i.calls n).of_sheds ⟨rfl, rfl, .refl _, id⟩ nofun (iff_of_true ?_ (.inl rfl))
      exact (i.calls n).lessee.2 (.inl (by rw [queued]; rfl))
    · exact i.calls m

theorem closeEvent_core (s₀ : State) {s : State} (i : s.CallsCore) : (s₀.closeEvent s).CallsCore := by
  have granted : s.grants.CallsCore := grantOne_core (grantOne_core (grantOne_core (grantOne_core i)))
  unfold State.closeEvent
  dsimp only
  split
  · exact granted
  · exact granted.steady (comparePool_steady _)

/-! ### Orders, entries, VACANT -/

theorem removeSnapshot_core {s : State} (i : s.CallsCore) (n : ChannelNo) (id : Nat) : (s.removeSnapshot n id).CallsCore :=
  i.shed (removeSnapshot_sameHeld s n id) (removeSnapshot_sheds s n id) (removeSnapshot_keeps s n id).sameProbe

theorem endEarly_core (how : OrderEnd) {s : State} (i : s.CallsCore) (o : Order) : (State.endEarly how s o).CallsCore :=
  i.shed (endEarly_sameHeld how s o) (endEarly_sheds how s o) (endEarly_keeps how s o).sameProbe

theorem abortOrders_core {s : State} (i : s.CallsCore) (which : Order → Bool) : (s.abortOrders which).CallsCore :=
  i.shed (abortOrders_sameHeld s which) (abortOrders_sheds s which) (abortOrders_keeps s which).sameProbe

/-- An update that leaves channels, players and queue alone keeps the calls, where it keeps the holders. -/
theorem State.CallsCore.of_calls {s t : State} (i : s.CallsCore) (held : t.HeldSound) (channels : t.channels = s.channels)
    (players : t.players = s.players) (queue : t.probeQueue = s.probeQueue) : t.CallsCore :=
  ⟨held, fun n => by rw [State.chan, channels]; exact i.calls n, i.probe.of_same (.of_calls channels players queue)⟩

theorem evict_core (reason : EvictReason) {s : State} (i : s.CallsCore) {e : CacheEntry} (h : e ∈ s.cache) :
    (s.evict reason e).CallsCore :=
  i.of_calls (evict_heldSound reason i.held h) (evict_calls reason s e).1 (evict_calls reason s e).2.1
    (evict_calls reason s e).2.2.1

theorem evictAll_calls (reason : EvictReason) (gone : List CacheEntry) (s : State) :
    (gone.foldl (State.evict reason) s).channels = s.channels ∧ (gone.foldl (State.evict reason) s).players = s.players
      ∧ (gone.foldl (State.evict reason) s).probeQueue = s.probeQueue := by
  induction gone generalizing s with
  | nil => exact ⟨rfl, rfl, rfl⟩
  | cons e rest ih =>
    obtain ⟨channels, players, queue, -, -⟩ := evict_calls reason s e
    obtain ⟨channels', players', queue'⟩ := ih (s.evict reason e)
    rw [List.foldl_cons]
    exact ⟨channels'.trans channels, players'.trans players, queue'.trans queue⟩

theorem removeAged_core {s : State} (i : s.CallsCore) : s.removeAged.CallsCore := by
  have held := removeAged_heldSound i.held
  obtain ⟨channels, players, queue⟩ := evictAll_calls .aged (s.cache.filter s.aged) s
  rw [← removeAged_eq] at channels players queue
  exact i.of_calls held channels players queue

theorem vacate_chan (s : State) (n : ChannelNo) (park : Bool) (m : ChannelNo) :
    (s.vacate n park).chan m = if n = m then .vacant else (s.stripped n).chan m := by
  rw [vacate_eq, chan_modChan]
  split
  · rfl
  · generalize s.stripped n = u
    rw [returnSegments_chan]
    split
    · show ((u.roomFor (u.chan n).policy.routeTag).addEntry (u.chan n)).chan m = u.chan m
      show (u.roomFor (u.chan n).policy.routeTag).chan m = u.chan m
      rw [State.chan, (roomFor_calls u _).1]
      rfl
    · exact returnSegments_chan u _ m

theorem stripped_sheds (s : State) (n : ChannelNo) : s.Sheds (s.stripped n) := by
  unfold State.stripped
  have left : (s.abortOrders fun o => o.work.touches n).Sheds ((s.abortOrders fun o => o.work.touches n).leaveQueue n) :=
    .of_channels rfl
  exact ((abortOrders_sheds s _).trans left).trans (freePlayer_sheds _ n)

theorem vacate_core {s : State} (i : s.CallsCore) (n : ChannelNo) (park : Bool) : (s.vacate n park).CallsCore := by
  refine ⟨vacate_heldSound i.held n park (i.calls n).live, fun m => ?_, ?_⟩
  · rw [vacate_chan]
    split
    · exact vacant_callSound
    · exact (i.calls m).shed (stripped_sheds s n m).1 (stripped_sheds s n m).2.1 (stripped_sheds s n m).2.2
  · have aborted := i.probe.of_same (abortOrders_keeps s fun o => o.work.touches n).sameProbe
    have out : (s.stripped n).ProbeSoundBut n := by
      unfold State.stripped
      exact leave_but' aborted n
    rw [vacate_eq]
    generalize s.stripped n = u at out ⊢
    refine State.ProbeSoundBut.enter ?_ _ nofun nofun rfl
    refine State.ProbeSoundBut.of_same ?_ (returnSegments_sameProbe _ _)
    split
    · exact out.of_same (park_sameProbe u n)
    · exact out.of_same (returnSegments_sameProbe u _)

theorem orphan_core {s : State} (i : s.CallsCore) (p : Port) (n : ChannelNo)
    (below : (s.chan n).holdCount ≠ (s.chan n).policy.holdLimit) : (s.orphan p n).CallsCore := by
  have aborted := abortOrders_core i fun o => o.work.touches n
  have out := leave_coreBut aborted n
  have counted : (((s.abortOrders fun o => o.work.touches n).freePlayer n).leaveQueue n).chan n
      = { (s.chan n).afterAborts (s.mover.filter fun o => o.work.touches n) n with
          marks := ((s.abortOrders fun o => o.work.touches n).chan n).marks, player := none } := by
    obtain ⟨marks, e⟩ := abortOrders_chan s (fun o => o.work.touches n) n
    show ((s.abortOrders fun o => o.work.touches n).freePlayer n).chan n = _
    rw [freePlayer_chan, if_pos rfl, e]
  have sound := (aborted.calls n).shed (freePlayer_sheds _ n n).1 (freePlayer_sheds _ n n).2.1 (freePlayer_sheds _ n n).2.2
  have player := out.probe.free
  rw [orphan_eq]
  refine State.CallsCore.steady ?_ (broadcast_steady _ _)
  refine out.enter Channel.orphaned ?_ rfl nofun nofun player
  refine sound.of_sheds ⟨rfl, rfl, .refl _, fun _ => ?_⟩ nofun (iff_of_false (not_not.2 rfl) (by rintro (h | h) <;> cases h))
  have bound := (i.calls n).holds
  rw [counted]
  show (s.chan n).holdCount + 1 ≤ (s.chan n).policy.holdLimit
  omega

end Sys2Proof.Machine

/-! Every event keeps the calls sound (`callsCore_kept`): what a command does, what the epoch end judges, what is freed when a
call ends. -/

namespace Sys2Proof.Machine

/-! ### Moves of one channel between the states of a call -/

section

variable {s : State} (i : s.CallsCore)
include i

/-- A call neither QUEUED nor PROBING goes to another state of a call, with what it holds. -/
theorem State.CallsCore.move {n : ChannelNo} (notQueued : (s.chan n).state ≠ .training .queued)
    (notProbing : (s.chan n).state ≠ .training .probing) (inCall : (s.chan n).state.inCall = true) (st : CallState)
    (inCall' : st.inCall = true) (notQueued' : st ≠ .training .queued) (notProbing' : st ≠ .training .probing) :
    (s.modChan n fun c => c.enter st).CallsCore := by
  have out := i.but notQueued notProbing
  refine out.enter _ ?_ rfl notQueued' notProbing' out.probe.free
  refine (i.calls n).of_sheds ⟨rfl, rfl, .refl _, id⟩ (fun vacant => ?_) (iff_of_true ?_ (.inl inCall'))
  · change st = .vacant at vacant
    rw [vacant] at inCall'
    cases inCall'
  · exact (i.calls n).lessee.2 (.inl inCall)

/-- A call in TRACKING goes back to the probe queue. -/
theorem State.CallsCore.requeue {n : ChannelNo} (tracking : (s.chan n).state = .tracking) : (s.enterQueued n).CallsCore :=
  (i.but (by rw [tracking]; nofun) (by rw [tracking]; nofun)).requeue (i.calls n)
    ((i.calls n).lessee.2 (.inl (by rw [tracking]; rfl)))

theorem converge_core {n : ChannelNo} {ph : Phase} (state : (s.chan n).state = .training ph) (notQueued : ph ≠ .queued)
    (notProbing : ph ≠ .probing) : (s.converge n).CallsCore := by
  refine State.CallsCore.steady ?_ (notifyLessee_steady _ _ _)
  refine i.move ?_ ?_ (by rw [state]; rfl) .tracking rfl nofun nofun
  · rw [state]; exact fun e => notQueued (CallState.training.inj e)
  · rw [state]; exact fun e => notProbing (CallState.training.inj e)

theorem stall_core {n : ChannelNo} (state : (s.chan n).state = .training .settling) : (s.stall n).CallsCore := by
  refine State.CallsCore.steady ?_ (notifyLessee_steady _ _ _)
  exact i.move (by rw [state]; nofun) (by rw [state]; nofun) (by rw [state]; rfl) (.training .stalled) rfl nofun nofun

theorem retrainDiverged_core {n : ChannelNo} (tracking : (s.chan n).state = .tracking) : (s.retrainDiverged n).CallsCore :=
  (i.requeue tracking).steady (notifyLessee_steady _ _ _)

theorem judgeProving_core {n : ChannelNo} (tracking : (s.chan n).state = .tracking) : (s.judgeProving n).CallsCore := by
  unfold State.judgeProving
  dsimp only
  split
  · have passed : s.Steady (s.modChan n fun c => { c with proving := none }) :=
      modChan_steady s n _ ⟨rfl, rfl, rfl, rfl, rfl, rfl, id⟩
    exact i.steady (passed.trans (notifyLessee_steady _ _ _))
  · split
    · exact (i.requeue tracking).steady (notifyLessee_steady _ _ _)
    · exact i

theorem diverge_core {n : ChannelNo} (tracking : (s.chan n).state = .tracking) : (s.diverge n).CallsCore := by
  have retrained := retrainDiverged_core i tracking
  unfold State.diverge
  dsimp only
  split
  · refine State.CallsCore.steady ?_ (notifyLessee_steady _ _ _)
    exact i.steady (modChan_steady s n _ ⟨rfl, rfl, rfl, rfl, rfl, rfl, id⟩)
  · exact retrained
  · split
    · exact retrained
    · split
      · split
        · refine State.CallsCore.steady ?_ (notifyLessee_steady _ _ _)
          refine State.CallsCore.steady ?_ (enqueue_steady _ _)
          exact i.steady (modChan_steady s n _ ⟨rfl, rfl, rfl, rfl, rfl, rfl, id⟩)
        · exact retrained
      · exact retrained

theorem judgeChannel_core (n : ChannelNo) : (s.judgeChannel n).CallsCore := by
  unfold State.judgeChannel
  dsimp only
  split
  · next state =>
    split
    · exact converge_core i state nofun nofun
    · split
      · exact stall_core i state
      · exact i
  · next state =>
    split
    · exact converge_core i state nofun nofun
    · exact i
  · next state =>
    split
    · exact judgeProving_core i state
    · split
      · exact diverge_core i state
      · exact i
  all_goals exact i

theorem runWork_core (s₀ : State) (w : EpochWork) : (s₀.runWork s w).CallsCore := by
  cases w with
  | engine n =>
    rcases engineWork_cases s₀ s n with steady | judged
    · exact i.steady steady
    · rw [State.runWork, judged]
      exact judgeChannel_core (i.steady (engineUpdate_steady s₀ s n)) n
  | level n => exact i.steady (levelWork_steady s₀ s n)
  | players => exact i.steady (playersWork_steady s)
  | mover =>
    rw [State.runWork, State.moverWork]
    split
    · exact i
    · exact i.steady (advanceHead_steady s)

theorem epochEnd_core : s.epochEnd.CallsCore := by
  rw [epochEnd_eq, epochEndIn_eq]
  refine closeEvent_core _ ?_
  refine State.CallsCore.steady ?_ (markHead_steady _)
  have begun : (s.modHighway Highway.nextEpoch).CallsCore := i.steady (modHighway_steady s _)
  have spent : (s.spendFree.modHighway Highway.nextEpoch).CallsCore := begun.steady (.of_same rfl rfl rfl rfl rfl)
  have worked : (s.spendFree.worked s.workOrder).CallsCore :=
    foldl_keeps (I := State.CallsCore) (fun w j => runWork_core j s.spendFree w) s.workOrder spent
  exact worked.steady (modAllChannels_steady _ _ (by exact fun _ => ⟨rfl, rfl, rfl, rfl, rfl, rfl, id⟩))

/-! ### The end of a play -/

theorem endOfPlay_core (k : PlayerNo) : (s.endOfPlay k).CallsCore := by
  obtain same | ⟨play, holds, -, ends⟩ := endOfPlay_cases s k
  · rwa [same]
  · have found := i.steady (findOf_steady s play)
    have names : ((s.findOf play).chan play.channel).player = some k :=
      ((findOf_steady s play).sameProbe.player _).trans (i.probe.plays k play holds)
    rw [ends]
    generalize s.findOf play = u at found names ⊢
    have probing := (found.probe.probing play.channel).1 (by rw [names]; nofun)
    have settled : ((u.setPlay k none).modChan play.channel Channel.settle).CallsCore := by
      refine ⟨found.held.of_same ?_, fun m => ?_, settle_probeSound found.probe names⟩
      · have played : u.SameHeld (u.setPlay k none) := .of_same (fun _ => rfl) rfl rfl
        exact played.trans (modChan_sameHeld _ _ _ rfl)
      · rw [chan_modChan, chan_setPlay]
        split
        · next own =>
          subst own
          refine (found.calls play.channel).of_sheds ⟨rfl, rfl, .refl _, id⟩ nofun (iff_of_true ?_ (.inl rfl))
          exact (found.calls play.channel).lessee.2 (.inl (by rw [probing]; rfl))
        · exact found.calls m
    exact grantOne_core (grantOne_core (grantOne_core (grantOne_core settled)))

/-! ### Calls that end -/

theorem loseCall_core (p : Port) (counts : LossCounts) (n : ChannelNo) : (State.loseCall p (s, counts) n).1.CallsCore := by
  have dropped := vacate_core i n false
  rw [loseCall_eq]
  split
  · dsimp only
    exact dropped.steady (broadcast_steady _ _)
  · next below =>
    dsimp only
    exact orphan_core i p n below

omit i in
theorem loseCalls_core (p : Port) (calls : List ChannelNo) {r : State × LossCounts} (j : r.1.CallsCore) :
    (calls.foldl (State.loseCall p) r).1.CallsCore := by
  induction calls generalizing r with
  | nil => exact j
  | cons n rest ih => exact ih (loseCall_core j p r.2 n)

theorem lossBegun_core (p : Port) : (s.lossBegun p).CallsCore := abortOrders_core (i.steady (modPort_steady s p _)) _

theorem lossReleased_core (p : Port) : (s.lossReleased p).CallsCore := by
  have spent : (s.lossBegun p).spendFree.CallsCore := (lossBegun_core i p).steady (.of_same rfl rfl rfl rfl rfl)
  unfold State.lossReleased
  exact foldl_keeps (I := State.CallsCore) (fun n j => vacate_core j n _) _ spent

theorem losePort_core (p : Port) (reason : LossReason) : (s.losePort p reason).1.CallsCore := by
  have called : (s.lossCalled p).1.CallsCore := by
    unfold State.lossCalled
    exact loseCalls_core p _ (lossReleased_core i p)
  rw [losePort_eq]
  dsimp only
  generalize s.lossCalled p = r at called ⊢
  refine closeEvent_core s ?_
  rw [State.lossToldAt]
  refine State.CallsCore.steady ?_ (broadcast_steady _ _)
  refine State.CallsCore.steady ?_ (modPort_steady _ p _)
  unfold State.dropClaim
  split
  · exact called.steady (.of_same rfl rfl rfl rfl rfl)
  · exact called

theorem dropExpired_core (n : ChannelNo) (reason : DropReason) (was : Int) : (s.dropExpired n reason was).CallsCore :=
  (closeEvent_core s (vacate_core i n false)).steady (broadcast_steady _ _)

theorem expireDrain_core (n : ChannelNo) : (s.expireDrain n).CallsCore := by
  unfold State.expireDrain
  split
  · exact (closeEvent_core s (vacate_core i n _)).steady (notifyLessee_steady _ _ _)
  · exact i

theorem strand_core {n : ChannelNo} (state : (s.chan n).state = .orphaned) : (s.modChan n Channel.strand).CallsCore := by
  have out := i.but (n := n) (by rw [state]; nofun) (by rw [state]; nofun)
  refine out.enter Channel.strand ?_ rfl nofun nofun out.probe.free
  refine (i.calls n).of_sheds ⟨rfl, rfl, .refl _, id⟩ nofun (iff_of_false ?_ (by rintro (h | h) <;> cases h))
  intro lessee
  have lessee' := (i.calls n).lessee.1 lessee
  rw [state] at lessee'
  rcases lessee' with h | h <;> cases h

theorem expireHold_core (n : ChannelNo) : (s.expireHold n).CallsCore := by
  unfold State.expireHold
  split
  · next due =>
    dsimp only
    split
    · exact dropExpired_core i n _ _
    · have state : (s.chan n).state = .orphaned := by
        simp only [State.holdDue, Bool.and_eq_true, beq_iff_eq] at due
        exact due.1
      exact (strand_core i state).steady (broadcast_steady _ _)
  · exact i

theorem expireStrand_core (n : ChannelNo) : (s.expireStrand n).CallsCore := by
  unfold State.expireStrand
  split
  · exact dropExpired_core i n _ _
  · exact i

end

end Sys2Proof.Machine

/-! The commands keep the calls sound: ATTACH, RELEASE, RETRAIN, ADOPT and SNAPSHOT move a channel or segments, the others
change nothing of the calls. -/

namespace Sys2Proof.Machine

/-! ### ATTACH -/

theorem segments_of_vacant {c : Channel} (i : c.CallSound) (vacant : c.state = .vacant) : c.segments = [] := by
  obtain ⟨live, ring⟩ := i.vacant vacant
  rw [Channel.segments, live, ring]
  rfl

/-- A VACANT channel stands outside queue and players. -/
theorem State.CallsCore.vacant_but {s : State} (i : s.CallsCore) {n : ChannelNo} (vacant : (s.chan n).state = .vacant) :
    s.CoreBut n := i.but (by rw [vacant]; nofun) (by rw [vacant]; nofun)

theorem cache_of_resumable {s : State} {profile : Profile} {policy : Policy} {e : CacheEntry}
    (h : s.resumable profile policy = some e) :
    e ∈ s.cache ∧ e.near = profile.near ∧ e.far = profile.far ∧ e.eq = profile.eq := by
  unfold State.resumable at h
  split at h
  · cases h
  · obtain ⟨found, fits⟩ := Option.filter_eq_some_iff.1 h
    simp only [CacheEntry.fits, Bool.and_eq_true, beq_iff_eq] at fits
    obtain ⟨⟨near, far⟩, eq⟩ := fits
    exact ⟨List.mem_of_find?_eq_some found, near, far, eq⟩

theorem resume_core {s : State} (i : s.CallsCore) (p : Port) {n : ChannelNo} {profile : Profile} {policy : Policy}
    {e : CacheEntry} (vacant : (s.chan n).state = .vacant) (entry : s.resumable profile policy = some e) :
    (s.resume p n profile policy e).CallsCore := by
  obtain ⟨held, near, far, eq⟩ := cache_of_resumable entry
  have empty := segments_of_vacant (i.calls n) vacant
  have sized : e.segments.length = profile.segments := by
    rw [i.held.entries e held, near, far, eq, Profile.segments]
  unfold State.resume
  refine ⟨⟨?_, fun x => ?_, ?_⟩, fun m => ?_, ?_⟩
  · exact i.held.tags.sublist (List.filter_sublist.map _)
  · have moved := holdings_modChan (s.setCache (s.cache.filter fun x => x.routeTag ≠ e.routeTag)) n
      (fun _ => { Channel.attached p profile policy with
        state := .tracking, origin := some .resumed, proving := some 50, live := e.segments, window := e.window }) x
    have apart := count_cache i.held.tags held x
    have none : ((s.setCache (s.cache.filter fun x => x.routeTag ≠ e.routeTag)).chan n).segments = [] := empty
    have taken : Channel.segments { Channel.attached p profile policy with
        state := .tracking, origin := some .resumed, proving := some 50, live := e.segments, window := e.window }
        = e.segments := List.append_nil _
    have left : (s.setCache (s.cache.filter fun x => x.routeTag ≠ e.routeTag)).holdings x + e.segments.count x
        = s.holdings x := by
      simp only [State.holdings, setCache_pool, setCache_cache, State.chan, setCache_channels]
      omega
    rw [none, taken, List.count_nil] at moved
    have single := i.held.single x
    omega
  · exact fun y hy => i.held.entries y (List.mem_of_mem_filter hy)
  · rw [chan_modChan]
    split
    · refine ⟨sized, fun _ h => (nomatch h), Nat.zero_le _, List.nodup_nil, nofun, iff_of_true nofun (.inl rfl), Nat.zero_le _⟩
    · exact i.calls m
  · refine State.ProbeSoundBut.enter (n := n) ?_ _ nofun nofun rfl
    exact (i.vacant_but vacant).probe.of_same (.of_calls rfl rfl rfl)

theorem newCall_chan (u : State) (p : Port) (n : ChannelNo) (profile : Profile) (policy : Policy) :
    (u.newCall p n profile policy).chan n = Channel.fresh p profile policy u.pool.free := by
  show (((u.setFree (u.pool.free.drop profile.segments)).modChan n fun _ =>
    Channel.fresh p profile policy u.pool.free)).chan n = _
  rw [chan_modChan_self]

theorem newCall_coreBut {u : State} {n : ChannelNo} (i : u.CoreBut n) (empty : (u.chan n).segments = []) (p : Port)
    (profile : Profile) (policy : Policy) : (u.newCall p n profile policy).CoreBut n := by
  unfold State.newCall
  refine State.CoreBut.steady ?_ (writeInitialTaps_steady _ n)
  have moved := holdings_modChan (u.setFree (u.pool.free.drop profile.segments)) n
    (fun _ => Channel.fresh p profile policy u.pool.free)
  have none : ((u.setFree (u.pool.free.drop profile.segments)).chan n).segments = [] := empty
  have taken : (Channel.fresh p profile policy u.pool.free).segments = u.pool.free.take profile.segments := List.append_nil _
  refine ⟨⟨i.held.tags, fun x => ?_, i.held.entries⟩, fun m other => ?_, ?_⟩
  · have parts : u.pool.free.count x
        = (u.pool.free.take profile.segments).count x + (u.pool.free.drop profile.segments).count x := by
      rw [← List.count_append, List.take_append_drop]
    have left : (u.setFree (u.pool.free.drop profile.segments)).holdings x + (u.pool.free.take profile.segments).count x
        = u.holdings x := by
      simp only [State.holdings, State.setFree, State.chan]
      omega
    have moved := moved x
    rw [none, taken, List.count_nil] at moved
    have single := i.held.single x
    omega
  · rw [chan_modChan_of_ne _ _ (Ne.symm other)]
    exact i.calls m other
  · refine State.ProbeSoundBut.modChan ?_ _ (by exact rfl)
    exact i.probe.of_same (.of_calls rfl rfl rfl)

theorem attachFresh_core {s : State} (i : s.CallsCore) (p : Port) {n : ChannelNo} {profile : Profile} (policy : Policy)
    (vacant : (s.chan n).state = .vacant) (room : profile.segments ≤ s.pool.free.length + s.cacheSegments) :
    (s.attachFresh p n profile policy).CallsCore := by
  have enough := evictFor_enough i.held policy.routeTag room
  have held := evictFor_heldSound i.held profile.segments policy.routeTag
  have probe := evictFor_sameProbe s profile.segments policy.routeTag
  have same (m : ChannelNo) : (s.evictFor profile.segments policy.routeTag).chan m = s.chan m := by
    rw [State.chan, evictFor_channels]
    rfl
  rw [attachFresh_eq]
  generalize s.evictFor profile.segments policy.routeTag = u at enough held probe same ⊢
  have out : u.CoreBut n :=
    ⟨held, fun m _ => by rw [same]; exact i.calls m, (i.vacant_but vacant).probe.of_same probe⟩
  have empty : (u.chan n).segments = [] := by rw [same]; exact segments_of_vacant (i.calls n) vacant
  have called := newCall_coreBut out empty p profile policy
  have record := newCall_chan u p n profile policy
  refine called.enterQueued ?_ ?_ ?_ ?_ ?_ ?_ <;> rw [record]
  · show (u.pool.free.take profile.segments).length = profile.segments
    rw [List.length_take, Nat.min_eq_left enough]
  · exact fun _ h => (nomatch h)
  · exact Nat.zero_le _
  · exact List.nodup_nil
  · exact nofun
  · exact Nat.zero_le _

/-! ### RELEASE, RETRAIN and ADOPT -/

/-- Player and queue taken from a channel leave the rest of its record. -/
theorem leave_chan (s : State) (n : ChannelNo) :
    ((s.freePlayer n).leaveQueue n).chan n = { s.chan n with player := none } := by
  show (s.freePlayer n).chan n = _
  rw [freePlayer_chan, if_pos rfl]

theorem leave_callSound {s : State} (i : s.CallsCore) (n : ChannelNo) :
    (((s.freePlayer n).leaveQueue n).chan n).CallSound := by
  rw [leave_chan]
  exact (i.calls n).shed ⟨rfl, rfl, .refl _, id⟩ rfl rfl

theorem startRelease_core {s : State} (i : s.CallsCore) {n : ChannelNo} (inCall : (s.chan n).state.inCall = true) :
    (((s.freePlayer n).leaveQueue n).modChan n Channel.startRelease).CallsCore := by
  have out := leave_coreBut i n
  have sound := leave_callSound i n
  have free := out.probe.free
  have lessee : (((s.freePlayer n).leaveQueue n).chan n).lessee ≠ none := by
    rw [leave_chan]
    exact (i.calls n).lessee.2 (.inl inCall)
  exact out.enter Channel.startRelease
    (sound.of_sheds ⟨rfl, rfl, .refl _, id⟩ nofun (iff_of_true lessee (.inr rfl))) rfl nofun nofun free

theorem retrain_core {s : State} (i : s.CallsCore) {n : ChannelNo} (inCall : (s.chan n).state.inCall = true) :
    (((s.freePlayer n).leaveQueue n).enterQueued n).CallsCore := by
  refine (leave_coreBut i n).requeue (leave_callSound i n) ?_
  rw [leave_chan]
  exact (i.calls n).lessee.2 (.inl inCall)

theorem wipe_core {s : State} (i : s.CallsCore) {n : ChannelNo} (inCall : (s.chan n).state.inCall = true) :
    (((((s.freePlayer n).leaveQueue n).writeInitialTaps n).modChan n
      fun c => { c with window := .inactive }).enterQueued n).CallsCore := by
  have steady : ((s.freePlayer n).leaveQueue n).Steady ((((s.freePlayer n).leaveQueue n).writeInitialTaps n).modChan n
      fun c => { c with window := .inactive }) :=
    (writeInitialTaps_steady _ n).trans (modChan_steady _ n _ ⟨rfl, rfl, rfl, rfl, rfl, rfl, id⟩)
  refine ((leave_coreBut i n).steady steady).requeue
    ((leave_callSound i n).shed (steady.chan n).sheds (steady.chan n).state (steady.chan n).lessee) ?_
  rw [(steady.chan n).lessee, leave_chan]
  exact (i.calls n).lessee.2 (.inl inCall)

theorem adoptInto_core {s : State} (i : s.CallsCore) (p : Port) {n : ChannelNo}
    (left : (s.chan n).state = .orphaned ∨ (s.chan n).state = .stranded) : (s.adoptInto p n).CallsCore := by
  have out : s.CoreBut n := by
    refine i.but ?_ ?_ <;> rcases left with e | e <;> rw [e] <;> nofun
  have sound := i.calls n
  have taken := out.modChan (fun c =>
    { c with lessee := some p, origin := some .adopted, prior := none, holdTimer := none, strandTimer := none })
    rfl out.probe.free
  have record : (s.modChan n fun c => { c with
      lessee := some p, origin := some .adopted, prior := none, holdTimer := none, strandTimer := none }).chan n
      = { s.chan n with
          lessee := some p, origin := some .adopted, prior := none, holdTimer := none, strandTimer := none } :=
    chan_modChan_self _ _ _
  unfold State.adoptInto
  dsimp only
  generalize (s.modChan n fun c => { c with
      lessee := some p, origin := some .adopted, prior := none, holdTimer := none, strandTimer := none }) = u at taken record ⊢
  have enters (f : Channel → Channel) (segments : (f (u.chan n)).segments = (u.chan n).segments)
      (player : (f (u.chan n)).player = (u.chan n).player) (sheds : (u.chan n).Sheds (f (u.chan n)))
      (lessee : (f (u.chan n)).lessee = (u.chan n).lessee) (inCall : (f (u.chan n)).state.inCall = true)
      (notQueued : (f (u.chan n)).state ≠ .training .queued) (notProbing : (f (u.chan n)).state ≠ .training .probing) :
      (u.modChan n f).CallsCore := by
    refine taken.enter f ?_ segments notQueued notProbing (player.trans taken.probe.free)
    have shed : (s.chan n).Sheds (f (u.chan n)) := by
      refine Channel.Sheds.trans ?_ sheds
      rw [record]
      exact ⟨rfl, rfl, .refl _, id⟩
    refine sound.of_sheds shed (fun vacant => ?_) (iff_of_true ?_ (.inl inCall))
    · rw [vacant] at inCall; cases inCall
    · rw [lessee, record]; nofun
  split
  · exact enters _ rfl rfl ⟨rfl, rfl, .refl _, id⟩ rfl rfl nofun nofun
  · exact enters _ rfl rfl ⟨rfl, rfl, .refl _, id⟩ rfl rfl nofun nofun
  · exact enters _ rfl rfl ⟨rfl, rfl, .refl _, id⟩ rfl rfl nofun nofun
  · refine taken.enterQueued ?_ ?_ ?_ ?_ ?_ ?_ <;> rw [record]
    · exact sound.live
    · exact sound.records
    · exact sound.few
    · exact sound.ids
    · exact nofun
    · exact sound.holds

/-! ### SNAPSHOT -/

/-- Four ids from any place on are different. -/
theorem nodup_idsFrom_four (next : Nat) : ((List.range 4).map fun i => (next + (i + 1) - 1) % 255 + 1).Nodup := by
  refine List.Nodup.map_on (fun a ha b hb e => ?_) List.nodup_range
  rw [List.mem_range] at ha hb
  omega

/-- A ring of fewer than four records has not all of the ids tried (R52). -/
theorem newId_fresh (c : Channel) (few : c.ring.length < 4) : ∀ r ∈ c.ring, r.id ≠ c.newId := by
  have free : ∃ id ∈ idsFrom c.nextSnapshot, (!c.ring.any fun r => r.id == id) = true := by
    by_contra none
    push Not at none
    have all : ((List.range 4).map fun i => (c.nextSnapshot + (i + 1) - 1) % 255 + 1) ⊆ c.ring.map Snapshot.id := by
      intro id hid
      obtain ⟨i, hi, rfl⟩ := List.mem_map.1 hid
      rw [List.mem_range] at hi
      have tried : (c.nextSnapshot + (i + 1) - 1) % 255 + 1 ∈ idsFrom c.nextSnapshot :=
        List.mem_map_of_mem (f := fun i => (c.nextSnapshot + i - 1) % 255 + 1) (List.mem_range.2 (by omega))
      have used := none _ tried
      simp only [ne_eq, Bool.not_eq_true', Bool.not_eq_false, List.any_eq_true, beq_iff_eq] at used
      obtain ⟨r, hr, same⟩ := used
      exact List.mem_map.2 ⟨r, hr, same⟩
    have bound := (List.subperm_of_subset (nodup_idsFrom_four c.nextSnapshot) all).length_le
    simp only [List.length_map, List.length_range] at bound
    omega
  obtain ⟨id, found⟩ := Option.isSome_iff_exists.1 (List.find?_isSome.2 free)
  have unused := List.find?_some found
  intro r hr same
  rw [Channel.newId, found, Option.getD_some] at same
  simp only [Bool.not_eq_true', List.any_eq_false, beq_iff_eq] at unused
  exact unused r hr same

/-- A record added on segments that no one holds. -/
theorem addSnapshot_core {u : State} {n : ChannelNo} {segments : List Nat} (calls : ∀ m, (u.chan m).CallSound)
    (probe : u.ProbeSound) (tags : (u.cache.map CacheEntry.routeTag).Nodup)
    (entries : ∀ e ∈ u.cache, e.segments.length = bankSegments e.near + bankSegments e.far + bankSegments e.eq)
    (single : ∀ x, u.holdings x + segments.count x = if x < 768 then 1 else 0) (few : (u.chan n).ring.length < 3)
    (lessee : (u.chan n).lessee ≠ none) (sized : segments.length = (u.chan n).profile.segments) :
    (u.modChan n fun c => c.addSnapshot segments).CallsCore := by
  have sound := calls n
  refine ⟨⟨tags, fun x => ?_, entries⟩, fun m => ?_, probe.of_same (modChan_sameProbe u n _ (by exact rfl) (by exact rfl))⟩
  · have moved := holdings_modChan u n (fun c => c.addSnapshot segments) x
    have added : ((u.chan n).addSnapshot segments).segments = (u.chan n).segments ++ segments := by
      simp [Channel.addSnapshot, Channel.segments]
    rw [added, List.count_append] at moved
    have single := single x
    omega
  · rw [chan_modChan]
    split
    · next own =>
      subst own
      refine ⟨sound.live, fun r hr => ?_, ?_, ?_, fun vacant => ?_, sound.lessee, sound.holds⟩
      · rcases List.mem_append.1 hr with old | new
        · exact sound.records r old
        · rw [List.mem_singleton] at new
          rw [new]
          exact sized
      · show ((u.chan n).ring ++ [_]).length ≤ 3
        rw [List.length_append]
        exact few
      · show (((u.chan n).ring ++ [_]).map Snapshot.id).Nodup
        rw [List.map_append, List.nodup_append]
        refine ⟨sound.ids, List.nodup_singleton _, fun a ha b hb same => ?_⟩
        obtain ⟨r, hr, rfl⟩ := List.mem_map.1 ha
        rw [List.map_singleton, List.mem_singleton] at hb
        exact newId_fresh (u.chan n) (by omega) r hr (same.trans hb)
      · have vacant' : (u.chan n).state = .vacant := vacant
        have held := sound.lessee.1 lessee
        rw [vacant'] at held
        rcases held with h | h <;> cases h
    · exact calls m

theorem snapshotOn_core {s : State} (i : s.CallsCore) {p : Port} (tag : Byte) {n : ChannelNo} {room : SnapshotRoom}
    (lessee : (s.chan n).lessee = some p) (found : s.snapshotRoom n = .ok room) :
    (State.snapshotOn p tag n room).CallsCore := by
  have sound := i.calls n
  unfold State.snapshotOn
  dsimp only
  refine State.CallsCore.steady ?_ (enqueue_steady _ _)
  have probe := i.probe.of_same (snapshotRoom_sameProbe found)
  unfold State.snapshotRoom at found
  dsimp only at found
  split at found
  · next fits =>
    cases found
    dsimp only
    refine addSnapshot_core (u := (s.takeSegments (s.chan n).live.length).2) i.calls probe i.held.tags i.held.entries
      (fun x => ?_) fits.1 (by show (s.chan n).lessee ≠ none; rw [lessee]; nofun) ?_
    · have parts : s.pool.free.count x = (s.pool.free.take (s.chan n).live.length).count x
          + (s.pool.free.drop (s.chan n).live.length).count x := by
        rw [← List.count_append, List.take_append_drop]
      have single := i.held.single x
      simp only [State.holdings, State.takeSegments, State.setFree, State.chan] at parts single ⊢
      omega
    · show (s.pool.free.take (s.chan n).live.length).length = (s.chan n).profile.segments
      rw [List.length_take, Nat.min_eq_left fits.2, sound.live]
  · split at found
    · next r recyclable =>
      cases found
      dsimp only at probe ⊢
      have held : r ∈ (s.chan n).ring := List.mem_of_find?_eq_some recyclable
      have record : (s.modChan n fun c => c.dropSnapshot r.id).chan n = (s.chan n).dropSnapshot r.id := chan_modChan_self _ _ _
      refine addSnapshot_core (fun m => ?_) probe i.held.tags i.held.entries (fun x => ?_) ?_ ?_ ?_
      · have sheds := modChan_sheds s n (fun c => c.dropSnapshot r.id) (Channel.dropSnapshot_sheds _ r.id) rfl rfl m
        exact (i.calls m).shed sheds.1 sheds.2.1 sheds.2.2
      · have moved := holdings_modChan s n (fun c => c.dropSnapshot r.id) x
        have apart := count_apart Snapshot.id (·.segments) sound.ids held x
        have single := i.held.single x
        have left : ((s.chan n).dropSnapshot r.id).segments
            = (s.chan n).live ++ ((s.chan n).ring.filter fun y => y.id ≠ r.id).flatMap (·.segments) := rfl
        rw [left, Channel.segments, List.count_append, List.count_append] at moved
        omega
      · rw [record]
        have few := sound.few
        have fewer : ((s.chan n).dropSnapshot r.id).ring.length < (s.chan n).ring.length :=
          List.length_filter_lt_length_iff_exists.2 ⟨r, held, by simp⟩
        omega
      · rw [record]
        show (s.chan n).lessee ≠ none
        rw [lessee]
        nofun
      · rw [record]
        exact sound.records r held
    · cases found

/-! ### Every command -/

theorem acts_core {s u : State} {p : Port} (i : s.CallsCore) (acts : s.Acts p u) : u.CallsCore := by
  have steady {t : State} (h : s.Steady t) : t.CallsCore := i.steady h
  cases acts with
  | nothing => exact i
  | resumes vacant entry => exact resume_core i p vacant entry
  | attaches vacant room => exact closeEvent_core s (attachFresh_core i p _ vacant room)
  | releases _ inCall => exact closeEvent_core s (abortOrders_core (startRelease_core i inCall) _)
  | retrains _ inCall => exact closeEvent_core s (retrain_core i inCall)
  | wipes _ inCall => exact closeEvent_core s (wipe_core i inCall)
  | adopts left => exact (closeEvent_core s (adoptInto_core i p left)).steady (broadcastExcept_steady _ _ _)
  | setsPolicy => exact steady (modChan_steady s _ _ ⟨rfl, rfl, rfl, rfl, rfl, rfl, fun _ => Nat.min_le_right _ _⟩)
  | clearsHolds => exact steady (modChan_steady s _ _ ⟨rfl, rfl, rfl, rfl, rfl, rfl, fun _ => Nat.zero_le _⟩)
  | setsBudget => exact steady (modChan_steady s _ _ ⟨rfl, rfl, rfl, rfl, rfl, rfl, id⟩)
  | pauses holds => exact steady (setPlay_steady s _ _ (by rw [holds]; rfl))
  | snapshots lessee found => exact closeEvent_core s (snapshotOn_core i _ lessee found)
  | restores => exact steady (enqueue_steady s _)
  | drops => exact closeEvent_core s (removeSnapshot_core i _ _)
  | moves => exact steady (enqueue_steady s _)
  | @cancels place o =>
    refine closeEvent_core s ?_
    unfold State.cancelOrder
    exact (endEarly_core .cancelled (steady (setMover_steady s _)) o).steady (markHead_steady _)
  | ages =>
    unfold State.takeAged
    split
    · exact closeEvent_core s (removeAged_core i)
    · exact i
  | purges held => exact closeEvent_core s (evict_core _ i held)
  | notices => exact steady (modPort_steady s p _)
  | claims | yields => exact steady (.of_same rfl rfl rfl rfl rfl)
  | @configures items =>
    have written : (s.setConfig (s.config.writeAll items)).CallsCore := steady (.of_same rfl rfl rfl rfl rfl)
    have aged := removeAged_core written
    unfold State.writeConfig
    dsimp only
    generalize s.setConfig (s.config.writeAll items) = v at written aged ⊢
    split
    · split
      · exact closeEvent_core s written
      · exact written.steady (comparePool_steady _)
    · split
      · exact closeEvent_core s aged
      · exact aged.steady (comparePool_steady _)

theorem reset_chan (n : ChannelNo) : State.reset.chan n = .vacant := by
  simp [State.chan, State.reset, Vector.get]

theorem reset_play (k : PlayerNo) : State.reset.play k = none := by
  simp [State.play, State.reset, Vector.get]

theorem reset_core : State.reset.CallsCore where
  held := {
    tags := List.nodup_nil
    single := fun x => by
      simp only [State.holdings, reset_chan]
      simp [State.reset, Pool.reset, Channel.segments, Channel.vacant, List.count_range]
    entries := nofun }
  calls n := by rw [reset_chan]; exact vacant_callSound
  probe := {
    nodup := List.nodup_nil
    queued := fun n => by rw [reset_chan]; exact iff_of_false nofun nofun
    probing := fun n => by rw [reset_chan]; exact iff_of_false (not_not.2 rfl) nofun
    named := fun n k e => by rw [reset_chan] at e; cases e
    plays := fun k play e => by rw [reset_play] at e; cases e }

/-- The calls stay sound through every event. -/
theorem callsCore_kept : KeptByEvents State.CallsCore where
  ports _ _ i := i.steady (.of_same rfl rfl rfl rfl rfl)
  highway f _ i := i.steady (modHighway_steady _ f)
  endOfPlay k i := endOfPlay_core i k
  epochEnd i := epochEnd_core i
  acts i _ acts := acts_core i acts
  reset _ := reset_core.steady (.of_same rfl rfl rfl rfl rfl)
  losePort p reason i := losePort_core i p reason
  frame lineIn pumpIn _ _ i := i.steady (frame_steady _ lineIn pumpIn)
  loseSync cause i := i.steady (loseSync_steady _ cause)
  markHead i := i.steady (markHead_steady _)
  completeHead i := closeEvent_core _ (i.steady (completeHead_steady _))
  expireDrain n i := expireDrain_core i n
  expireHold n i := expireHold_core i n
  expireStrand n i := expireStrand_core i n
  expireCache i := closeEvent_core _ (removeAged_core i)
  tick i := i.steady (tick_steady _)

end Sys2Proof.Machine

/-! A lessee is a joined port (`State.LesseesJoined`, R8): no event but ATTACH and ADOPT gives a channel a lessee, and the loss of
a port leaves none of its channels a lessee. With it every step keeps the part and its calls sound (O59). -/

namespace Sys2Proof.Machine

/-- The lessee of every channel is a port in GRACE or LIVE. -/
def State.LesseesJoined (s : State) : Prop := ∀ n p, (s.chan n).lessee = some p → (s.port p).joined = true

/-- No channel has a lessee in `t` that it has not in `s`. -/
def State.KeepsLessees (s t : State) : Prop := ∀ n q, (t.chan n).lessee = some q → (s.chan n).lessee = some q

theorem State.KeepsLessees.refl (s : State) : s.KeepsLessees s := fun _ _ h => h

theorem State.KeepsLessees.trans {s t u : State} (h : s.KeepsLessees t) (h' : t.KeepsLessees u) : s.KeepsLessees u :=
  fun n q e => h n q (h' n q e)

theorem State.Sheds.keepsLessees {s t : State} (h : s.Sheds t) : s.KeepsLessees t := fun n _ e => (h n).2.2 ▸ e

theorem State.Steady.keepsLessees {s t : State} (h : s.Steady t) : s.KeepsLessees t := h.sheds.keepsLessees

theorem State.KeepsLessees.of_channels {s t : State} (h : t.channels = s.channels) : s.KeepsLessees t :=
  (State.Sheds.of_channels h).keepsLessees

theorem keepsLessees_foldl {α : Type} {f : State → α → State} (h : ∀ (s : State) (a : α), s.KeepsLessees (f s a))
    (items : List α) (s : State) : s.KeepsLessees (items.foldl f s) := by
  induction items generalizing s with
  | nil => exact .refl s
  | cons a rest ih => exact (h s a).trans (ih (f s a))

theorem modChan_keepsLessees (s : State) (n : ChannelNo) (f : Channel → Channel)
    (h : ∀ q, (f (s.chan n)).lessee = some q → (s.chan n).lessee = some q) : s.KeepsLessees (s.modChan n f) := by
  intro m q e
  rw [chan_modChan] at e
  split at e
  · next own => subst own; exact h q e
  · exact e

theorem grantOne_keepsLessees (s : State) : s.KeepsLessees s.grantOne := by
  obtain ⟨-, same⟩ | ⟨n, rest, k, -, -, grant⟩ := grantOne_cases s
  · rw [same]; exact .refl s
  · rw [grant]
    intro m q e
    rw [chan_modChan] at e
    split at e
    · next own => subst own; exact e
    · exact e

theorem grants_keepsLessees (s : State) : s.KeepsLessees s.grants :=
  (((grantOne_keepsLessees s).trans (grantOne_keepsLessees _)).trans (grantOne_keepsLessees _)).trans (grantOne_keepsLessees _)

theorem closeEvent_keepsLessees (s₀ s : State) : s.KeepsLessees (s₀.closeEvent s) := by
  intro n q e
  rw [closeEvent_chan_eq] at e
  exact grants_keepsLessees s n q e

theorem leaveQueue_keepsLessees (s : State) (n : ChannelNo) : s.KeepsLessees (s.leaveQueue n) := .of_channels rfl

theorem enterQueued_keepsLessees (s : State) (n : ChannelNo) : s.KeepsLessees (s.enterQueued n) :=
  State.KeepsLessees.trans (t := s.setProbeQueue (s.probeQueue ++ [n])) (.of_channels rfl)
    (modChan_keepsLessees _ n _ (by exact fun _ e => e))

theorem vacate_keepsLessees (s : State) (n : ChannelNo) (park : Bool) : s.KeepsLessees (s.vacate n park) := by
  intro m q e
  rw [vacate_chan] at e
  split at e
  · cases e
  · exact (stripped_sheds s n).keepsLessees m q e

theorem removeAged_keepsLessees (s : State) : s.KeepsLessees s.removeAged := by
  rw [removeAged_eq]
  exact .of_channels (evictAll_calls .aged _ s).1

/-! ### The epoch end and the end of a play -/

theorem judgeChannel_keepsLessees (s : State) (n : ChannelNo) : s.KeepsLessees (s.judgeChannel n) := by
  have told {u : State} (h : s.KeepsLessees u) (lessee : Option Port) (x : Notice) : s.KeepsLessees (u.notifyLessee lessee x) :=
    h.trans (notifyLessee_steady _ _ _).keepsLessees
  have changed (f : Channel → Channel) (h : (f (s.chan n)).lessee = (s.chan n).lessee) : s.KeepsLessees (s.modChan n f) :=
    modChan_keepsLessees s n f fun _ e => h ▸ e
  have converges : s.KeepsLessees (s.converge n) := told (changed _ rfl) _ _
  have stalls : s.KeepsLessees (s.stall n) := told (changed _ rfl) _ _
  have retrained : s.KeepsLessees (s.retrainDiverged n) := told (enterQueued_keepsLessees s n) _ _
  have proves : s.KeepsLessees (s.judgeProving n) := by
    unfold State.judgeProving
    dsimp only
    split
    · exact told (changed _ rfl) _ _
    · split
      · exact told (enterQueued_keepsLessees s n) _ _
      · exact .refl s
  have diverges : s.KeepsLessees (s.diverge n) := by
    unfold State.diverge
    dsimp only
    split
    · exact told (changed _ rfl) _ _
    · exact retrained
    · split
      · exact retrained
      · split
        · split
          · exact told ((changed _ rfl).trans (enqueue_steady _ _).keepsLessees) _ _
          · exact retrained
        · exact retrained
  unfold State.judgeChannel
  dsimp only
  split
  · split
    · exact converges
    · split
      · exact stalls
      · exact .refl s
  · split
    · exact converges
    · exact .refl s
  · split
    · exact proves
    · split
      · exact diverges
      · exact .refl s
  all_goals exact .refl s

theorem runWork_keepsLessees (s₀ s : State) (w : EpochWork) : s.KeepsLessees (s₀.runWork s w) := by
  cases w with
  | engine n =>
    rcases engineWork_cases s₀ s n with steady | judged
    · exact steady.keepsLessees
    · rw [State.runWork, judged]
      exact (engineUpdate_steady s₀ s n).keepsLessees.trans (judgeChannel_keepsLessees _ n)
  | level n => exact (levelWork_steady s₀ s n).keepsLessees
  | players => exact (playersWork_steady s).keepsLessees
  | mover =>
    rw [State.runWork, State.moverWork]
    split
    · exact .refl s
    · exact (advanceHead_steady s).keepsLessees

theorem epochEnd_keepsLessees (s : State) : s.KeepsLessees s.epochEnd := by
  rw [epochEnd_eq, epochEndIn_eq]
  refine State.KeepsLessees.trans ?_ (closeEvent_keepsLessees _ _)
  refine State.KeepsLessees.trans ?_ (markHead_steady _).keepsLessees
  refine State.KeepsLessees.trans ?_
    (modAllChannels_steady _ _ (by exact fun _ => ⟨rfl, rfl, rfl, rfl, rfl, rfl, id⟩)).keepsLessees
  refine State.KeepsLessees.trans (t := s.spendFree.modHighway Highway.nextEpoch) (.of_channels rfl) ?_
  exact keepsLessees_foldl (runWork_keepsLessees s.spendFree) s.workOrder _

theorem endOfPlay_keepsLessees (s : State) (k : PlayerNo) : s.KeepsLessees (s.endOfPlay k) := by
  obtain same | ⟨play, -, -, ends⟩ := endOfPlay_cases s k
  · rw [same]; exact .refl s
  · have found := (findOf_steady s play).keepsLessees
    rw [ends]
    generalize s.findOf play = u at found ⊢
    refine found.trans (State.KeepsLessees.trans ?_ (grants_keepsLessees _))
    exact State.KeepsLessees.trans (t := u.setPlay k none) (.of_channels rfl)
      (modChan_keepsLessees _ _ _ (by exact fun _ e => e))

/-! ### Commands -/

/-- A block gives no channel a lessee but the port that has sent the command. -/
theorem acts_lessees {s u : State} {p : Port} (acts : s.Acts p u) (n : ChannelNo) (q : Port)
    (h : (u.chan n).lessee = some q) : (s.chan n).lessee = some q ∨ q = p := by
  have close {v : State} (keeps : s.KeepsLessees v) : s.KeepsLessees (s.closeEvent v) :=
    keeps.trans (closeEvent_keepsLessees s v)
  have left (m : ChannelNo) : s.KeepsLessees ((s.freePlayer m).leaveQueue m) :=
    (freePlayer_sheds s m).keepsLessees.trans (leaveQueue_keepsLessees _ m)
  suffices keeps : s.KeepsLessees u ∨ ∃ (v : State) (m : ChannelNo) (f : Channel → Channel), s.KeepsLessees v
      ∧ (f (v.chan m)).lessee = some p ∧ (v.modChan m f).KeepsLessees u by
    rcases keeps with keeps | ⟨v, m, f, before, given, after⟩
    · exact .inl (keeps n q h)
    · have e := after n q h
      rw [chan_modChan] at e
      split at e
      · next own => subst own; exact .inr (Option.some.inj (e.symm.trans given))
      · exact .inl (before n q e)
  cases acts with
  | nothing => exact .inl (.refl s)
  | @resumes m profile policy e =>
    exact .inr ⟨s.setCache (s.cache.filter fun x => x.routeTag ≠ e.routeTag), m, _, .of_channels rfl, rfl, .refl _⟩
  | @attaches m profile policy =>
    have evicted : s.KeepsLessees (s.evictFor profile.segments policy.routeTag) := .of_channels (evictFor_channels s _ _)
    rw [attachFresh_eq]
    generalize s.evictFor profile.segments policy.routeTag = v at evicted ⊢
    refine .inr ⟨v.setFree (v.pool.free.drop profile.segments), m, fun _ => Channel.fresh p profile policy v.pool.free,
      evicted.trans (.of_channels rfl), rfl, ?_⟩
    refine State.KeepsLessees.trans ?_ (closeEvent_keepsLessees _ _)
    refine State.KeepsLessees.trans ?_ (enterQueued_keepsLessees _ m)
    exact (writeInitialTaps_steady _ m).keepsLessees
  | @releases m =>
    refine .inl (close (State.KeepsLessees.trans ?_ (abortOrders_sheds _ _).keepsLessees))
    exact (left m).trans (modChan_keepsLessees _ m _ (by exact fun _ e => e))
  | @retrains m => exact .inl (close ((left m).trans (enterQueued_keepsLessees _ m)))
  | @wipes m =>
    refine .inl (close (State.KeepsLessees.trans ?_ (enterQueued_keepsLessees _ m)))
    exact ((left m).trans (writeInitialTaps_steady _ m).keepsLessees).trans
      (modChan_keepsLessees _ m _ (by exact fun _ e => e))
  | @adopts m =>
    refine .inr ⟨s, m, fun c => { c with
      lessee := some p, origin := some .adopted, prior := none, holdTimer := none, strandTimer := none }, .refl s, rfl, ?_⟩
    refine State.KeepsLessees.trans ?_ (broadcastExcept_steady _ _ _).keepsLessees
    refine State.KeepsLessees.trans ?_ (closeEvent_keepsLessees _ _)
    unfold State.adoptInto
    dsimp only
    split
    · exact modChan_keepsLessees _ m _ (by exact fun _ e => e)
    · exact modChan_keepsLessees _ m _ (by exact fun _ e => e)
    · exact modChan_keepsLessees _ m _ (by exact fun _ e => e)
    · exact enterQueued_keepsLessees _ m
  | setsPolicy => exact .inl (modChan_keepsLessees s _ _ (by exact fun _ e => e))
  | clearsHolds => exact .inl (modChan_keepsLessees s _ _ (by exact fun _ e => e))
  | setsBudget => exact .inl (modChan_keepsLessees s _ _ (by exact fun _ e => e))
  | pauses => exact .inl (.of_channels rfl)
  | @snapshots m tag room _ found =>
    refine .inl (close ?_)
    unfold State.snapshotOn
    dsimp only
    refine State.KeepsLessees.trans ?_ (enqueue_steady _ _).keepsLessees
    refine State.KeepsLessees.trans ?_ (modChan_keepsLessees _ m _ (by exact fun _ e => e))
    unfold State.snapshotRoom at found
    dsimp only at found
    split at found
    · cases found; exact .of_channels rfl
    · split at found
      · next r _ =>
        cases found
        dsimp only
        exact (modChan_sheds s m (fun c => c.dropSnapshot r.id) (Channel.dropSnapshot_sheds _ r.id) rfl rfl).keepsLessees
      · cases found
  | restores => exact .inl (enqueue_steady s _).keepsLessees
  | drops => exact .inl (close (removeSnapshot_sheds s _ _).keepsLessees)
  | moves => exact .inl (enqueue_steady s _).keepsLessees
  | @cancels place o =>
    refine .inl (close ?_)
    unfold State.cancelOrder
    refine State.KeepsLessees.trans ?_ (markHead_steady _).keepsLessees
    exact (setMover_steady s _).keepsLessees.trans (endEarly_sheds .cancelled _ o).keepsLessees
  | ages =>
    refine .inl ?_
    unfold State.takeAged
    split
    · exact close (removeAged_keepsLessees s)
    · exact .refl s
  | purges => exact .inl (close (.of_channels (evict_calls _ s _).1))
  | notices => exact .inl (modPort_steady s p _).keepsLessees
  | claims | yields => exact .inl (.of_channels rfl)
  | @configures items =>
    refine .inl ?_
    have written : s.KeepsLessees (s.setConfig (s.config.writeAll items)) := .of_channels rfl
    have aged := written.trans (removeAged_keepsLessees _)
    unfold State.writeConfig
    dsimp only
    generalize s.setConfig (s.config.writeAll items) = v at written aged ⊢
    split
    · split
      · exact close written
      · exact written.trans (comparePool_steady _).keepsLessees
    · split
      · exact close aged
      · exact aged.trans (comparePool_steady _).keepsLessees

/-! ### The loss of a port -/

/-- A channel of `t` has no lessee, or the lessee and the state it has in `s`. -/
def State.Parts (s t : State) : Prop :=
  ∀ n, (t.chan n).lessee = none ∨ ((t.chan n).lessee = (s.chan n).lessee ∧ (t.chan n).state = (s.chan n).state)

theorem State.Parts.trans {s t u : State} (h : s.Parts t) (h' : t.Parts u) : s.Parts u := by
  intro n
  rcases h' n with gone | ⟨lessee, state⟩
  · exact .inl gone
  · rcases h n with gone | ⟨lessee', state'⟩
    · exact .inl (lessee.trans gone)
    · exact .inr ⟨lessee.trans lessee', state.trans state'⟩

theorem State.Sheds.parts {s t : State} (h : s.Sheds t) : s.Parts t := fun n => .inr ⟨(h n).2.2, (h n).2.1⟩

theorem State.Parts.keepsLessees {s t : State} (h : s.Parts t) : s.KeepsLessees t := by
  intro n q e
  rcases h n with gone | ⟨lessee, -⟩
  · rw [gone] at e; cases e
  · rw [← lessee]; exact e

theorem vacate_parts (s : State) (n : ChannelNo) (park : Bool) : s.Parts (s.vacate n park) := by
  intro m
  rw [vacate_chan]
  split
  · exact .inl rfl
  · exact (stripped_sheds s n).parts m

theorem orphan_parts (s : State) (p : Port) (n : ChannelNo) :
    s.Parts (s.orphan p n) ∧ ((s.orphan p n).chan n).lessee = none := by
  have before := (abortOrders_sheds s fun o => o.work.touches n).parts.trans (freePlayer_sheds _ n).parts
  rw [orphan_eq]
  have told := (broadcast_steady ((((s.abortOrders fun o => o.work.touches n).freePlayer n).leaveQueue n).modChan n
    Channel.orphaned) ⟨.channelOrphaned, some n,
    [(p.val : Int), (s.chan n).state.item, ((s.chan n).holdCount + 1 : Nat), ((s.chan n).policy.holdLimit : Int)]⟩).sheds
  refine ⟨State.Parts.trans ?_ told.parts, (told n).2.2.trans ?_⟩
  · refine before.trans fun m => ?_
    rw [chan_modChan]
    split
    · exact .inl rfl
    · exact .inr ⟨rfl, rfl⟩
  · rw [chan_modChan_self]
    rfl

theorem loseCall_parts (p : Port) (r : State × LossCounts) (n : ChannelNo) :
    r.1.Parts (State.loseCall p r n).1 ∧ ((State.loseCall p r n).1.chan n).lessee = none := by
  obtain ⟨s, counts⟩ := r
  rw [loseCall_eq]
  split
  · have told := (broadcast_steady (s.vacate n false)
      (channelDropped n .holdLimit (s.chan n).state.item (s.chan n).holdCount)).sheds
    dsimp only
    refine ⟨(vacate_parts s n false).trans told.parts, (told n).2.2.trans ?_⟩
    rw [vacate_chan, if_pos rfl]
    rfl
  · dsimp only
    exact orphan_parts s p n

/-- A series of updates that only take lessees, each from its channel of the list, takes them from every one. -/
theorem parts_foldl {β : Type} (view : β → State) {f : β → ChannelNo → β}
    (h : ∀ r n, (view r).Parts (view (f r n)) ∧ ((view (f r n)).chan n).lessee = none) (items : List ChannelNo) (r : β) :
    (view r).Parts (view (items.foldl f r)) ∧ ∀ n ∈ items, ((view (items.foldl f r)).chan n).lessee = none := by
  induction items generalizing r with
  | nil => exact ⟨fun _ => .inr ⟨rfl, rfl⟩, fun _ h => (nomatch h)⟩
  | cons a rest ih =>
    rw [List.foldl_cons]
    obtain ⟨parts, gone⟩ := ih (f r a)
    refine ⟨(h r a).1.trans parts, fun n hn => ?_⟩
    rcases List.mem_cons.1 hn with rfl | later
    · rcases parts n with e | ⟨e, -⟩
      · exact e
      · exact e.trans (h r n).2
    · exact gone n later

theorem insertRanked_perm {α : Type} (rank : α → Nat) (a : α) (items : List α) :
    (insertRanked rank a items).Perm (a :: items) := by
  induction items with
  | nil => exact .refl _
  | cons b rest ih =>
    unfold insertRanked
    split
    · exact .refl _
    · exact (ih.cons b).trans (.swap a b rest)

/-- The order of ranks is an order of the same items. -/
theorem rankSort_perm {α : Type} (rank : α → Nat) (items : List α) : (rankSort rank items).Perm items := by
  induction items with
  | nil => exact .refl _
  | cons a rest ih => exact (insertRanked_perm rank a _).trans (ih.cons a)

theorem mem_rankSort {α : Type} (rank : α → Nat) (items : List α) (a : α) : a ∈ rankSort rank items ↔ a ∈ items :=
  (rankSort_perm rank items).mem_iff

/-- The loss of a port takes the lessee from each of its channels and gives no channel one. -/
theorem losePort_lessees {s : State} (i : s.CallsCore) (p : Port) (reason : LossReason) :
    s.KeepsLessees (s.losePort p reason).1 ∧ ∀ n, ((s.losePort p reason).1.chan n).lessee ≠ some p := by
  have begun : s.Parts (s.lossBegun p) :=
    State.Parts.trans (modPort_steady s p _).sheds.parts (abortOrders_sheds _ _).parts
  have released := parts_foldl id (f := State.completeRelease) (fun u n => ⟨vacate_parts u n _, by
    show ((u.vacate n _).chan n).lessee = none
    rw [vacate_chan, if_pos rfl]
    rfl⟩) ((s.lossBegun p).lossReleases p) (s.lossBegun p).spendFree
  have called := parts_foldl Prod.fst (loseCall_parts p)
    (allChannels.filter fun n => ((s.lossReleased p).chan n).isCallOf p)
    (s.lossReleased p, ⟨0, 0, ((s.lossBegun p).lossReleases p).length⟩)
  have core := lossReleased_core i p
  change (s.lossBegun p).spendFree.Parts (s.lossReleased p)
    ∧ ∀ n ∈ (s.lossBegun p).lossReleases p, ((s.lossReleased p).chan n).lessee = none at released
  change (s.lossReleased p).Parts (s.lossCalled p).1
    ∧ ∀ n ∈ allChannels.filter fun n => ((s.lossReleased p).chan n).isCallOf p, ((s.lossCalled p).1.chan n).lessee = none
    at called
  have unlet (n : ChannelNo) : ((s.lossCalled p).1.chan n).lessee ≠ some p := by
    intro keeps
    have lessee : ((s.lossReleased p).chan n).lessee = some p := called.1.keepsLessees n p keeps
    rcases (core.calls n).lessee.1 (by rw [lessee]; nofun) with inCall | releasing
    · have own : n ∈ allChannels.filter fun n => ((s.lossReleased p).chan n).isCallOf p := by
        refine List.mem_filter.2 ⟨mem_allChannels n, ?_⟩
        rw [Channel.isCallOf, lessee, inCall, beq_self_eq_true]
        rfl
      rw [called.2 n own] at keeps
      cases keeps
    · rcases released.1 n with gone | ⟨lessee', state'⟩
      · rw [gone] at lessee; cases lessee
      · have own : n ∈ (s.lossBegun p).lossReleases p := by
          refine (mem_rankSort _ _ n).2 (List.mem_filter.2 ⟨mem_allChannels n, ?_⟩)
          have lessee₀ : ((s.lossBegun p).chan n).lessee = some p := lessee'.symm.trans lessee
          have state₀ : ((s.lossBegun p).chan n).state = .releasing := state'.symm.trans releasing
          rw [lessee₀, state₀, beq_self_eq_true, beq_self_eq_true]
          rfl
        rw [released.2 n own] at lessee
        cases lessee
  have parts : s.Parts (s.lossCalled p).1 :=
    begun.trans (State.Parts.trans (t := s.lossReleased p) released.1 called.1)
  rw [losePort_eq]
  dsimp only
  generalize s.lossCalled p = r at unlet parts ⊢
  have last : r.1.KeepsLessees (s.closeEvent (State.lossToldAt p reason r)) := by
    refine State.KeepsLessees.trans ?_ (closeEvent_keepsLessees s _)
    rw [State.lossToldAt]
    refine State.KeepsLessees.trans ?_ (broadcast_steady _ _).keepsLessees
    refine State.KeepsLessees.trans ?_ (modPort_steady _ p _).keepsLessees
    unfold State.dropClaim
    split
    · exact .of_channels rfl
    · exact .refl _
  exact ⟨parts.keepsLessees.trans last, fun n e => unlet n (last n p e)⟩

/-! ### Every event -/

/-- Calls sound, each with a joined lessee. -/
structure State.CallsJoined (s : State) : Prop where
  core : s.CallsCore
  lessees : s.LesseesJoined

theorem State.LesseesJoined.of_keeps {s t : State} (i : s.LesseesJoined) (keeps : s.KeepsLessees t)
    (joined : ∀ q, (s.port q).joined = true → (t.port q).joined = true) : t.LesseesJoined :=
  fun n p e => joined p (i n p (keeps n p e))

theorem State.LesseesJoined.of_within {s t : State} (i : s.LesseesJoined) (keeps : s.KeepsLessees t) (within : s.Within t) :
    t.LesseesJoined := i.of_keeps keeps fun q j => (within.heard.joined q).trans j

theorem acts_lesseesJoined {s u : State} {p : Port} (i : s.LesseesJoined) (joined : (s.port p).joined = true)
    (acts : s.Acts p u) : u.LesseesJoined := by
  have kept : ∀ q, (s.port q).joined = true → (u.port q).joined = true := by
    intro q j
    obtain within | ⟨f, ⟨link, -⟩, -, rfl⟩ | ⟨-, rfl⟩ | rfl | ⟨items, -, within⟩ := acts_cases acts
    · rw [within.heard.joined]; exact j
    · rw [port_modPort]
      split
      · next own =>
        subst own
        rw [PortRecord.joined, link]
        exact j
      · exact j
    · exact j
    · exact j
    · rw [within.heard.joined]; exact j
  intro n q e
  rcases acts_lessees acts n q e with old | rfl
  · exact kept q (i n q old)
  · exact kept q joined

theorem lesseesJoined_losePort {s : State} (i : s.CallsJoined) (p : Port) (reason : LossReason) :
    (s.losePort p reason).1.LesseesJoined := by
  obtain ⟨keeps, gone⟩ := losePort_lessees i.core p reason
  obtain ⟨-, others⟩ := losePort_port s p reason
  generalize (s.losePort p reason).1 = t at keeps gone others ⊢
  intro n q e
  have other : q ≠ p := fun own => gone n (own ▸ e)
  have joined := i.lessees n q (keeps n q e)
  obtain ⟨ns, heard⟩ := others q other
  rw [heard, if_pos joined, arriveAll_joined]
  exact joined

theorem dropExpired_keepsLessees (s : State) (n : ChannelNo) (reason : DropReason) (was : Int) :
    s.KeepsLessees (s.dropExpired n reason was) :=
  ((vacate_keepsLessees s n false).trans (closeEvent_keepsLessees s _)).trans (broadcast_steady _ _).keepsLessees

theorem expireDrain_keepsLessees (s : State) (n : ChannelNo) : s.KeepsLessees (s.expireDrain n) := by
  unfold State.expireDrain
  split
  · exact ((vacate_keepsLessees s n _).trans (closeEvent_keepsLessees s _)).trans (notifyLessee_steady _ _ _).keepsLessees
  · exact .refl s

theorem expireHold_keepsLessees (s : State) (n : ChannelNo) : s.KeepsLessees (s.expireHold n) := by
  unfold State.expireHold
  split
  · dsimp only
    split
    · exact dropExpired_keepsLessees s n _ _
    · exact (modChan_keepsLessees s n _ (by exact fun _ e => e)).trans (broadcast_steady _ _).keepsLessees
  · exact .refl s

theorem expireStrand_keepsLessees (s : State) (n : ChannelNo) : s.KeepsLessees (s.expireStrand n) := by
  unfold State.expireStrand
  split
  · exact dropExpired_keepsLessees s n _ _
  · exact .refl s

/-- That the calls are sound and their lessees joined is kept by every event. -/
theorem callsJoined_kept : KeptByEvents State.CallsJoined where
  ports ports eases i := ⟨callsCore_kept.ports ports eases i.core, i.lessees.of_keeps (.of_channels rfl) fun q => (eases q).joined⟩
  highway f h i := ⟨callsCore_kept.highway f h i.core, i.lessees.of_keeps (.of_channels rfl) fun _ j => j⟩
  endOfPlay k i := ⟨endOfPlay_core i.core k, i.lessees.of_within (endOfPlay_keepsLessees _ k) (endOfPlay_within _ k)⟩
  epochEnd {s} i := by
    have heard := (epochEnd_within s).heard
    exact ⟨epochEnd_core i.core, i.lessees.of_keeps (epochEnd_keepsLessees s) fun q j => (heard.joined q).trans j⟩
  acts i joined acts := ⟨acts_core i.core acts, acts_lesseesJoined i.lessees joined acts⟩
  reset _ := ⟨reset_core.steady (.of_same rfl rfl rfl rfl rfl), fun n p e => by
    change (State.reset.chan n).lessee = some p at e
    rw [reset_chan] at e
    cases e⟩
  losePort p reason i := ⟨losePort_core i.core p reason, lesseesJoined_losePort i p reason⟩
  frame {s} lineIn pumpIn _ _ i := by
    refine ⟨i.core.steady (frame_steady s lineIn pumpIn),
      i.lessees.of_keeps (frame_steady s lineIn pumpIn).keepsLessees fun q j => ?_⟩
    obtain ⟨_, _, _, _, e⟩ := frame_eq s lineIn pumpIn
    rw [e]
    exact j
  loseSync {s} cause i := ⟨i.core.steady (loseSync_steady s cause),
    i.lessees.of_keeps (loseSync_steady s cause).keepsLessees fun q j => ((loseSync_lost s cause).heard.joined q).trans j⟩
  markHead i := ⟨i.core.steady (markHead_steady _), i.lessees.of_within (markHead_steady _).keepsLessees (markHead_within _)⟩
  completeHead i := ⟨closeEvent_core _ (i.core.steady (completeHead_steady _)),
    i.lessees.of_within ((completeHead_steady _).keepsLessees.trans (closeEvent_keepsLessees _ _))
      ((completeHead_within _).trans (closeEvent_within _ _))⟩
  expireDrain n i := ⟨expireDrain_core i.core n, i.lessees.of_within (expireDrain_keepsLessees _ n) (expireDrain_within _ n)⟩
  expireHold n i := ⟨expireHold_core i.core n, i.lessees.of_within (expireHold_keepsLessees _ n) (expireHold_within _ n)⟩
  expireStrand n i :=
    ⟨expireStrand_core i.core n, i.lessees.of_within (expireStrand_keepsLessees _ n) (expireStrand_within _ n)⟩
  expireCache i := ⟨closeEvent_core _ (removeAged_core i.core),
    i.lessees.of_within ((removeAged_keepsLessees _).trans (closeEvent_keepsLessees _ _)) (expireCache_within _)⟩
  tick {s} i := ⟨i.core.steady (tick_steady s), i.lessees.of_keeps (tick_steady s).keepsLessees fun q j => by
    rw [tick_port]
    exact j⟩

/-! ### The invariant of the calls -/

theorem callsSound_iff {s : State} (tags : (s.cache.map CacheEntry.routeTag).Nodup) : s.CallsSound ↔ s.CallsJoined := by
  have holders (x : Nat) : (s.pool.free ++ (allChannels.flatMap fun n => (s.chan n).segments)
      ++ s.cache.flatMap (·.segments)).count x = s.holdings x := by
    rw [List.count_append, List.count_append, count_flatMap_allChannels, State.holdings]
  constructor
  · intro i
    exact ⟨⟨⟨tags, fun x => (holders x).symm.trans (i.holders x), i.sizes.2⟩,
      fun n => ⟨(i.sizes.1 n).1, (i.sizes.1 n).2, (i.rings n).1, (i.rings n).2, i.vacant n, (i.lessees n).1, i.holds n⟩,
      ⟨i.queued.1, i.queued.2, i.probing.1, i.probing.2.1, i.probing.2.2⟩⟩, fun n => (i.lessees n).2⟩
  · rintro ⟨⟨held, calls, probe⟩, lessees⟩
    exact ⟨fun x => (holders x).trans (held.single x), ⟨fun n => ⟨(calls n).live, (calls n).records⟩, held.entries⟩,
      fun n => ⟨(calls n).few, (calls n).ids⟩, fun n => (calls n).vacant, fun n => ⟨(calls n).lessee, lessees n⟩,
      fun n => (calls n).holds, ⟨probe.nodup, probe.queued⟩, probe.probing, probe.named, probe.plays⟩

/-- Every step keeps the calls sound. -/
theorem callsSound_step {s t : State} (sound : s.Sound) (calls : s.CallsSound) (h : step s = .next t) : t.CallsSound :=
  (callsSound_iff (sound_step sound h).stores.tags).2
    (callsJoined_kept.step (fun _ i => ⟨i.core.steady (.of_same rfl rfl rfl rfl rfl), i.lessees⟩)
      ((callsSound_iff sound.stores.tags).1 calls) h)

/-- Settles O59, by the events that keep the ports, claim, configuration and highway (`frontSound_kept`), the stores
(`storesSound_kept`) and the calls (`callsJoined_kept`). -/
theorem soundKept : Obligations.SoundKept :=
  ⟨fun _ _ => sound_step, fun _ _ => callsSound_step⟩

end Sys2Proof.Machine

/-! The machine's own statements: the step, the reset, what comes before a command, the round trip of the link's commands. -/

namespace Sys2Proof.Machine

/-! ### The step -/

/-- Settles O1, by the two kinds of queue. -/
theorem stepTakesFront : Obligations.StepTakesFront := by
  refine ⟨fun c rest s front => ?_, fun s empty => ?_⟩
  · rw [step, front]
  · rw [step, empty]

/-- That the waiting commands are those of a list is kept by every event. -/
theorem pending_kept (l : List Instr) : KeptByEvents fun s => s.pending = l where
  ports _ _ i := i
  highway _ _ i := i
  endOfPlay k i := (endOfPlay_within _ k).pending.trans i
  epochEnd {s} i := (epochEnd_within s).pending.trans i
  acts i _ acts := by
    obtain within | ⟨f, -, -, rfl⟩ | ⟨-, rfl⟩ | rfl | ⟨items, -, within⟩ := acts_cases acts
    · exact within.pending.trans i
    · exact i
    · exact i
    · exact i
    · exact within.pending.trans i
  reset i := i
  losePort {s} p reason i := (losePort_frame s p reason).1.trans i
  frame {s} lineIn pumpIn _ _ i := by
    obtain ⟨_, _, _, _, e⟩ := frame_eq s lineIn pumpIn
    rw [e]
    exact i
  loseSync {s} cause i := by
    rw [(loseSync_lost s cause).rest]
    exact i
  markHead i := (markHead_within _).pending.trans i
  completeHead i := ((completeHead_within _).trans (closeEvent_within _ _)).pending.trans i
  expireDrain n i := (expireDrain_within _ n).pending.trans i
  expireHold n i := (expireHold_within _ n).pending.trans i
  expireStrand n i := (expireStrand_within _ n).pending.trans i
  expireCache i := (expireCache_within _).pending.trans i
  tick {s} i := (congrArg State.pending (tick_eq s)).trans i

/-- Settles O2, by the events, none of which touches the waiting commands (`pending_kept`). -/
theorem everyCommandCompletes : Obligations.EveryCommandCompletes :=
  fun c s => (pending_kept s.pending).exec c rfl

/-! ### What comes before a command -/

theorem beginCommand_settle {s : State} (quiet : s.settle.quiet = true) (p : Port) (params : List Byte) :
    s.settle.beginCommand p params = s.beginCommand p params := by
  rw [State.beginCommand, State.beginCommand, settle_of_quiet quiet]

theorem takeCommand_settle {s : State} (quiet : s.settle.quiet = true) (p : Port) (tag : Byte) (params : List Byte)
    (act : State → Reply) : takeCommand p tag params act s.settle = takeCommand p tag params act s := by
  unfold takeCommand
  rw [beginCommand_settle quiet]

/-- Every command of Table 11-1 begins with what is due. -/
theorem exec_frame_settle {c : Instr} {f : Port × Byte × List Byte} (frame : frameOf c = some f) {s : State}
    (quiet : s.settle.quiet = true) : exec c s = exec c s.settle := by
  obtain ⟨p, tag, params⟩ := f
  obtain ⟨act, block⟩ | rfl | rfl | rfl := block_or_port_command frame
  · rw [exec_of_block frame block, exec_of_block frame block, takeCommand_settle quiet]
  · rw [exec_join, exec_join, execJoin, execJoin, beginCommand_settle quiet]
  · rw [exec_leave, exec_leave, execLeave, execLeave, beginCommand_settle quiet]
  · rw [exec_resetPart, exec_resetPart, execResetPart, execResetPart, beginCommand_settle quiet]

theorem exec_unknownCommand_settle {p : Port} {code tag : Byte} {params : List Byte}
    (wellFormed : (Instr.unknownCommand p code tag params).wellFormed = true) {s : State}
    (quiet : s.settle.quiet = true) :
    exec (.unknownCommand p code tag params) s = exec (.unknownCommand p code tag params) s.settle := by
  simp only [Instr.wellFormed, Bool.and_eq_true, Bool.not_eq_true', decide_eq_true_eq] at wellFormed
  obtain ⟨⟨-, outside⟩, nonzero⟩ := wellFormed
  rw [exec_unknownCommand, exec_unknownCommand, execUnknownCommand, execUnknownCommand, beginCommand_settle quiet]
  simp only [outside, nonzero, Bool.false_eq_true, or_self, if_false]

/-- Settles O3: a command of Table 11-1, and one with an unknown code, begins with what is due (`beginCommand_settle`), and
every other event but the four settles the state first. -/
theorem dueComesFirst : Obligations.DueComesFirst := by
  intro c s wellFormed quiet
  have settled := settle_of_quiet quiet
  cases c
  case reset | endOfPlay | badFrame | readTransfer => trivial
  case unknownCommand => exact exec_unknownCommand_settle wellFormed quiet
  case lockedFrame => dsimp only; rw [exec_lockedFrame, exec_lockedFrame, execLockedFrame, execLockedFrame, settled]
  case frameBoundary =>
    dsimp only; rw [exec_frameBoundary, exec_frameBoundary, execFrameBoundary, execFrameBoundary, settled]
  case huntPulse => dsimp only; rw [exec_huntPulse, exec_huntPulse, execHuntPulse, execHuntPulse, settled]
  case noClock => dsimp only; rw [exec_noClock, exec_noClock, execNoClock, execNoClock, settled]
  case epochEnd => dsimp only; rw [exec_epochEnd, exec_epochEnd, settled]
  case orderComplete => dsimp only; rw [exec_orderComplete, exec_orderComplete, execOrderComplete, execOrderComplete, settled]
  case drainExpiry => dsimp only; rw [exec_drainExpiry, exec_drainExpiry, settled]
  case leaseExpiry => dsimp only; rw [exec_leaseExpiry, exec_leaseExpiry, settled]
  case holdExpiry => dsimp only; rw [exec_holdExpiry, exec_holdExpiry, settled]
  case strandExpiry => dsimp only; rw [exec_strandExpiry, exec_strandExpiry, settled]
  case cacheAged => dsimp only; rw [exec_cacheAged, exec_cacheAged, settled]
  case timebaseTick => dsimp only; rw [exec_timebaseTick, exec_timebaseTick, settled]
  all_goals exact exec_frame_settle rfl quiet

/-! ### The link -/

/-- Every command's own transfer reads back as it. -/
theorem linkRoundTrip : ∀ i : Instr, Laws.LinkRoundTrip.Statement i
  | .join .. => Laws.LinkRoundTrip.join _ _ _
  | .keep .. => Laws.LinkRoundTrip.keep _ _ _
  | .leave .. => Laws.LinkRoundTrip.leave _ _ _
  | .attach .. => Laws.LinkRoundTrip.attach _ _ _
  | .release .. => Laws.LinkRoundTrip.release _ _ _
  | .retrain .. => Laws.LinkRoundTrip.retrain _ _ _
  | .adopt .. => Laws.LinkRoundTrip.adopt _ _ _
  | .setPolicy .. => Laws.LinkRoundTrip.setPolicy _ _ _
  | .clearHolds .. => Laws.LinkRoundTrip.clearHolds _ _ _
  | .adapt .. => Laws.LinkRoundTrip.adapt _ _ _
  | .query .. => Laws.LinkRoundTrip.query _ _ _
  | .pauseProbe .. => Laws.LinkRoundTrip.pauseProbe _ _ _
  | .resumeProbe .. => Laws.LinkRoundTrip.resumeProbe _ _ _
  | .poolStatus .. => Laws.LinkRoundTrip.poolStatus _ _ _
  | .snapshot .. => Laws.LinkRoundTrip.snapshot _ _ _
  | .restore .. => Laws.LinkRoundTrip.restore _ _ _
  | .dropSnapshot .. => Laws.LinkRoundTrip.dropSnapshot _ _ _
  | .readTaps .. => Laws.LinkRoundTrip.readTaps _ _ _
  | .move .. => Laws.LinkRoundTrip.move _ _ _
  | .cancelMove .. => Laws.LinkRoundTrip.cancelMove _ _ _
  | .moverStatus .. => Laws.LinkRoundTrip.moverStatus _ _ _
  | .cacheList .. => Laws.LinkRoundTrip.cacheList _ _ _
  | .cachePurge .. => Laws.LinkRoundTrip.cachePurge _ _ _
  | .readNotices .. => Laws.LinkRoundTrip.readNotices _ _ _
  | .maskNotices .. => Laws.LinkRoundTrip.maskNotices _ _ _
  | .discardNotices .. => Laws.LinkRoundTrip.discardNotices _ _ _
  | .claim .. => Laws.LinkRoundTrip.claim _ _ _
  | .yieldClaim .. => Laws.LinkRoundTrip.yieldClaim _ _ _
  | .setConfig .. => Laws.LinkRoundTrip.setConfig _ _ _
  | .getConfig .. => Laws.LinkRoundTrip.getConfig _ _ _
  | .resetPart .. => Laws.LinkRoundTrip.resetPart _ _ _
  | .unknownCommand .. => Laws.LinkRoundTrip.unknownCommand _ _ _ _
  | .badFrame .. => Laws.LinkRoundTrip.badFrame _ _ _
  | .readTransfer .. => Laws.LinkRoundTrip.readTransfer _ _
  | .reset => Laws.LinkRoundTrip.reset
  | .lockedFrame .. => Laws.LinkRoundTrip.lockedFrame _ _
  | .endOfPlay .. => Laws.LinkRoundTrip.endOfPlay _
  | .frameBoundary .. => Laws.LinkRoundTrip.frameBoundary _ _
  | .huntPulse .. => Laws.LinkRoundTrip.huntPulse _
  | .noClock => Laws.LinkRoundTrip.noClock
  | .epochEnd => Laws.LinkRoundTrip.epochEnd
  | .orderComplete => Laws.LinkRoundTrip.orderComplete
  | .drainExpiry .. => Laws.LinkRoundTrip.drainExpiry _
  | .leaseExpiry .. => Laws.LinkRoundTrip.leaseExpiry _
  | .holdExpiry .. => Laws.LinkRoundTrip.holdExpiry _
  | .strandExpiry .. => Laws.LinkRoundTrip.strandExpiry _
  | .cacheAged => Laws.LinkRoundTrip.cacheAged
  | .timebaseTick => Laws.LinkRoundTrip.timebaseTick

/-- Settles O5, command by command (`linkRoundTrip`). -/
theorem transfersReadBack : Obligations.TransfersReadBack :=
  fun i p bytes stray wellFormed => linkRoundTrip i wellFormed p bytes stray

/-! ### The reset -/

theorem resetPart_port (s : State) (p : Port) : s.resetPart.port p = .reset := by
  show State.reset.port p = .reset
  fin_cases p <;> rfl

/-- Settles O4: the reset leaves the reset state, with the waiting commands and the counter of free values. -/
theorem resetPinResets : Obligations.ResetPinResets := by
  intro s
  refine ⟨s.resetPart, rfl, reset_chan, fun p => ?_, rfl, rfl, fun x => ?_, fun _ => rfl, rfl, reset_play, rfl,
    rfl, rfl, rfl, rfl, rfl, rfl, rfl, rfl, rfl, rfl, rfl, fun n => ?_, rfl, rfl⟩
  · rw [resetPart_port]
    exact ⟨rfl, rfl, rfl, rfl, rfl, rfl, rfl⟩
  · simp only [State.resetPart, State.reset, Pool.reset, List.mem_range]
  · simp [State.resetPart, State.reset, Highway.reset, Vector.get]

/-- Settles O58, from the parts of the two invariants that the reset state satisfies. -/
theorem soundAtReset : Obligations.SoundAtReset := by
  have lessees : State.reset.LesseesJoined := fun n p e => by rw [reset_chan] at e; cases e
  exact ⟨(sound_iff _).2 ⟨reset_frontSound, reset_stores⟩, (callsSound_iff (s := State.reset) List.nodup_nil).2 ⟨reset_core, lessees⟩,
    reset_core.probe.named, .inl rfl⟩

end Sys2Proof.Machine

/-! Commands of the link and of the claim: a read transfer, JOIN, CLAIM and YIELD, RESET_PART, MASK_NOTICES. -/

namespace Sys2Proof.Machine

/-! ### The read transfer (R176) -/

theorem take_filled {α : Type} (bytes : List α) (fill : α) {n : Nat} (short : bytes.length ≤ n) :
    (bytes ++ List.replicate n fill).take n = bytes ++ List.replicate (n - bytes.length) fill := by
  rw [List.take_append, List.take_of_length_le short, List.take_replicate, Nat.min_eq_left (Nat.sub_le _ _)]

theorem execReadTransfer_of_none {s : State} {p : Port} {clocked : Nat} (clocks : 0 < clocked)
    (none : (s.port p).held = none) : execReadTransfer p clocked s = .next (s.modPort p fun q =>
      { q with linkOut := (([0x01, 0x00, 0x00, 0xFF] : List Byte) ++ List.replicate clocked 0).take clocked }) := by
  unfold execReadTransfer
  rw [if_neg (by omega), none]
  rfl

theorem execReadTransfer_of_short {s : State} {p : Port} {clocked : Nat} {r : Response} (clocks : 0 < clocked)
    (held : (s.port p).held = some r) (short : clocked < r.bytes.length) :
    execReadTransfer p clocked s = .next (s.modPort p fun q => { q with linkOut := r.bytes.take clocked }) := by
  unfold execReadTransfer
  rw [if_neg (by omega), held]
  dsimp only
  rw [if_neg (by omega), List.take_append_of_le_length short.le]
  rfl

theorem execReadTransfer_of_whole {s : State} {p : Port} {clocked : Nat} {r : Response} (clocks : 0 < clocked)
    (held : (s.port p).held = some r) (whole : ¬clocked < r.bytes.length) :
    execReadTransfer p clocked s = .next (s.modPort p fun q =>
      { q with held := none, linkOut := r.bytes ++ List.replicate (clocked - r.bytes.length) 0 }) := by
  unfold execReadTransfer
  rw [if_neg (by omega), held]
  dsimp only
  rw [if_pos (by omega), take_filled _ _ (by omega), State.driveLink, modPort_modPort]

/-- Settles O8, by the held response and whether the transfer clocks all of it out. -/
theorem readTransferDelivers : Obligations.ReadTransferDelivers := by
  intro s p clocked clocks
  rw [exec_readTransfer]
  cases held : (s.port p).held with
  | none => exact execReadTransfer_of_none clocks held
  | some r =>
    dsimp only
    split
    · next short => exact execReadTransfer_of_short clocks held short
    · next whole => exact execReadTransfer_of_whole clocks held whole

/-! ### JOIN (R136) -/

theorem not_joined_of_absent {s : State} {p : Port} (absent : (s.port p).link = .absent) : (s.port p).joined = false := by
  rw [PortRecord.joined, absent]
  rfl

/-- The states of the ports once port `p` is in GRACE. -/
theorem portStates_grace (s : State) (p : Port) (f : PortRecord → PortRecord) (grace : ∀ r, (f r).link = .grace) :
    (s.modPort p f).portStates
      = allPorts.flatMap fun q => enc1 (if q = p then LinkState.grace else (s.port q).link).code := by
  unfold State.portStates
  congr 1
  funext q
  rw [port_modPort]
  by_cases own : q = p
  · rw [if_pos own.symm, if_pos own, grace]
  · rw [if_neg (Ne.symm own), if_neg own]

theorem joinPayload_modPort (s : State) (p : Port) (f : PortRecord → PortRecord) :
    (s.modPort p f).joinPayload p = enc1 p.val ++ (s.modPort p f).portStates ++ encPort? s.claim
      ++ enc2 s.config.leasePeriod ++ enc2 s.config.joinGrace ++ enc1 s.highway.sync.code ++ enc4 s.highway.epochCounter
      ++ enc1 (allChannels.countP fun n => (s.chan n).state == .orphaned)
      ++ enc1 (allChannels.countP fun n => (s.chan n).state == .stranded) := rfl

/-- Settles O11, by whether the port is joined. -/
theorem joinTakesPort : Obligations.JoinTakesPort := by
  intro s p tag quiet
  refine ⟨fun absent => ?_, fun joined => ?_⟩
  · have out : ((s.driveLink p (commandEcho [])).port p).joined = false := by
      rw [driveLink_joined, not_joined_of_absent absent]
    rw [exec_join, execJoin, beginCommand_of_quiet quiet]
    dsimp only
    rw [if_neg (by rw [out]; exact Bool.false_ne_true)]
    dsimp only [parseNone]
    rw [State.driveLink, modPort_modPort, joinPayload_modPort, portStates_grace s p _ fun _ => rfl, State.hold,
      modPort_modPort]
    rfl
  · have present : ((s.driveLink p (commandEcho [])).port p).joined = true := by rw [driveLink_joined, joined]
    rw [exec_join, execJoin, beginCommand_of_quiet quiet]
    dsimp only
    rw [if_pos present, State.refuse, finish_driveLink joined]

/-! ### CLAIM and YIELD (R150) -/

theorem exec_claim (p : Port) (tag : Byte) (params : List Byte) (s : State) :
    exec (.claim p tag params) s = .next (takeCommand p tag params (claimAct p params) s) := rfl

theorem exec_yieldClaim (p : Port) (tag : Byte) (params : List Byte) (s : State) :
    exec (.yieldClaim p tag params) s = .next (takeCommand p tag params (yieldAct p params) s) := rfl

theorem setClaim_driveLink (s : State) (p : Port) (bytes : List Byte) (holder : Option Port) :
    (s.driveLink p bytes).setClaim holder = (s.setClaim holder).driveLink p bytes := rfl

theorem claimAct_of_free {s : State} (free : s.claim = none) (p : Port) (bytes : List Byte) :
    claimAct p [] (s.driveLink p bytes) = ⟨(s.setClaim (some p)).driveLink p bytes, .ok, []⟩ := by
  rw [claimAct, withParams_some (a := ()) rfl, claimConfig, driveLink_claim, free]
  rfl

theorem claimAct_of_held {s : State} {holder : Port} (held : s.claim = some holder) (p : Port) (bytes : List Byte) :
    claimAct p [] (s.driveLink p bytes) = ⟨s.driveLink p bytes, .claimed, enc1 holder.val⟩ := by
  rw [claimAct, withParams_some (a := ()) rfl, claimConfig, driveLink_claim, held]

theorem yieldAct_of_holder {s : State} {p : Port} (own : s.claim = some p) (bytes : List Byte) :
    yieldAct p [] (s.driveLink p bytes) = ⟨(s.setClaim none).driveLink p bytes, .ok, []⟩ := by
  rw [yieldAct, withParams_some (a := ()) rfl, yieldConfig, driveLink_claim, if_pos own]
  rfl

theorem yieldAct_of_other {s : State} {p : Port} (other : s.claim ≠ some p) (bytes : List Byte) :
    yieldAct p [] (s.driveLink p bytes) = (s.driveLink p bytes).refuse .noClaim := by
  rw [yieldAct, withParams_some (a := ()) rfl, yieldConfig, driveLink_claim, if_neg other]

/-- Settles O17, by who holds the claim. -/
theorem claimAndYield : Obligations.ClaimAndYield := by
  intro s p tag ready
  constructor
  · rw [exec_claim]
    cases holder : s.claim with
    | none =>
      exact congrArg _ (takeCommand_answered ready tag [] _ (claimAct_of_free holder p _) ready.joined)
    | some q => exact congrArg _ (takeCommand_answered ready tag [] _ (claimAct_of_held holder p _) ready.joined)
  · rw [exec_yieldClaim]
    split
    · next own => exact congrArg _ (takeCommand_answered ready tag [] _ (yieldAct_of_holder own _) ready.joined)
    · next other => rw [takeCommand_refused ready tag [] _ (yieldAct_of_other other _)]

/-! ### RESET_PART (R153) -/

theorem othersPresent_iff (s : State) (p : Port) (bytes : List Byte) :
    (s.driveLink p bytes).othersPresent p = true ↔ ∃ q, q ≠ p ∧ (s.port q).joined = true := by
  simp only [State.othersPresent, List.any_eq_true, Bool.and_eq_true, bne_iff_ne, driveLink_joined]
  exact ⟨fun ⟨q, _, h⟩ => ⟨q, h⟩, fun ⟨q, h⟩ => ⟨q, mem_allPorts q, h⟩⟩

/-- Settles O20, by the checks of R153 in their order. -/
theorem resetPartResets : Obligations.ResetPartResets := by
  intro s p tag ready
  have joined : ((s.driveLink p (commandEcho [])).port p).joined = true := by rw [driveLink_joined, ready.joined]
  rw [exec_resetPart, execResetPart, beginCommand_of_quiet ready.quiet]
  dsimp only
  rw [if_pos joined]
  dsimp only [parseNone]
  simp only [driveLink_claim, othersPresent_iff, ne_eq, ite_not]
  split
  · split
    · rw [finish_driveLink ready.joined, driveLink_renew_portStates ready.joined, renew_portStates ready.joined]
    · rw [State.hold, State.driveLink, modPort_modPort]
      rfl
  · rw [State.refuse, finish_driveLink ready.joined]

/-! ### MASK_NOTICES (R169) -/

theorem NoticeKind.mem_all (kind : NoticeKind) : kind ∈ NoticeKind.all := by
  cases kind <;> decide

theorem NoticeKind.nodup_all : NoticeKind.all.Nodup := by decide

theorem NoticeKind.isSome_ofCode {code : Nat} (low : 1 ≤ code) (high : code ≤ 19) : (NoticeKind.ofCode code).isSome = true := by
  have all : ∀ code : Fin 20, 1 ≤ code.val → (NoticeKind.ofCode code.val).isSome = true := by decide
  exact all ⟨code, by omega⟩ low

theorem NoticeKind.isSome_ofCode_iff (code : Nat) : (NoticeKind.ofCode code).isSome = true ↔ 1 ≤ code ∧ code ≤ 19 := by
  refine ⟨fun h => ?_, fun ⟨low, high⟩ => NoticeKind.isSome_ofCode low high⟩
  by_contra outside
  rw [NoticeKind.ofCode_of_outside (by omega)] at h
  cases h

/-- The mask that a list of code bytes names. -/
def maskKinds (codes : List Byte) : List NoticeKind := NoticeKind.all.filter fun k => (codes.map dec1).contains k.code

theorem mem_maskKinds (codes : List Byte) (k : NoticeKind) : k ∈ maskKinds codes ↔ ∃ code ∈ codes, k.code = code.toNat := by
  simp only [maskKinds, List.mem_filter, NoticeKind.mem_all, true_and, List.contains_iff_mem, List.mem_map, dec1]
  exact ⟨fun ⟨code, h, e⟩ => ⟨code, h, e.symm⟩, fun ⟨code, h, e⟩ => ⟨code, h, e.symm⟩⟩

theorem maskOf_eq (codes : List Byte) : maskOf (codes.map dec1) =
    if codes.length ≤ 19 ∧ ∀ code ∈ codes, 1 ≤ code.toNat ∧ code.toNat ≤ 19 then some (maskKinds codes) else none := by
  unfold maskOf
  simp only [List.length_map, List.all_eq_true, List.mem_map, NoticeKind.isSome_ofCode_iff, dec1,
    forall_exists_index, and_imp, forall_apply_eq_imp_iff₂]
  rfl

theorem parseMask_list {codes : List Byte} (fits : codes.length ≤ 255) :
    parseMask (BitVec.ofNat 8 codes.length :: codes) = some (codes.map dec1) := by
  have count : dec1 (BitVec.ofNat 8 codes.length) = codes.length := by
    rw [dec1, BitVec.toNat_ofNat]
    omega
  rw [parseMask, if_pos count.symm]

theorem exec_maskNotices (p : Port) (tag : Byte) (params : List Byte) (s : State) :
    exec (.maskNotices p tag params) s = .next (takeCommand p tag params (maskNoticesAct p params) s) := rfl

/-- The block reads the queue and the mask of its port, which the transfer leaves as they were. -/
theorem maskNotices_driveLink {codes : List Nat} {mask : List NoticeKind} (named : maskOf codes = some mask) (s : State)
    (p : Port) (bytes : List Byte) : maskNotices p codes (s.driveLink p bytes) =
      ((s.driveLink p bytes).modPort p fun r => ({ r with mask }).judgeAttn).answer
        (enc1 (s.port p).mask.length ++ ((s.port p).mask.flatMap fun k => enc1 k.code)
          ++ enc1 ((s.port p).queue.countP fun n => !mask.contains n.kind)) := by
  rw [maskNotices, named]
  dsimp only
  rw [driveLink_port_queue, driveLink_port_mask, encList]

/-- Settles O50: the list names a mask exactly where every byte is the code of a kind and there are at most 19. -/
theorem maskNoticesReplaces : Obligations.MaskNoticesReplaces := by
  intro s p tag codes ready fits params
  have parsed : parseMask params = some (codes.map dec1) := parseMask_list fits
  have named := maskOf_eq codes
  rw [exec_maskNotices]
  split
  · next legal =>
    rw [if_pos legal] at named
    refine ⟨maskKinds codes, mem_maskKinds codes, NoticeKind.nodup_all.filter _, ?_⟩
    have block : maskNoticesAct p params (s.driveLink p (commandEcho params)) = _ :=
      (withParams_some parsed (maskNotices p) _).trans (maskNotices_driveLink named s p _)
    rw [takeCommand_modPort ready tag params _ block (fun _ => rfl) fun _ => rfl]
    rfl
  · next illegal =>
    rw [if_neg illegal] at named
    rw [takeCommand_refused ready tag params _ (by rw [maskNoticesAct, withParams_some parsed, maskNotices, named])]

end Sys2Proof.Machine

/-! The highway's boundaries and hunt (R32 to R35): what a boundary, a stopped clock and a pulse of the hunt leave. -/

namespace Sys2Proof.Machine

/-! ### Boundaries and the stopped clock -/

theorem execFrameBoundary_of_locked {s : State} (quiet : s.quiet = true) (locked : s.highway.sync = .locked)
    (pulseAt pulseElsewhere : Bool) :
    execFrameBoundary pulseAt pulseElsewhere s = .next (s.judgeBoundary pulseAt pulseElsewhere) := by
  rw [execFrameBoundary, settle_of_quiet quiet]
  exact if_pos locked

theorem judgeBoundary_good (s : State) : s.judgeBoundary true false = s.modHighway fun h => { h with faultCount := 0 } := rfl

theorem judgeBoundary_first {s : State} {pulseAt pulseElsewhere : Bool} (fault : (pulseAt && !pulseElsewhere) = false)
    (first : s.highway.faultCount = 0) :
    s.judgeBoundary pulseAt pulseElsewhere = s.modHighway fun h => { h with faultCount := 1 } := by
  unfold State.judgeBoundary
  rw [if_neg (by rw [fault]; exact Bool.false_ne_true), if_pos first]

theorem judgeBoundary_second {s : State} {pulseAt pulseElsewhere : Bool} (fault : (pulseAt && !pulseElsewhere) = false)
    (second : s.highway.faultCount ≠ 0) :
    s.judgeBoundary pulseAt pulseElsewhere = s.loseSync (if pulseElsewhere then .misplaced else .missing) := by
  unfold State.judgeBoundary
  rw [if_neg (by rw [fault]; exact Bool.false_ne_true), if_neg second]

theorem execNoClock_of_quiet {s : State} (quiet : s.quiet = true) : execNoClock s =
    if s.highway.sync = .locked then .next (s.loseSync .noClock)
    else .next (s.modHighway fun h => { h with runCount := 0, runReference := false }) := by
  rw [execNoClock, settle_of_quiet quiet]
  cases s.highway.sync <;> rfl

/-- Settles O53: a boundary by the fault count it finds, the stopped clock by the sync state; a loss is `loseSync_lost`. -/
theorem boundaryJudged : Obligations.BoundaryJudged := by
  intro s quiet
  refine ⟨fun locked => ⟨?_, fun pulseAt pulseElsewhere fault => ⟨fun first => ?_, fun second => ?_⟩, ?_⟩, fun hunting => ?_⟩
  · rw [exec_frameBoundary, execFrameBoundary_of_locked quiet locked, judgeBoundary_good]
    rfl
  · rw [exec_frameBoundary, execFrameBoundary_of_locked quiet locked, judgeBoundary_first fault first]
    rfl
  · rw [exec_frameBoundary, execFrameBoundary_of_locked quiet locked, judgeBoundary_second fault second]
    exact ⟨_, rfl, loseSync_lost s _⟩
  · rw [exec_noClock, execNoClock_of_quiet quiet, if_pos locked]
    exact ⟨_, rfl, loseSync_lost s _⟩
  · rw [exec_noClock, execNoClock_of_quiet quiet, if_neg (by rw [hunting]; nofun)]
    rfl

/-! ### The hunt -/

/-- Beyond highway, channels and ports the lock changes nothing. -/
theorem lock_eq (s : State) : s.lock = { s with
    highway := { s.highway with sync := .locked, faultCount := 0, runCount := 0, runReference := false, epochFrames := 0 }
    channels := s.lock.channels, ports := s.lock.ports } := by
  obtain ⟨ports, e⟩ := broadcast_eq (s.modHighway fun h =>
    { h with sync := .locked, faultCount := 0, runCount := 0, runReference := false, epochFrames := 0 }).markHead
    ⟨.syncRestored, none, (min 65535 (s.timebase - s.highway.huntStart).toNat : Nat) :: halves s.highway.epochCounter⟩
  obtain ⟨channels, e'⟩ := markHead_eq (s.modHighway fun h =>
    { h with sync := .locked, faultCount := 0, runCount := 0, runReference := false, epochFrames := 0 })
  have shape : s.lock = { s with
    highway := { s.highway with sync := .locked, faultCount := 0, runCount := 0, runReference := false, epochFrames := 0 }
    channels := channels, ports := ports } := by
    unfold State.lock
    dsimp only
    exact e.trans (by rw [e']; rfl)
  rw [shape]

/-- Settles O54: a pulse moves the run count, and the one that brings it to 16 locks the highway. -/
theorem huntLocks : Obligations.HuntLocks := by
  intro s quiet hunting
  have pulse (spacing : Option Nat) : exec (.huntPulse spacing) s = .next (s.judgePulse spacing) := by
    rw [exec_huntPulse, execHuntPulse, settle_of_quiet quiet]
    exact if_pos hunting
  refine ⟨pulse none, fun clocks => ?_⟩
  dsimp only
  rw [pulse, judgePulse_some, State.runAfter]
  refine ⟨fun short => ?_, fun full => ?_⟩
  · rw [if_neg short]
    rfl
  · rw [if_pos full]
    have marked := markHead_within (s.modHighway fun h =>
      { h with sync := .locked, faultCount := 0, runCount := 0, runReference := false, epochFrames := 0 })
    refine ⟨_, rfl, ?_, ?_, fun q joined => ?_, fun n => ?_, ?_⟩
    · rw [lock_eq]
    · exact (marked.trans (broadcast_within _ _)).heard
    · exact told_broadcast (by rw [marked.heard.joined]; exact joined) _
    · have told := chan_broadcast (s.modHighway fun h =>
        { h with sync := .locked, faultCount := 0, runCount := 0, runReference := false, epochFrames := 0 }).markHead
        ⟨.syncRestored, none, (min 65535 (s.timebase - s.highway.huntStart).toNat : Nat) :: halves s.highway.epochCounter⟩ n
      exact ⟨_, told.trans (markHead_chan _ n)⟩
    · have shape := lock_eq s
      rw [shape]

end Sys2Proof.Machine

/-! A series of evictions (R132), what the lifetime judgment removes (R129), and the tick with the expiries before it (R38). -/

namespace Sys2Proof.Machine

/-! ### A series of evictions -/

theorem evictAll_cache (reason : EvictReason) (gone : List CacheEntry) (s : State) :
    (gone.foldl (State.evict reason) s).cache
      = s.cache.filter fun x => !gone.any fun e => decide (e.routeTag = x.routeTag) := by
  induction gone generalizing s with
  | nil => exact (List.filter_eq_self.2 fun _ _ => rfl).symm
  | cons e rest ih =>
    rw [List.foldl_cons, ih, evict_cache, List.filter_filter]
    refine List.filter_congr fun x _ => ?_
    rw [List.any_cons, Bool.not_or, Bool.and_comm]
    by_cases same : x.routeTag = e.routeTag
    · simp [same]
    · simp [same, Ne.symm same]

theorem evictAll_returns (reason : EvictReason) (gone : List CacheEntry) (s : State) :
    s.Returns (gone.foldl (State.evict reason) s) (gone.flatMap (·.segments)) := by
  induction gone generalizing s with
  | nil => exact .of_pool rfl
  | cons e rest ih =>
    rw [List.foldl_cons, List.flatMap_cons]
    exact (evict_returns reason s e).trans (ih _)

/-- Beyond cache, pool and ports a series of evictions changes nothing. -/
theorem evictAll_frame (reason : EvictReason) (gone : List CacheEntry) (s : State) :
    (gone.foldl (State.evict reason) s).mover = s.mover
      ∧ (gone.foldl (State.evict reason) s).parkCounter = s.parkCounter
      ∧ (gone.foldl (State.evict reason) s).pool.flag = s.pool.flag := by
  induction gone generalizing s with
  | nil => exact ⟨rfl, rfl, rfl⟩
  | cons e rest ih =>
    obtain ⟨-, -, -, mover, counter⟩ := evict_calls reason s e
    obtain ⟨mover', counter', flag'⟩ := ih (s.evict reason e)
    rw [List.foldl_cons]
    exact ⟨mover'.trans mover, counter'.trans counter, flag'.trans (evict_flag reason s e)⟩

/-! ### The lifetime judgment -/

/-- Of every tag whose entry has aged no entry is left. -/
theorem removeAged_cache (s : State) : s.removeAged.cache
    = s.cache.filter fun x => !(s.cache.filter s.aged).any fun e => decide (e.routeTag = x.routeTag) := by
  rw [removeAged_eq, evictAll_cache]

/-- Where no two entries have one tag, the aged ones alone leave. -/
theorem removeAged_cache_of_tags {s : State} (tags : (s.cache.map CacheEntry.routeTag).Nodup) :
    s.removeAged.cache = s.cache.filter fun e => !s.aged e := by
  rw [removeAged_cache]
  refine List.filter_congr fun x hx => congrArg _ ?_
  rw [Bool.eq_iff_iff, List.any_eq_true]
  constructor
  · rintro ⟨e, he, same⟩
    obtain ⟨held, aged⟩ := List.mem_filter.1 he
    rw [← List.inj_on_of_nodup_map tags held hx (of_decide_eq_true same)]
    exact aged
  · exact fun aged => ⟨x, List.mem_filter.2 ⟨hx, aged⟩, decide_eq_true rfl⟩

theorem removeAged_fresh (s : State) : ∀ e ∈ s.removeAged.cache, s.aged e = false := by
  intro e he
  rw [removeAged_cache] at he
  obtain ⟨held, kept⟩ := List.mem_filter.1 he
  by_contra aged
  rw [Bool.not_eq_false] at aged
  rw [Bool.not_eq_true', List.any_eq_false] at kept
  exact kept e (List.mem_filter.2 ⟨held, aged⟩) (decide_eq_true rfl)

theorem removeAged_of_fresh {s : State} (fresh : ∀ e ∈ s.cache, s.aged e = false) : s.removeAged = s := by
  rw [removeAged_eq, List.filter_eq_nil_iff.2 fun e he => by rw [fresh e he]; exact Bool.false_ne_true]
  rfl

theorem closeEvent_self {s : State} (granted : s.Granted) : s.closeEvent s = s := by
  rw [closeEvent_of_granted s granted, if_pos rfl]

theorem expireCache_of_fresh {s : State} (fresh : ∀ e ∈ s.cache, s.aged e = false) (granted : s.Granted) :
    s.expireCache = s := by
  rw [State.expireCache, removeAged_of_fresh fresh, closeEvent_self granted]

theorem aged_congr {s t : State} (config : t.config = s.config) (timebase : t.timebase = s.timebase) (e : CacheEntry) :
    t.aged e = s.aged e := by
  rw [State.aged, State.aged, config, timebase]

theorem expireCache_fresh (s : State) : ∀ e ∈ s.expireCache.cache, s.expireCache.aged e = false := by
  intro e he
  have within := expireCache_within s
  rw [aged_congr within.config within.timebase]
  rw [State.expireCache, closeEvent_cache] at he
  exact removeAged_fresh s e he

theorem mem_agedSegments (s : State) (x : Nat) :
    x ∈ (s.cache.filter s.aged).flatMap (·.segments) ↔ ∃ e ∈ s.cache, s.aged e = true ∧ x ∈ e.segments := by
  simp only [List.mem_flatMap, List.mem_filter, and_assoc]

/-- The judgment as an event: what it leaves of the calls and the stores. -/
theorem expireCache_returns (s : State) : s.Returns s.expireCache ((s.cache.filter s.aged).flatMap (·.segments)) := by
  rw [State.expireCache, removeAged_eq]
  exact (evictAll_returns .aged _ s).closeEvent s

theorem expireCache_judged (s : State) : s.PoolJudged s.expireCache := by
  rw [State.expireCache, removeAged_eq]
  have flag := (evictAll_frame .aged (s.cache.filter s.aged) s).2.2
  have within := removeAged_within s
  rw [removeAged_eq] at within
  exact closeEvent_judged s _ flag (by rw [within.config])

theorem expireCache_calls {s : State} (granted : s.Granted) :
    s.expireCache.channels = s.channels ∧ s.expireCache.players = s.players
      ∧ s.expireCache.probeQueue = s.probeQueue ∧ s.expireCache.mover = s.mover
      ∧ s.expireCache.parkCounter = s.parkCounter := by
  obtain ⟨channels, players, queue⟩ := evictAll_calls .aged (s.cache.filter s.aged) s
  obtain ⟨mover, counter, -⟩ := evictAll_frame .aged (s.cache.filter s.aged) s
  rw [State.expireCache, removeAged_eq]
  generalize (s.cache.filter s.aged).foldl (State.evict .aged) s = t at channels players queue mover counter ⊢
  obtain ⟨channels', players', queue'⟩ := closeEvent_calls_of_granted s (granted.congr queue players)
  exact ⟨channels'.trans channels, players'.trans players, queue'.trans queue, (closeEvent_mover s t).trans mover,
    (closeEvent_parkCounter s t).trans counter⟩

theorem expireCache_raised {s : State} (tags : (s.cache.map CacheEntry.routeTag).Nodup) {q : Port}
    (joined : (s.port q).joined = true) :
    s.Raised s.expireCache q [] (evictNotices 3 s.cache.length (s.cache.filter s.aged)) := by
  have evicted := evictAll_raised .aged (s.cache.filter s.aged) s joined tags
    (tags.sublist (List.filter_sublist.map _)) fun e he => List.mem_of_mem_filter he
  have closed := closeEvent_raised s ((s.cache.filter s.aged).foldl (State.evict .aged) s) (q := q) (by
    have within := removeAged_within s
    rw [removeAged_eq] at within
    rw [within.heard.joined]
    exact joined)
  have all := evicted.trans closed
  rw [List.append_nil, List.append_nil] at all
  exact all

/-- Settles O47: the event is the series of evictions of the aged entries (`removeAged_eq`) and its close. -/
theorem agedEntriesLeave : Obligations.AgedEntriesLeave := by
  intro s quiet granted aged
  have exec_eq : exec .cacheAged s = .next s.expireCache := by rw [exec_cacheAged, settle_of_quiet quiet]
  have same : ∀ e, s.aged e = aged e := fun _ => rfl
  obtain ⟨free, taps⟩ := expireCache_returns s
  simp only [mem_agedSegments, same] at free taps
  obtain ⟨channels, players, queue, mover, counter⟩ := expireCache_calls granted
  refine ⟨fun fresh => ?_, s.expireCache, exec_eq, expireCache_within s, fun tags => ⟨?_, fun q joined => ?_⟩, free, taps,
    expireCache_judged s, channels, players, queue, mover, counter⟩
  · rw [exec_eq, expireCache_of_fresh (fun e he => ?_) granted]
    exact (Bool.not_eq_true' _).mp (List.all_eq_true.1 fresh e he)
  · rw [State.expireCache, closeEvent_cache, removeAged_cache_of_tags tags]
    rfl
  · exact expireCache_raised tags joined

/-! ### What is due -/

theorem State.Heard.leaseDue {s t : State} (h : s.Heard t) (p : Port) : t.leaseDue p = s.leaseDue p := by
  obtain ⟨ns, heard⟩ := h p
  have lease : (t.port p).lease = (s.port p).lease := by
    rw [heard]
    split
    · exact (arriveAll_fields ns _).2.1
    · rfl
  rw [State.leaseDue, State.leaseDue, h.joined, lease]

/-- A channel of `t` has the state and the timers it has in `s`, or is VACANT or PROBING. -/
def State.Later (s t : State) : Prop :=
  ∀ n, ((t.chan n).state = (s.chan n).state ∧ (t.chan n).drainTimer = (s.chan n).drainTimer
      ∧ (t.chan n).holdTimer = (s.chan n).holdTimer ∧ (t.chan n).strandTimer = (s.chan n).strandTimer)
    ∨ (t.chan n).state = .vacant ∨ (t.chan n).state = .training .probing

theorem State.Later.of_chan {s t : State} (h : ∀ n, t.chan n = s.chan n) : s.Later t :=
  fun n => .inl (by rw [h]; exact ⟨rfl, rfl, rfl, rfl⟩)

theorem State.Later.trans {s t u : State} (h : s.Later t) (h' : t.Later u) : s.Later u := by
  intro n
  rcases h' n with ⟨state, drain, hold, strand⟩ | later
  · rcases h n with ⟨state', drain', hold', strand'⟩ | later
    · exact .inl ⟨state.trans state', drain.trans drain', hold.trans hold', strand.trans strand'⟩
    · exact .inr (later.imp state.trans state.trans)
  · exact .inr later

theorem State.KeepsCalls.later {s t : State} (h : s.KeepsCalls t) : s.Later t := by
  intro n
  obtain ⟨ring, rollback, marks, same⟩ := h.chan n
  rw [same]
  exact .inl ⟨rfl, rfl, rfl, rfl⟩

theorem closeEvent_later (s₀ s : State) : s.Later (s₀.closeEvent s) := by
  intro n
  rcases closeEvent_chan s₀ s n with same | ⟨k, granted⟩
  · rw [same]; exact .inl ⟨rfl, rfl, rfl, rfl⟩
  · rw [granted]; exact .inr (.inr rfl)

theorem stripped_later (s : State) (n : ChannelNo) : s.Later (s.stripped n) := by
  have aborted := (abortOrders_keeps s fun o => o.work.touches n).later
  refine aborted.trans (State.Later.trans (t := (s.abortOrders fun o => o.work.touches n).leaveQueue n)
    (.of_chan fun _ => rfl) fun m => ?_)
  rw [State.stripped, freePlayer_chan]
  split <;> exact .inl ⟨rfl, rfl, rfl, rfl⟩

theorem vacate_later (s : State) (n : ChannelNo) (park : Bool) : s.Later (s.vacate n park) := by
  intro m
  rw [vacate_chan]
  split
  · exact .inr (.inl rfl)
  · exact stripped_later s n m

/-- No drain, hold or strand timer of channel `n` stands at 0. -/
def State.Undue (s : State) (n : ChannelNo) : Prop := s.drainDue n = false ∧ s.holdDue n = false ∧ s.strandDue n = false

theorem undue_of_state {s : State} {n : ChannelNo} (h : (s.chan n).state = .vacant ∨ (s.chan n).state = .training .probing) :
    s.Undue n := by
  unfold State.Undue State.drainDue State.holdDue State.strandDue
  rcases h with state | state <;> rw [state] <;> exact ⟨rfl, rfl, rfl⟩

theorem State.Later.drainDue {s t : State} (h : s.Later t) {n : ChannelNo} (none : s.drainDue n = false) :
    t.drainDue n = false := by
  rcases h n with ⟨state, drain, -⟩ | later
  · rwa [State.drainDue, state, drain]
  · exact (undue_of_state later).1

theorem State.Later.holdDue {s t : State} (h : s.Later t) {n : ChannelNo} (none : s.holdDue n = false) :
    t.holdDue n = false := by
  rcases h n with ⟨state, -, hold, -⟩ | later
  · rwa [State.holdDue, state, hold]
  · exact (undue_of_state later).2.1

theorem State.Later.strandDue {s t : State} (h : s.Later t) {n : ChannelNo} (none : s.strandDue n = false) :
    t.strandDue n = false := by
  rcases h n with ⟨state, -, -, strand⟩ | later
  · rwa [State.strandDue, state, strand]
  · exact (undue_of_state later).2.2

/-- An event in which channel `n` becomes VACANT leaves nothing due at it. -/
theorem undue_of_vacated {s t : State} {n : ChannelNo} (vacant : (s.chan n).state = .vacant) (later : s.Later t) :
    t.Undue n := by
  have undue := undue_of_state (.inl vacant)
  exact ⟨later.drainDue undue.1, later.holdDue undue.2.1, later.strandDue undue.2.2⟩

theorem vacate_undue (s : State) (n : ChannelNo) (park : Bool) {t : State} (later : (s.vacate n park).Later t) :
    t.Undue n :=
  undue_of_vacated (by rw [vacate_chan, if_pos rfl]; rfl) later

theorem notifyLessee_later (s : State) (lessee : Option Port) (x : Notice) : s.Later (s.notifyLessee lessee x) := by
  refine .of_chan fun n => ?_
  cases lessee with
  | none => rfl
  | some p => exact chan_notify s p x n

/-! ### Each expiry -/

theorem expireLease_undue (s : State) (p : Port) :
    (s.expireLease p).leaseDue p = false ∧ ∀ q, s.leaseDue q = false → (s.expireLease p).leaseDue q = false := by
  unfold State.expireLease
  split
  · obtain ⟨own, others⟩ := losePort_port s p .lease
    have gone : (s.losePort p .lease).1.leaseDue p = false := by rw [State.leaseDue, own]; rfl
    refine ⟨gone, fun q none => ?_⟩
    by_cases same : q = p
    · rw [same]; exact gone
    · obtain ⟨ns, heard⟩ := others q same
      rw [State.leaseDue, heard]
      split
      · rw [arriveAll_joined, (arriveAll_fields ns _).2.1]; exact none
      · exact none
  · next idle => exact ⟨Bool.eq_false_iff.2 idle, fun _ none => none⟩

theorem dropExpired_later (s : State) (n : ChannelNo) (reason : DropReason) (was : Int) :
    s.Later (s.dropExpired n reason was) ∧ (s.dropExpired n reason was).Undue n := by
  have told : (s.vacate n false).Later (s.dropExpired n reason was) :=
    (closeEvent_later s _).trans (.of_chan fun m => chan_broadcast _ _ m)
  exact ⟨(vacate_later s n false).trans told, vacate_undue s n false told⟩

theorem expireDrain_undue (s : State) (n : ChannelNo) : s.Later (s.expireDrain n) ∧ (s.expireDrain n).drainDue n = false := by
  unfold State.expireDrain
  split
  · have told := (closeEvent_later s (s.completeRelease n)).trans (notifyLessee_later _ (s.chan n).lessee
      ⟨.released, some n, [if (s.chan n).parkEligible = some true then 0 else 1]⟩)
    exact ⟨(vacate_later s n _).trans told, (vacate_undue s n _ told).1⟩
  · next idle => exact ⟨.of_chan fun _ => rfl, Bool.eq_false_iff.2 idle⟩

theorem expireHold_undue (s : State) (n : ChannelNo) : (s.expireHold n).holdDue n = false
    ∧ ∀ m, (s.drainDue m = false → (s.expireHold n).drainDue m = false)
      ∧ (s.holdDue m = false → (s.expireHold n).holdDue m = false) := by
  unfold State.expireHold
  split
  · dsimp only
    split
    · obtain ⟨later, undue⟩ := dropExpired_later s n .holdExpired
        (((s.chan n).prior.map fun p => p.toCallState.item).getD absentItem)
      exact ⟨undue.2.1, fun m => ⟨later.drainDue, later.holdDue⟩⟩
    · have stranded : ((s.modChan n Channel.strand).chan n).state = .stranded := by rw [chan_modChan_self]; rfl
      have told (m : ChannelNo) := chan_broadcast (s.modChan n Channel.strand)
        ⟨.channelStranded, some n, [((s.chan n).policy.strandTime : Int), ((s.chan n).holdCount : Int)]⟩ m
      refine ⟨by rw [State.holdDue, told, stranded]; rfl, fun m => ?_⟩
      by_cases own : m = n
      · subst own
        constructor
        · intro _; rw [State.drainDue, told, stranded]; rfl
        · intro _; rw [State.holdDue, told, stranded]; rfl
      · have other : (s.modChan n Channel.strand).chan m = s.chan m := chan_modChan_of_ne s _ (Ne.symm own)
        constructor
        · intro none; rw [State.drainDue, told, other]; exact none
        · intro none; rw [State.holdDue, told, other]; exact none
  · next idle => exact ⟨Bool.eq_false_iff.2 idle, fun m => ⟨id, id⟩⟩

theorem expireStrand_undue (s : State) (n : ChannelNo) :
    s.Later (s.expireStrand n) ∧ (s.expireStrand n).strandDue n = false := by
  unfold State.expireStrand
  split
  · obtain ⟨later, undue⟩ := dropExpired_later s n .strandExpired absentItem
    exact ⟨later, undue.2.2⟩
  · next idle => exact ⟨.of_chan fun _ => rfl, Bool.eq_false_iff.2 idle⟩

/-- A series of updates each of which clears its own item and brings none back clears every item of the list. -/
theorem cleared_foldl {α : Type} {due : State → α → Bool} {f : State → α → State} (own : ∀ s a, due (f s a) a = false)
    (others : ∀ s a b, due s b = false → due (f s a) b = false) (items : List α) (s : State) :
    ∀ a ∈ items, due (items.foldl f s) a = false := by
  have kept (b : α) (rest : List α) : ∀ u : State, due u b = false → due (rest.foldl f u) b = false := by
    induction rest with
    | nil => exact fun _ none => none
    | cons a rest ih => exact fun u none => ih _ (others u a b none)
  induction items generalizing s with
  | nil => exact fun _ h => (nomatch h)
  | cons a rest ih =>
    intro b hb
    rcases List.mem_cons.1 hb with rfl | later
    · exact kept b rest _ (own s b)
    · exact ih _ b later

/-! ### All expiries -/

/-- After all expiries nothing is due. -/
structure State.Expired (u : State) : Prop where
  granted : u.Granted
  leases : ∀ p, u.leaseDue p = false
  drains : ∀ n, u.drainDue n = false
  holds : ∀ n, u.holdDue n = false
  strands : ∀ n, u.strandDue n = false
  fresh : ∀ e ∈ u.cache, u.aged e = false

theorem takeExpiries_expired (s : State) : s.takeExpiries.Expired := by
  have leases := cleared_foldl (due := State.leaseDue) (fun s p => (expireLease_undue s p).1)
    (fun s p q => (expireLease_undue s p).2 q) allPorts s
  unfold State.takeExpiries
  dsimp only
  generalize allPorts.foldl State.expireLease s = a at leases ⊢
  have drains := cleared_foldl (due := State.drainDue) (fun s n => (expireDrain_undue s n).2)
    (fun s n m => (expireDrain_undue s n).1.drainDue) allChannels a
  have heardDrains := (within_foldl _ expireDrain_within allChannels a).heard
  generalize allChannels.foldl State.expireDrain a = b at drains heardDrains ⊢
  have holds := cleared_foldl (due := State.holdDue) (fun s n => (expireHold_undue s n).1)
    (fun s n m => ((expireHold_undue s n).2 m).2) allChannels b
  have drains' : ∀ n, (allChannels.foldl State.expireHold b).drainDue n = false := fun n =>
    foldl_keeps (I := fun s => s.drainDue n = false) (fun m i => ((expireHold_undue _ m).2 n).1 i) allChannels
      (drains n (mem_allChannels n))
  have heardHolds := (within_foldl _ expireHold_within allChannels b).heard
  generalize allChannels.foldl State.expireHold b = c at holds drains' heardHolds ⊢
  have strands := cleared_foldl (due := State.strandDue) (fun s n => (expireStrand_undue s n).2)
    (fun s n m => (expireStrand_undue s n).1.strandDue) allChannels c
  have later : c.Later (allChannels.foldl State.expireStrand c) :=
    foldl_keeps (I := c.Later) (fun m i => i.trans (expireStrand_undue _ m).1) allChannels (.of_chan fun _ => rfl)
  have heardStrands := (within_foldl _ expireStrand_within allChannels c).heard
  generalize allChannels.foldl State.expireStrand c = d at strands later heardStrands ⊢
  have close : d.Later d.expireCache := by
    rw [State.expireCache, removeAged_eq]
    refine State.Later.trans (.of_chan fun n => ?_) (closeEvent_later d _)
    rw [State.chan, (evictAll_calls .aged _ d).1]
    rfl
  have heardCache := (expireCache_within d).heard
  exact {
    granted := closeEvent_granted d _
    leases := fun p => by
      rw [heardCache.leaseDue, heardStrands.leaseDue, heardHolds.leaseDue, heardDrains.leaseDue]
      exact leases p (mem_allPorts p)
    drains := fun n => (later.trans close).drainDue (drains' n)
    holds := fun n => (later.trans close).holdDue (holds n (mem_allChannels n))
    strands := fun n => close.strandDue (strands n (mem_allChannels n))
    fresh := expireCache_fresh d }

/-- A series of updates none of which comes about. -/
theorem foldl_idle {α : Type} {f : State → α → State} {s : State} (items : List α) (idle : ∀ a ∈ items, f s a = s) :
    items.foldl f s = s := by
  induction items with
  | nil => rfl
  | cons a rest ih =>
    rw [List.foldl_cons, idle a List.mem_cons_self]
    exact ih fun b hb => idle b (List.mem_cons_of_mem a hb)

theorem takeExpiries_of_expired {u : State} (h : u.Expired) : u.takeExpiries = u := by
  have skip {due : Bool} (none : due = false) : ¬due = true := by rw [none]; exact Bool.false_ne_true
  have leases : allPorts.foldl State.expireLease u = u := foldl_idle _ fun p _ => if_neg (skip (h.leases p))
  have drains : allChannels.foldl State.expireDrain u = u := foldl_idle _ fun n _ => if_neg (skip (h.drains n))
  have holds : allChannels.foldl State.expireHold u = u := foldl_idle _ fun n _ => if_neg (skip (h.holds n))
  have strands : allChannels.foldl State.expireStrand u = u := foldl_idle _ fun n _ => if_neg (skip (h.strands n))
  unfold State.takeExpiries
  dsimp only
  rw [leases, drains, holds, strands, expireCache_of_fresh h.fresh h.granted]

theorem losePort_timebase (s : State) (p : Port) (reason : LossReason) : (s.losePort p reason).1.timebase = s.timebase := by
  obtain ⟨-, -, -, -, -, timebase⟩ := losePort_frame s p reason
  exact timebase

theorem takeExpiries_timebase (s : State) : s.takeExpiries.timebase = s.timebase := by
  have leases : (allPorts.foldl State.expireLease s).timebase = s.timebase := by
    refine foldl_keeps (I := fun u => u.timebase = s.timebase) (fun {u} p i => ?_) allPorts rfl
    unfold State.expireLease
    split
    · exact (losePort_timebase u p .lease).trans i
    · exact i
  unfold State.takeExpiries
  dsimp only
  generalize allPorts.foldl State.expireLease s = a at leases ⊢
  have rest := (((within_foldl _ expireDrain_within allChannels a).trans (within_foldl _ expireHold_within allChannels _)).trans
    (within_foldl _ expireStrand_within allChannels _)).trans (expireCache_within _)
  exact rest.timebase.trans leases

theorem tickTimer_eq (timer : Option Nat) : tickTimer timer = timer.map fun k => k - 1 := by
  cases timer <;> rfl

/-- Settles O57: the expiries clear what is due (`takeExpiries_expired`), and the tick moves count and timers. -/
theorem tickCounts : Obligations.TickCounts := by
  intro s quiet
  have exec_eq : exec .timebaseTick s = .next s.takeExpiries.tick := by rw [exec_timebaseTick, settle_of_quiet quiet]
  have counted (u : State) : u.tick.timebase = u.timebase + 1 := congrArg State.timebase (tick_eq u)
  refine ⟨⟨_, exec_eq, ?_⟩, ?_, fun leases timers fresh granted => ?_⟩
  · rw [counted, takeExpiries_timebase]
  · have expired := takeExpiries_expired s
    refine ⟨expired.granted, expired.leases, fun n => ⟨expired.drains n, expired.holds n, expired.strands n⟩, expired.fresh,
      fun later => ?_⟩
    rw [exec_eq, exec_timebaseTick, settle_of_quiet later]
    exact congrArg (fun u => Host.Outcome.next (State.tick u)) (takeExpiries_of_expired expired).symm
  · have idle := takeExpiries_of_expired (u := s) ⟨granted, leases, fun n => (timers n).1, fun n => (timers n).2.1,
      fun n => (timers n).2.2, fresh⟩
    refine ⟨s.tick, by rw [exec_eq, idle], counted s, fun p => ?_, fun n => ?_, ?_⟩
    · rw [tick_port, PortRecord.tick, tickTimer_eq]
    · rw [tick_chan, Channel.tick, tickTimer_eq, tickTimer_eq, tickTimer_eq]
    · have shape := tick_eq s
      rw [counted]
      exact shape

end Sys2Proof.Machine

/-! The acceptance of a command (R177, R10) and what every command taken from a joined port leaves at the ports (R137, R172,
R175). -/

namespace Sys2Proof.Machine

/-! ### Ports after a command -/

/-- Link state, lease, held response and LINK DO are those of another record. -/
structure PortRecord.SameLink (r r' : PortRecord) : Prop where
  link : r'.link = r.link
  lease : r'.lease = r.lease
  held : r'.held = r.held
  linkOut : r'.linkOut = r.linkOut

theorem PortRecord.SameLink.refl (r : PortRecord) : r.SameLink r := ⟨rfl, rfl, rfl, rfl⟩

theorem State.Heard.sameLink {s t : State} (h : s.Heard t) (q : Port) : (s.port q).SameLink (t.port q) := by
  obtain ⟨ns, heard⟩ := h q
  rw [heard]
  split
  · obtain ⟨link, lease, -, held, linkOut⟩ := arriveAll_fields ns (s.port q)
    exact ⟨link, lease, held, linkOut⟩
  · exact .refl _

/-- A block touches no link state, no lease, no held response and no LINK DO. -/
theorem acts_sameLink {s u : State} {p : Port} (acts : s.Acts p u) (q : Port) : (s.port q).SameLink (u.port q) := by
  obtain within | ⟨f, fields, -, rfl⟩ | ⟨-, rfl⟩ | rfl | ⟨items, -, within⟩ := acts_cases acts
  · exact within.heard.sameLink q
  · rw [port_modPort]
    split
    · next own =>
      subst own
      obtain ⟨link, lease, held, linkOut⟩ := fields
      exact ⟨link, lease, held, linkOut⟩
    · exact .refl _
  · exact .refl _
  · exact .refl _
  · exact within.heard.sameLink q

/-- What the end of a command leaves at the ports, where its block has touched only notices of them. -/
theorem finish_renews {s : State} {p : Port} {r : Reply} {params : List Byte} (joined : (s.port p).joined = true)
    (same : ∀ q, ((s.driveLink p (commandEcho params)).port q).SameLink (r.state.port q)) (tag : Byte) :
    let t := r.finish p tag
    (t.port p).link = .live ∧ (t.port p).lease = some t.config.leasePeriod
      ∧ (t.port p).held = some ⟨r.status, tag, r.payload⟩
      ∧ (t.port p).linkOut = commandEcho params
      ∧ ∀ q, q ≠ p → (t.port q).link = (s.port q).link ∧ (t.port q).lease = (s.port q).lease
          ∧ (t.port q).held = (s.port q).held ∧ (t.port q).linkOut = (s.port q).linkOut := by
  intro t
  have joined' : (r.state.port p).joined = true := by
    rw [PortRecord.joined, (same p).link, ← PortRecord.joined, driveLink_joined]
    exact joined
  have own := finish_port joined' tag
  have config : t.config = r.state.config := (finish_frame r p tag).2.2.2.1
  refine ⟨by rw [own], by rw [own, config], by rw [own], ?_, fun q other => ?_⟩
  · rw [own]
    refine (same p).linkOut.trans ?_
    rw [State.driveLink, port_modPort_self]
  · have others : (s.driveLink p (commandEcho params)).port q = s.port q := port_modPort_of_ne _ _ (Ne.symm other)
    have kept := same q
    rw [others] at kept
    rw [finish_port_of_ne r (Ne.symm other)]
    exact ⟨kept.link, kept.lease, kept.held, kept.linkOut⟩

theorem execJoin_of_joined {s : State} {p : Port} (ready : s.Ready p) (tag : Byte) (params : List Byte) :
    exec (.join p tag params) s = .next (((s.driveLink p (commandEcho params)).refuse .wrongState).finish p tag) := by
  rw [exec_join, execJoin, beginCommand_of_quiet ready.quiet]
  dsimp only
  rw [if_pos (by rw [driveLink_joined]; exact ready.joined)]

theorem commandEcho_eq (params : List Byte) : commandEcho params = List.replicate (params.length + 4) 0xFF := rfl

/-- Settles O10: a block touches no more of the ports than their notices (`acts_sameLink`), and the end of the command
renews and answers (`finish_renews`). -/
theorem takenCommandRenews : Obligations.TakenCommandRenews := by
  intro c s p tag params frame notLeave notReset ready
  obtain ⟨act, block⟩ | rfl | rfl | rfl := block_or_port_command frame
  · have acts := block_acts frame block (s.driveLink p (commandEcho params))
    refine ⟨_, _, _, ?_, finish_renews (params := params) ready.joined (acts_sameLink acts) tag⟩
    rw [exec_of_block frame block, takeCommand_of_joined ready.quiet ready.joined]
  · exact ⟨_, _, _, execJoin_of_joined ready tag params,
      finish_renews (r := (s.driveLink p (commandEcho params)).refuse .wrongState) ready.joined
        (fun q => PortRecord.SameLink.refl _) tag⟩
  · exact absurd rfl notLeave
  · exact absurd rfl notReset

/-! ### Steps 1 to 3 of R177 -/

theorem none_of_unread {α : Type} {o : Option α} (h : o.isSome = false) : o = none :=
  Option.isNone_iff_eq_none.1 (Option.isSome_eq_false_iff.1 h)

theorem hold_absent (s : State) (p : Port) (params : List Byte) (r : Response) :
    (s.driveLink p (commandEcho params)).hold p r = s.answeredAbsent p params r := by
  rw [hold_driveLink]
  rfl

/-- Bytes that are not as many as a block takes are refused BAD_PARAM. -/
theorem block_unreadable {c : Instr} {p : Port} {tag : Byte} {params : List Byte} {act : State → Reply}
    (frame : frameOf c = some (p, tag, params)) (block : blockOf c = some act) (unread : paramsReadable c = false)
    (s : State) : act s = s.refuse .badParam := by
  cases c <;> cases block <;> cases frame
  all_goals exact withParams_none (none_of_unread unread) _ s

theorem exec_leave_of_absent {s : State} {p : Port} (quiet : s.quiet = true) (absent : (s.port p).joined = false)
    (tag : Byte) (params : List Byte) :
    exec (.leave p tag params) s = .next (s.answeredAbsent p params ⟨.notJoined, tag, []⟩) := by
  rw [exec_leave, execLeave, beginCommand_of_quiet quiet]
  dsimp only
  rw [if_neg (by rw [driveLink_joined, absent]; exact Bool.false_ne_true), hold_absent]

theorem exec_resetPart_of_absent {s : State} {p : Port} (quiet : s.quiet = true) (absent : (s.port p).joined = false)
    (tag : Byte) (params : List Byte) :
    exec (.resetPart p tag params) s = .next (s.answeredAbsent p params ⟨.notJoined, tag, []⟩) := by
  rw [exec_resetPart, execResetPart, beginCommand_of_quiet quiet]
  rw [if_neg (by rw [driveLink_joined, absent]; exact Bool.false_ne_true), hold_absent]

theorem exec_leave_unreadable {s : State} {p : Port} (ready : s.Ready p) {params : List Byte}
    (unread : parseNone params = none) (tag : Byte) :
    exec (.leave p tag params) s = .next (s.answered p params ⟨.badParam, tag, []⟩) := by
  rw [exec_leave, execLeave, beginCommand_of_quiet ready.quiet]
  dsimp only
  rw [if_pos (by rw [driveLink_joined]; exact ready.joined), unread, State.refuse, finish_driveLink ready.joined]

theorem exec_resetPart_unreadable {s : State} {p : Port} (ready : s.Ready p) {params : List Byte}
    (unread : parseNone params = none) (tag : Byte) :
    exec (.resetPart p tag params) s = .next (s.answered p params ⟨.badParam, tag, []⟩) := by
  rw [exec_resetPart, execResetPart, beginCommand_of_quiet ready.quiet]
  rw [if_pos (by rw [driveLink_joined]; exact ready.joined), unread, State.refuse, finish_driveLink ready.joined]

/-- Step 1: a code that is not in the table. -/
theorem exec_unknownCommand_of_quiet {s : State} {p : Port} {code : Byte} (quiet : s.quiet = true)
    (outside : codeInTable code = false) (nonzero : code ≠ 0) (tag : Byte) (params : List Byte) :
    exec (.unknownCommand p code tag params) s = .next
      (if (s.port p).joined then s.answered p params ⟨.unknownCommand, tag, []⟩
       else s.answeredAbsent p params ⟨.unknownCommand, tag, []⟩) := by
  rw [exec_unknownCommand, execUnknownCommand, beginCommand_of_quiet quiet]
  simp only [outside, nonzero, Bool.false_eq_true, or_self, if_false]
  split
  · next joined => rw [State.refuse, finish_driveLink joined]
  · next absent =>
    have still : ¬((s.driveLink p (commandEcho params)).port p).joined = true := by rwa [driveLink_joined]
    rw [State.refuse, Reply.finish, State.renew, if_neg still, hold_absent]

/-- Step 2: a port in ABSENT. -/
theorem exec_of_absent {c : Instr} {s : State} {p : Port} {tag : Byte} {params : List Byte}
    (frame : frameOf c = some (p, tag, params)) (notJoin : c ≠ .join p tag params) (quiet : s.quiet = true)
    (absent : (s.port p).joined = false) : exec c s = .next (s.answeredAbsent p params ⟨.notJoined, tag, []⟩) := by
  obtain ⟨act, block⟩ | rfl | rfl | rfl := block_or_port_command frame
  · rw [exec_of_block frame block, takeCommand_of_absent quiet absent]
  · exact absurd rfl notJoin
  · exact exec_leave_of_absent quiet absent tag params
  · exact exec_resetPart_of_absent quiet absent tag params

/-- Step 3: parameter bytes that are not as many as the command takes. -/
theorem exec_of_unreadable {c : Instr} {s : State} {p : Port} {tag : Byte} {params : List Byte}
    (frame : frameOf c = some (p, tag, params)) (ready : s.Ready p) (unread : paramsReadable c = false) :
    exec c s = .next (s.answered p params ⟨if c = .join p tag params then .wrongState else .badParam, tag, []⟩) := by
  obtain ⟨act, block⟩ | rfl | rfl | rfl := block_or_port_command frame
  · have notJoin : c ≠ .join p tag params := fun join => by rw [join] at block; cases block
    rw [exec_of_block frame block, if_neg notJoin,
      takeCommand_refused ready tag params act (block_unreadable frame block unread _)]
  · rw [execJoin_of_joined ready, if_pos rfl, State.refuse, finish_driveLink ready.joined]
  · rw [exec_leave_unreadable ready (none_of_unread unread), if_neg nofun]
  · rw [exec_resetPart_unreadable ready (none_of_unread unread), if_neg nofun]

theorem exec_join_unreadable {s : State} {p : Port} {params : List Byte} (quiet : s.quiet = true)
    (absent : (s.port p).joined = false) (more : params ≠ []) (tag : Byte) :
    exec (.join p tag params) s = .next (s.answeredAbsent p params ⟨.badParam, tag, []⟩) := by
  have unread : parseNone params = none := by
    cases params with
    | nil => exact absurd rfl more
    | cons => rfl
  rw [exec_join, execJoin, beginCommand_of_quiet quiet]
  dsimp only
  rw [if_neg (by rw [driveLink_joined, absent]; exact Bool.false_ne_true), unread]
  dsimp only
  rw [hold_absent]

/-! ### The checks of R10 -/

theorem withChannel_bad {k : Nat} (big : 48 ≤ k) (act : ChannelNo → State → Reply) (s : State) :
    withChannel k act s = s.refuse .badChannel := by
  rw [withChannel, channelOf_of_le big]

/-- A lessee command is its block at the channel that its parameters name. -/
theorem block_lessee {c : Instr} {p : Port} {tag : Byte} {params : List Byte} {k : Nat}
    (frame : frameOf c = some (p, tag, params)) (names : lesseeChannelOf c = some k) :
    ∃ act f, blockOf c = some act ∧ ∀ u, act u = withLessee p k f u := by
  cases c <;> cases frame
  case release => exact ⟨_, releaseChannel, rfl, withParams_some names _⟩
  case clearHolds => exact ⟨_, clearHoldsChannel, rfl, withParams_some names _⟩
  case pauseProbe => exact ⟨_, pauseChannel, rfl, withParams_some names _⟩
  case resumeProbe => exact ⟨_, resumeChannel, rfl, withParams_some names _⟩
  case snapshot => exact ⟨_, snapshotChannel p tag, rfl, withParams_some names _⟩
  case retrain =>
    obtain ⟨a, parsed, rfl⟩ := Option.map_eq_some_iff.1 names
    exact ⟨_, retrainChannel a.2, rfl, withParams_some parsed _⟩
  case restore =>
    obtain ⟨a, parsed, rfl⟩ := Option.map_eq_some_iff.1 names
    exact ⟨_, restoreChannel p tag a.2, rfl, withParams_some parsed _⟩
  case dropSnapshot =>
    obtain ⟨a, parsed, rfl⟩ := Option.map_eq_some_iff.1 names
    exact ⟨_, dropChannelSnapshot a.2, rfl, withParams_some parsed _⟩
  case adapt =>
    obtain ⟨a, parsed, rfl⟩ := Option.map_eq_some_iff.1 names
    exact ⟨_, adaptChannelBudget a.2, rfl, withParams_some parsed _⟩
  case setPolicy =>
    obtain ⟨a, parsed, rfl⟩ := Option.map_eq_some_iff.1 names
    exact ⟨_, setPolicyChannel a.2, rfl, withParams_some parsed _⟩
  all_goals cases names

theorem exec_query (p : Port) (tag : Byte) (params : List Byte) (s : State) :
    exec (.query p tag params) s = .next (takeCommand p tag params (queryAct params) s) := rfl

theorem exec_adopt (p : Port) (tag : Byte) (params : List Byte) (s : State) :
    exec (.adopt p tag params) s = .next (takeCommand p tag params (adoptAct p params) s) := rfl

theorem exec_readTaps (p : Port) (tag : Byte) (params : List Byte) (s : State) :
    exec (.readTaps p tag params) s = .next (takeCommand p tag params (readTapsAct params) s) := rfl

/-- Settles O9: steps 1 to 3 of R177, and the checks of R10 by what the command's parameters name. -/
theorem acceptanceChecks : Obligations.AcceptanceChecks := by
  refine ⟨fun s p code tag params quiet outside nonzero => exec_unknownCommand_of_quiet quiet outside nonzero tag params,
    fun c s p tag params frame notJoin quiet absent => exec_of_absent frame notJoin quiet (not_joined_of_absent absent),
    fun c s p tag params frame ready unread => exec_of_unreadable frame ready unread,
    fun s p tag params quiet absent more => exec_join_unreadable quiet (not_joined_of_absent absent) more tag,
    fun s p tag b ready big => ⟨?_, ?_, fun copy bank firstHi firstLo count => ?_⟩,
    fun c s p tag params k frame names ready => ?_⟩
  · rw [exec_query, takeCommand_refused ready tag [b] (queryAct [b]) (withChannel_bad big _ _)]
  · rw [exec_adopt, takeCommand_refused ready tag [b] (adoptAct p [b]) (withChannel_bad big _ _)]
  · intro params
    rw [exec_readTaps, takeCommand_refused ready tag params (readTapsAct params) (withChannel_bad big _ _)]
  · obtain ⟨act, f, block, checked⟩ := block_lessee frame names
    rw [exec_of_block frame block]
    refine ⟨fun big => ?_, fun n own => ⟨fun none => ?_, fun q other ne => ?_⟩⟩
    · rw [takeCommand_refused ready tag params act ((checked _).trans (withChannel_bad big _ _))]
    · subst own
      rw [takeCommand_refused ready tag params act ((checked _).trans (withLessee_of_none (by simpa using none) p f))]
    · subst own
      rw [takeCommand_refused ready tag params act
        ((checked _).trans (withLessee_of_other (by simpa using other) ne f))]

end Sys2Proof.Machine

/-! Parking (R125): the entries that leave to make room, their segments and notices, and what a release that parks leaves; with
it the expiries of the hold, strand and drain timers (R18, R145, R146). -/

namespace Sys2Proof.Machine

/-! ### Notices to one port -/

theorem told_notifyLessee {s : State} {p : Port} (joined : (s.port p).joined = true) (x : Notice) :
    ((s.notifyLessee (some p) x).port p).Told x := by
  show ((s.notify p x).port p).Told x
  rw [port_notify, if_pos ⟨rfl, joined⟩]
  exact told_arrive _ _

theorem told_notifyLessee_of_ne {s : State} {q : Port} {n : Notice} (h : (s.port q).Told n) (lessee : Option Port)
    {x : Notice} (ne : x.key ≠ n.key) : ((s.notifyLessee lessee x).port q).Told n := by
  cases lessee with
  | none => exact h
  | some p =>
    show ((s.notify p x).port q).Told n
    rw [port_notify]
    split
    · exact told_arrive_of_ne h ne
    · exact h

theorem notifyLessee_raises_none (s : State) (lessee : Option Port) {q : Port} {x : Notice} (done : x.kind ≠ .moveDone)
    (evicted : x.kind ≠ .cacheEvicted) : s.Raised (s.notifyLessee lessee x) q [] [] := by
  cases lessee with
  | none => exact .of_port rfl
  | some p =>
    by_cases heard : p = q ∧ (s.port q).joined = true
    · have arrives : (s.notifyLessee (some p) x).port q = (s.port q).arrive x := (port_notify s p q x).trans (if_pos heard)
      have raised := State.Raised.of_arrive arrives
      rwa [if_neg done, if_neg evicted] at raised
    · exact .of_port ((port_notify s p q x).trans (if_neg heard))

/-- A later notice of another kind leaves the judgment of the pool as it was. -/
theorem State.PoolJudged.notifyLessee {s t : State} (h : s.PoolJudged t) (lessee : Option Port) {x : Notice}
    (low : x.kind ≠ .poolLow) (recovered : x.kind ≠ .poolRecovered) : s.PoolJudged (t.notifyLessee lessee x) := by
  have joined (q : Port) := (notifyLessee_within t lessee x).heard.joined q
  refine ⟨by rw [notifyLessee_pool, notifyLessee_config]; exact h.flag, fun normal isLow q j => ?_,
    fun isLow normal q j => ?_⟩
  · rw [notifyLessee_pool] at isLow ⊢
    rw [notifyLessee_config]
    rw [joined] at j
    exact told_notifyLessee_of_ne (h.low normal isLow q j) lessee (key_ne_of_kind_ne low)
  · rw [notifyLessee_pool] at normal ⊢
    rw [notifyLessee_config]
    rw [joined] at j
    exact told_notifyLessee_of_ne (h.recovered isLow normal q j) lessee (key_ne_of_kind_ne recovered)

theorem State.Vacated.notifyLessee {s t : State} {n : ChannelNo} (h : s.Vacated t n) (lessee : Option Port) {x : Notice}
    (low : x.kind ≠ .poolLow) (recovered : x.kind ≠ .poolRecovered) (done : x.kind ≠ .moveDone)
    (evicted : x.kind ≠ .cacheEvicted) : s.Vacated (t.notifyLessee lessee x) n where
  within := h.within.trans (notifyLessee_within _ _ _)
  chan := by rw [chan_notifyLessee]; exact h.chan
  others m ne := by rw [chan_notifyLessee]; exact h.others m ne
  orders := by rw [notifyLessee_mover]; exact h.orders
  unqueued := by rw [notifyLessee_probeQueue]; exact h.unqueued
  free := by rw [notifyLessee_pool]; exact h.free
  taps := by rw [notifyLessee_pool]; exact h.taps
  cache := by rw [notifyLessee_cache]; exact h.cache
  parkCounter := by rw [notifyLessee_parkCounter]; exact h.parkCounter
  judged := h.judged.notifyLessee lessee low recovered
  told q j := by
    have all := (h.told q j).trans (notifyLessee_raises_none t lessee (q := q) done evicted)
    rwa [List.append_nil, List.append_nil] at all

/-! ### Hold and strand expiry -/

theorem expireHold_of_due {s : State} {n : ChannelNo} (state : (s.chan n).state = .orphaned)
    (timer : (s.chan n).holdTimer = some 0) : s.expireHold n =
    if (s.chan n).policy.strandTime = 0 then
      s.dropExpired n .holdExpired (((s.chan n).prior.map fun p => p.toCallState.item).getD absentItem)
    else (s.modChan n Channel.strand).broadcast
      ⟨.channelStranded, some n, [((s.chan n).policy.strandTime : Int), ((s.chan n).holdCount : Int)]⟩ := by
  have due : s.holdDue n = true := by rw [State.holdDue, state, timer]; rfl
  rw [State.expireHold, if_pos due]

theorem expireStrand_of_due {s : State} {n : ChannelNo} (state : (s.chan n).state = .stranded)
    (timer : (s.chan n).strandTimer = some 0) : s.expireStrand n = s.dropExpired n .strandExpired absentItem := by
  have due : s.strandDue n = true := by rw [State.strandDue, state, timer]; rfl
  rw [State.expireStrand, if_pos due]

theorem dropExpired_vacated (s : State) (n : ChannelNo) (reason : DropReason) (was : Int) :
    s.Vacated (s.dropExpired n reason was) n ∧ ∀ q, (s.port q).joined = true →
      ((s.dropExpired n reason was).port q).Told (channelDropped n reason was (s.chan n).holdCount) := by
  have vacated := vacate_vacated s n
  rw [State.dropExpired]
  generalize s.vacate n false = u at vacated ⊢
  generalize named : channelDropped n reason was (s.chan n).holdCount = x
  have kind : x.kind = .channelDropped := by rw [← named]; rfl
  refine ⟨vacated.broadcast x ?_ ?_ ?_ ?_, fun q joined => ?_⟩
  · rw [kind]; decide
  · rw [kind]; decide
  · rw [kind]; decide
  · rw [kind]; decide
  · exact told_broadcast (by rw [vacated.within.heard.joined]; exact joined) x

/-- Settles O14: a drop is `dropExpired_vacated`, a stranding one change of the record and its broadcast. -/
theorem holdAndStrandExpiry : Obligations.HoldAndStrandExpiry := by
  intro s n quiet
  refine ⟨fun state timer => ?_, fun state timer => ?_⟩
  · have exec_eq : exec (.holdExpiry n) s = .next (s.expireHold n) := by rw [exec_holdExpiry, settle_of_quiet quiet]
    rw [exec_eq, expireHold_of_due state timer]
    split
    · exact ⟨_, rfl, dropExpired_vacated s n _ _⟩
    · rfl
  · have exec_eq : exec (.strandExpiry n) s = .next (s.expireStrand n) := by rw [exec_strandExpiry, settle_of_quiet quiet]
    rw [exec_eq, expireStrand_of_due state timer]
    exact ⟨_, rfl, dropExpired_vacated s n _ _⟩

/-! ### The room for a parking entry (R125) -/

/-- The entry that leaves a full cache. -/
def roomMade (entries : List CacheEntry) : List CacheEntry := if 16 ≤ entries.length then entries.take 1 else []

/-- The entries left of a cache once there is room. -/
def roomLeft (entries : List CacheEntry) : List CacheEntry :=
  match entries with
  | oldest :: _ => if 16 ≤ entries.length then entries.filter fun e => e.routeTag ≠ oldest.routeTag else entries
  | [] => []

/-- The entry under a route tag, as a list. -/
def sameTag (entries : List CacheEntry) (tag : Nat) : List CacheEntry := (entries.find? fun e => e.routeTag == tag).toList

theorem evictSame_eq (s : State) (tag : Nat) : s.evictSame tag = (sameTag s.cache tag).foldl (State.evict .replaced) s := by
  unfold State.evictSame State.cacheEntry? sameTag
  cases s.cache.find? fun e => e.routeTag == tag with
  | none => rfl
  | some e => rw [Option.toList_some, List.foldl_cons, List.foldl_nil]

theorem makeRoom_eq (s : State) : s.makeRoom = (roomMade s.cache).foldl (State.evict .full) s := by
  unfold State.makeRoom roomMade
  cases s.cache with
  | nil => rfl
  | cons oldest rest =>
    dsimp only
    by_cases full : 16 ≤ (oldest :: rest).length
    · rw [if_pos full, if_pos full, List.take_succ_cons, List.take_zero, List.foldl_cons, List.foldl_nil]
    · rw [if_neg full, if_neg full, List.foldl_nil]

theorem sameTag_eq_filter {entries : List CacheEntry} (tags : (entries.map CacheEntry.routeTag).Nodup) (tag : Nat) :
    sameTag entries tag = entries.filter fun e => e.routeTag = tag := by
  unfold sameTag
  cases found : entries.find? fun e => e.routeTag == tag with
  | none =>
    have none := List.find?_eq_none.1 found
    exact (List.filter_eq_nil_iff.2 fun e he same => none e he (beq_iff_eq.2 (of_decide_eq_true same))).symm
  | some e =>
    have own : e.routeTag = tag := beq_iff_eq.1 (List.find?_some (p := fun e : CacheEntry => e.routeTag == tag) found)
    have alone := filter_key_of_mem CacheEntry.routeTag tags (List.mem_of_find?_eq_some found)
    rw [own] at alone
    exact alone.symm

theorem evictSame_cache (s : State) (tag : Nat) : (s.evictSame tag).cache = s.cache.filter fun e => e.routeTag ≠ tag := by
  rw [evictSame_eq, evictAll_cache]
  unfold sameTag
  cases found : s.cache.find? fun e => e.routeTag == tag with
  | none =>
    have none := List.find?_eq_none.1 found
    refine List.filter_congr fun x hx => ?_
    have other : x.routeTag ≠ tag := fun same => none x hx (beq_iff_eq.2 same)
    simp [other]
  | some e =>
    have own : e.routeTag = tag := beq_iff_eq.1 (List.find?_some (p := fun e : CacheEntry => e.routeTag == tag) found)
    refine List.filter_congr fun x _ => ?_
    simp [own, eq_comm]

theorem makeRoom_cache (s : State) : s.makeRoom.cache = roomLeft s.cache := by
  unfold State.makeRoom roomLeft
  cases first : s.cache with
  | nil => exact first
  | cons oldest rest =>
    dsimp only
    split
    · rw [evict_cache, first]
    · exact first

/-- The entries that leave for a channel that parks under a tag. -/
def parkedOut (entries : List CacheEntry) (tag : Nat) : List CacheEntry :=
  sameTag entries tag ++ roomMade (entries.filter fun e => e.routeTag ≠ tag)

theorem roomFor_cache (s : State) (tag : Nat) :
    (s.roomFor tag).cache = roomLeft (s.cache.filter fun e => e.routeTag ≠ tag) := by
  rw [State.roomFor, makeRoom_cache, evictSame_cache]

theorem roomFor_returns (s : State) (tag : Nat) :
    s.Returns (s.roomFor tag) ((parkedOut s.cache tag).flatMap (·.segments)) := by
  have same := evictAll_returns .replaced (sameTag s.cache tag) s
  rw [← evictSame_eq] at same
  have room := evictAll_returns .full (roomMade (s.evictSame tag).cache) (s.evictSame tag)
  rw [← makeRoom_eq, evictSame_cache] at room
  rw [parkedOut, List.flatMap_append]
  exact same.trans room

theorem roomFor_raised {s : State} (tags : (s.cache.map CacheEntry.routeTag).Nodup) (tag : Nat) {q : Port}
    (joined : (s.port q).joined = true) : s.Raised (s.roomFor tag) q [] (parkNotices s.cache tag) := by
  have held : ∀ e ∈ sameTag s.cache tag, e ∈ s.cache := fun e he => List.mem_of_find?_eq_some (Option.mem_toList.1 he)
  have same := evictAll_raised .replaced (sameTag s.cache tag) s joined tags (by
    rw [sameTag_eq_filter tags]
    exact tags.sublist (List.filter_sublist.map _)) held
  rw [← evictSame_eq, sameTag_eq_filter tags] at same
  have tags' : ((s.evictSame tag).cache.map CacheEntry.routeTag).Nodup := by
    rw [evictSame_cache]
    exact tags.sublist (List.filter_sublist.map _)
  have sub : (roomMade (s.evictSame tag).cache).Sublist (s.evictSame tag).cache := by
    unfold roomMade
    split
    · exact List.take_sublist _ _
    · exact List.nil_sublist _
  have room := evictAll_raised .full (roomMade (s.evictSame tag).cache) (s.evictSame tag) (q := q)
    (by rw [(evictSame_within s tag).heard.joined]; exact joined) tags' (tags'.sublist (sub.map _)) fun e he => sub.subset he
  rw [← makeRoom_eq, evictSame_cache] at room
  exact same.trans room

/-! ### A release that parks (R18, R25) -/

/-- The entry that a parking channel becomes, in the words of the statements. -/
theorem cacheEntry_of_ended {orders : List Order} {n : ChannelNo} {c d : Channel} (ended : c.OrdersEnded orders n d)
    (number now : Word32) : ({ d with player := none } : Channel).cacheEntry number now = c.cacheEntry number now := by
  obtain ⟨marks, rfl⟩ := ended
  rfl

/-- What parking a call leaves, once there is room. -/
theorem parked_fields (w : State) (n : ChannelNo) (c : Channel) (segments : List Nat) {t : State}
    (e : t = ((w.modChan n fun _ => .vacant).addEntry c).returnSegments segments) :
    t.mover = w.mover ∧ t.probeQueue = w.probeQueue
      ∧ t.cache = w.cache ++ [c.cacheEntry (nextParkNumber w.parkCounter) w.timebase]
      ∧ t.parkCounter = nextParkNumber w.parkCounter ∧ t.ports = w.ports ∧ w.Returns t segments := by
  subst e
  refine ⟨rfl, rfl, rfl, rfl, rfl, ?_⟩
  exact returnSegments_returns ((w.modChan n fun _ => .vacant).addEntry c) segments

theorem roomFor_within (s : State) (tag : Nat) : s.Within (s.roomFor tag) :=
  (evictSame_within s tag).trans (makeRoom_within (s.evictSame tag))

theorem stripped_routeTag (s : State) (n : ChannelNo) :
    ((s.stripped n).chan n).policy.routeTag = (s.chan n).policy.routeTag := by
  obtain ⟨⟨c, ended, own⟩, -⟩ := stripped_chan s n
  obtain ⟨-, -, -, policy, -⟩ := ended.fields
  rw [own]
  exact congrArg Policy.routeTag policy

/-- Steps 1 to 4 of R25 with the live list parked. -/
theorem vacate_park (s : State) (n : ChannelNo) :
    (s.vacate n true).chan n = .vacant
      ∧ (∀ m, m ≠ n → (s.chan m).OrdersEnded (s.ordersOn n) m ((s.vacate n true).chan m)
          ∧ ((s.vacate n true).chan m).records = (s.chan m).records)
      ∧ (s.vacate n true).mover = (s.mover.filter fun o => !o.work.touches n)
      ∧ n ∉ (s.vacate n true).probeQueue
      ∧ s.Returns (s.vacate n true)
          ((s.chan n).ringSegments ++ (parkedOut s.cache (s.chan n).policy.routeTag).flatMap (·.segments))
      ∧ (s.vacate n true).cache = roomLeft (s.cache.filter fun e => e.routeTag ≠ (s.chan n).policy.routeTag)
          ++ [(s.chan n).cacheEntry (nextParkNumber s.parkCounter) s.timebase]
      ∧ (s.vacate n true).parkCounter = nextParkNumber s.parkCounter := by
  obtain ⟨back, ends⟩ := stripped_ends s n
  obtain ⟨⟨c, ended, own⟩, others⟩ := stripped_chan s n
  obtain ⟨mover, queue, cache, counter⟩ := stripped_frame s n
  have timebase := (stripped_within s n).timebase
  have tag := stripped_routeTag s n
  have parked := vacate_parked s n
  rw [tag] at parked
  generalize named : s.vacate n true = t at parked
  have chan (m : ChannelNo) : t.chan m = if n = m then .vacant else (s.stripped n).chan m := by
    rw [← named]; exact vacate_chan s n true m
  generalize s.stripped n = v at *
  have room := roomFor_returns v (s.chan n).policy.routeTag
  have left := roomFor_cache v (s.chan n).policy.routeTag
  have clock := (roomFor_within v (s.chan n).policy.routeTag).timebase
  obtain ⟨-, -, roomQueue, roomMover, roomCounter⟩ := roomFor_calls v (s.chan n).policy.routeTag
  generalize v.roomFor (s.chan n).policy.routeTag = w at *
  obtain ⟨parkMover, parkQueue, parkCache, parkCounter, -, parkReturns⟩ := parked_fields w n _ _ parked
  refine ⟨by rw [chan, if_pos rfl], fun m ne => ?_, ?_, ?_, ?_, ?_, ?_⟩
  · rw [chan, if_neg (Ne.symm ne)]
    exact ⟨others m ne, ends.records m ne⟩
  · exact parkMover.trans (roomMover.trans mover)
  · rw [parkQueue, roomQueue]
    exact queue
  · rw [cache] at room
    refine ((ends.returns.trans room).trans parkReturns).congr fun x => ?_
    have rest := ends.rest x
    simp only [List.mem_append, rest]
    exact or_right_comm
  · rw [parkCache, left, cache, roomCounter, counter, own, cacheEntry_of_ended ended, clock, timebase]
  · rw [parkCounter, roomCounter, counter]

theorem vacate_park_raised {s : State} (tags : (s.cache.map CacheEntry.routeTag).Nodup) (n : ChannelNo) {q : Port}
    (joined : (s.port q).joined = true) : s.Raised (s.vacate n true) q (abortNotices (s.ordersOn n) q)
      (parkNotices s.cache (s.chan n).policy.routeTag) := by
  obtain ⟨-, -, cache, -⟩ := stripped_frame s n
  have parked := vacate_parked s n
  rw [stripped_routeTag] at parked
  have raised := stripped_raised s n joined
  have heard := (stripped_within s n).heard.joined q
  generalize s.vacate n true = t at parked ⊢
  generalize s.stripped n = v at *
  have room := roomFor_raised (s := v) (by rw [cache]; exact tags) (s.chan n).policy.routeTag (q := q)
    (by rw [heard]; exact joined)
  rw [cache] at room
  generalize v.roomFor (s.chan n).policy.routeTag = w at *
  obtain ⟨-, -, -, -, ports, -⟩ := parked_fields w n _ _ parked
  have all := raised.trans room
  rw [List.append_nil, List.nil_append] at all
  exact all.then_same ports

/-! ### Drain expiry -/

theorem mem_ringSegments (c : Channel) (x : Nat) : x ∈ c.ringSegments ↔ ∃ r ∈ c.ring, x ∈ r.segments := List.mem_flatMap

theorem roomLeft_sublist (entries : List CacheEntry) : (roomLeft entries).Sublist entries := by
  unfold roomLeft
  cases entries with
  | nil => exact .refl _
  | cons oldest rest =>
    dsimp only
    split
    · exact List.filter_sublist
    · exact .refl _

/-- An entry that leaves for a parking channel was in the cache and is not among those left. -/
theorem parkedOut_gone {entries : List CacheEntry} {tag : Nat} {e : CacheEntry} (h : e ∈ parkedOut entries tag) :
    e ∈ entries ∧ e ∉ roomLeft (entries.filter fun e => e.routeTag ≠ tag) := by
  rcases List.mem_append.1 h with same | oldest
  · have found := Option.mem_toList.1 same
    have own : e.routeTag = tag := beq_iff_eq.1 (List.find?_some (p := fun e : CacheEntry => e.routeTag == tag) (Option.mem_def.1 found))
    refine ⟨List.mem_of_find?_eq_some (Option.mem_def.1 found), fun left => ?_⟩
    have kept := (List.mem_filter.1 ((roomLeft_sublist _).subset left)).2
    exact of_decide_eq_true kept own
  · unfold roomMade at oldest
    split at oldest
    · next full =>
      refine ⟨List.mem_of_mem_filter (List.mem_of_mem_take oldest), fun left => ?_⟩
      unfold roomLeft at left
      revert oldest full left
      cases entries.filter fun e => decide (e.routeTag ≠ tag) with
      | nil => intro _ _ h; cases h
      | cons first rest =>
        intro full one left
        dsimp only at left
        rw [if_pos full] at left
        have own : e = first := by simpa using one
        have kept := (List.mem_filter.1 left).2
        rw [own] at kept
        exact of_decide_eq_true kept rfl
    · cases oldest

/-- Where no two entries have one tag, every entry that is not left has gone. -/
theorem gone_parkedOut {entries : List CacheEntry} (tags : (entries.map CacheEntry.routeTag).Nodup) {tag : Nat}
    {e : CacheEntry} (held : e ∈ entries) (gone : e ∉ roomLeft (entries.filter fun e => e.routeTag ≠ tag)) :
    e ∈ parkedOut entries tag := by
  rw [parkedOut, List.mem_append, sameTag_eq_filter tags]
  by_cases own : e.routeTag = tag
  · exact .inl (List.mem_filter.2 ⟨held, decide_eq_true own⟩)
  · right
    have kept : e ∈ entries.filter fun e => decide (e.routeTag ≠ tag) := List.mem_filter.2 ⟨held, decide_eq_true own⟩
    have tags' : ((entries.filter fun e => decide (e.routeTag ≠ tag)).map CacheEntry.routeTag).Nodup :=
      tags.sublist (List.filter_sublist.map _)
    unfold roomLeft at gone
    unfold roomMade
    revert kept gone tags'
    cases entries.filter fun e => decide (e.routeTag ≠ tag) with
    | nil => intro _ h; cases h
    | cons first rest =>
      intro gone kept tags'
      dsimp only at gone
      split
      · next full =>
        rw [if_pos full] at gone
        by_cases same : e.routeTag = first.routeTag
        · rw [List.inj_on_of_nodup_map tags' kept List.mem_cons_self same]
          exact List.mem_cons_self
        · exact absurd (List.mem_filter.2 ⟨kept, decide_eq_true same⟩) gone
      · next room =>
        rw [if_neg room] at gone
        exact absurd kept gone

theorem expireDrain_of_due {s : State} {n : ChannelNo} (state : (s.chan n).state = .releasing)
    (timer : (s.chan n).drainTimer = some 0) : s.expireDrain n =
      (s.closeEvent (s.completeRelease n)).notifyLessee (s.chan n).lessee
        ⟨.released, some n, [if (s.chan n).parkEligible = some true then 0 else 1]⟩ := by
  have due : s.drainDue n = true := by rw [State.drainDue, state, timer]; rfl
  rw [State.expireDrain, if_pos due]

theorem completeRelease_eq (s : State) (n : ChannelNo) :
    s.completeRelease n = if (s.chan n).parkEligible = some true then s.vacate n true else s.vacate n false := by
  unfold State.completeRelease
  split
  · next park => rw [park]; rfl
  · next free => rw [beq_eq_false_iff_ne.2 free]

/-- Settles O15: a release that frees is `vacate_vacated`, one that parks `vacate_park`, each with RELEASED told. -/
theorem drainExpiryEndsRelease : Obligations.DrainExpiryEndsRelease := by
  intro s n quiet state timer
  have exec_eq : exec (.drainExpiry n) s = .next (s.expireDrain n) := by rw [exec_drainExpiry, settle_of_quiet quiet]
  have told {u : State} (heard : s.Heard u) (x : Notice) : ∀ p, (s.chan n).lessee = some p → (s.port p).joined = true →
      ((u.notifyLessee (s.chan n).lessee x).port p).Told x := by
    intro p lessee joined
    rw [lessee]
    exact told_notifyLessee (by rw [heard.joined]; exact joined) x
  rw [exec_eq, expireDrain_of_due state timer, completeRelease_eq]
  split
  · have within := (vacate_within s n true).trans (closeEvent_within s _)
    obtain ⟨own, others, mover, queue, returns, cache, counter⟩ := vacate_park s n
    obtain ⟨free, taps⟩ := returns.closeEvent s
    have judged : s.PoolJudged (s.closeEvent (s.vacate n true)) :=
      closeEvent_judged s _ (vacate_flag s n true) (by rw [(vacate_within s n true).config])
    have notQueued := closeEvent_chan_of_not_queued s (s.vacate n true) queue
    have freed (x : Nat) : x ∈ (s.chan n).ringSegments
        ++ (parkedOut s.cache (s.chan n).policy.routeTag).flatMap (·.segments)
        ↔ (∃ r ∈ (s.chan n).ring, x ∈ r.segments)
          ∨ ∃ e ∈ parkedOut s.cache (s.chan n).policy.routeTag, x ∈ e.segments := by
      rw [List.mem_append, mem_ringSegments, List.mem_flatMap]
    refine ⟨_, rfl, within.trans (notifyLessee_within _ _ _), ?_, told within.heard _, ?_, ?_, ?_, fun m ne => ?_, ?_,
      fun a rings entries => ?_, fun tags => ⟨fun x => ?_, fun a gone => ?_, fun q joined => ?_⟩⟩
    · rw [chan_notifyLessee]; exact notQueued.1.trans own
    · rw [notifyLessee_parkCounter, closeEvent_parkCounter, counter]; rfl
    · rw [notifyLessee_cache, closeEvent_cache, cache]; rfl
    · rw [notifyLessee_mover, closeEvent_mover, mover]
    · rw [chan_notifyLessee]; exact ⟨_, (others m ne).1, closeEvent_chan _ _ m⟩
    · exact judged.notifyLessee _ nofun nofun
    · rw [notifyLessee_pool, taps, if_neg]
      rw [freed]
      rintro (⟨r, hr, ha⟩ | ⟨e, he, ha⟩)
      · exact rings r hr ha
      · obtain ⟨held, gone⟩ := parkedOut_gone he
        exact (entries e held).elim gone fun out => out ha
    · rw [notifyLessee_pool, free, freed]
      refine or_congr_right (or_congr_right ⟨?_, ?_⟩)
      · rintro ⟨e, he, hx⟩
        obtain ⟨held, gone⟩ := parkedOut_gone he
        exact ⟨e, held, gone, hx⟩
      · rintro ⟨e, held, gone, hx⟩
        exact ⟨e, gone_parkedOut tags held gone, hx⟩
    · rw [notifyLessee_pool, taps, if_pos]
      rw [freed]
      refine gone.imp_right ?_
      rintro ⟨e, held, out, hx⟩
      exact ⟨e, gone_parkedOut tags held out, hx⟩
    · have all := ((vacate_park_raised tags n joined).trans (closeEvent_raised s _
        (by rw [(vacate_within s n true).heard.joined]; exact joined))).trans
        (notifyLessee_raises_none (s.closeEvent (s.vacate n true)) (s.chan n).lessee (q := q)
          (x := ⟨.released, some n, [0]⟩) nofun nofun)
      rwa [List.append_nil, List.append_nil, List.append_nil, List.append_nil] at all
  · have vacated := (vacate_vacated s n).notifyLessee (s.chan n).lessee (x := ⟨.released, some n, [1]⟩) nofun nofun nofun
      nofun
    exact ⟨_, rfl, vacated.within, vacated.chan, told (vacate_vacated s n).within.heard _, vacated⟩

end Sys2Proof.Machine

/-! ATTACH that resumes or is refused (R10 to R15), SET_POLICY (R22), and the commands that only read: QUERY (R24), POOL_STATUS
(R50), READ_TAPS (R60), MOVER_STATUS (R121) and CACHE_LIST (R133). -/

namespace Sys2Proof.Machine

/-! ### ATTACH -/

theorem exec_attach (p : Port) (tag : Byte) (params : List Byte) (s : State) :
    exec (.attach p tag params) s = .next (takeCommand p tag params (attachAct p params) s) := rfl

theorem attachAct_of_channel {params : List Byte} {a : AttachParams} (parsed : parseAttach params = some a) {n : ChannelNo}
    (named : a.channel = n.val) (p : Port) (s : State) : attachAct p params s = attachChannel p a n s := by
  rw [attachAct, withParams_some parsed, named, withChannel_val]

theorem attachChannel_busy {s : State} {n : ChannelNo} (busy : (s.chan n).state ≠ .vacant) (p : Port) (a : AttachParams) :
    attachChannel p a n s = s.refuse .wrongState := by
  rw [attachChannel, if_pos busy]

theorem attachChannel_unchecked {s : State} {n : ChannelNo} (vacant : (s.chan n).state = .vacant) {a : AttachParams}
    (bad : a.check = none) (p : Port) : attachChannel p a n s = s.refuse .badParam := by
  rw [attachChannel, if_neg (not_not_intro vacant), bad]

/-- The two branches that a checked ATTACH of a VACANT channel has: resume, and fresh or NOSPACE. -/
theorem attachChannel_checked {s : State} {n : ChannelNo} (vacant : (s.chan n).state = .vacant) {a : AttachParams}
    {profile : Profile} {policy : Policy} (checked : a.check = some (profile, policy)) (p : Port) :
    attachChannel p a n s =
      if (Config.directory a.sequence).length = 0 then s.refuse .badSequence
      else
        match s.resumable profile policy with
        | some e =>
          (s.resume p n profile policy e).answer
            (enc1 Origin.resumed.code ++ enc1 e.segments.length ++ enc1? (some e.figure))
        | none =>
          if profile.segments ≤ s.pool.free.length + s.cacheSegments then
            (s.closeEvent (s.attachFresh p n profile policy)).answer
              (enc1 Origin.fresh.code ++ enc1 profile.segments ++ enc1? none)
          else ⟨s, .noSpace, enc1 profile.segments ++ enc2 (s.pool.free.length + s.cacheSegments : Nat)⟩ := by
  rw [attachChannel, if_neg (not_not_intro vacant), checked] <;> rfl

theorem resumable_driveLink (s : State) (p : Port) (b : List Byte) (profile : Profile) (policy : Policy) :
    (s.driveLink p b).resumable profile policy = s.resumable profile policy := rfl

theorem cacheSegments_driveLink (s : State) (p : Port) (b : List Byte) :
    (s.driveLink p b).cacheSegments = s.cacheSegments := rfl

theorem resume_driveLink (s : State) (q : Port) (b : List Byte) (p : Port) (n : ChannelNo) (profile : Profile)
    (policy : Policy) (e : CacheEntry) :
    (s.driveLink q b).resume p n profile policy e = (s.resume p n profile policy e).driveLink q b := rfl

theorem resumable_of_fits {s : State} {profile : Profile} {policy : Policy} {e : CacheEntry} (tagged : policy.routeTag ≠ 0)
    (found : s.cacheEntry? policy.routeTag = some e) (near : e.near = profile.near) (far : e.far = profile.far)
    (eq : e.eq = profile.eq) : s.resumable profile policy = some e := by
  have fits : e.fits profile = true := by simp [CacheEntry.fits, near, far, eq]
  rw [State.resumable, if_neg tagged, found]
  exact Option.filter_some_pos fits

/-- Settles O23: the block is its resume branch, and the entry's tag is the one asked for. -/
theorem attachResumes : Obligations.AttachResumes := by
  intro s p tag params a n profile policy e ready parsed named vacant checked populated tagged found near far eq
  have resumes := resumable_of_fits tagged found near far eq
  have own : e.routeTag = policy.routeTag := routeTag_of_cacheEntry? found
  have block : attachAct p params (s.driveLink p (commandEcho params))
      = ⟨(s.resume p n profile policy e).driveLink p (commandEcho params), .ok,
          enc1 Origin.resumed.code ++ enc1 e.segments.length ++ enc1 e.figure⟩ := by
    rw [attachAct_of_channel parsed named, attachChannel_checked (by simpa using vacant) checked, if_neg populated,
      resumable_driveLink, resumes, ← resume_driveLink]
    rfl
  rw [exec_attach, takeCommand_answered ready tag params _ block ready.joined, State.resume, own]
  rfl

/-- Settles O24: the checks of the block, in their order. -/
theorem attachRefusals : Obligations.AttachRefusals := by
  intro s p tag params a ready parsed
  refine ⟨fun big => ?_, fun n named => ?_⟩
  · rw [exec_attach, takeCommand_refused ready tag params _
      (by rw [attachAct, withParams_some parsed]; exact withChannel_bad big _ _)]
  · have refused {status : Status} {payload : List Byte}
        (block : attachChannel p a n (s.driveLink p (commandEcho params))
          = ⟨s.driveLink p (commandEcho params), status, payload⟩) :
        exec (.attach p tag params) s = .next (s.answered p params ⟨status, tag, payload⟩) := by
      rw [exec_attach, takeCommand_answered ready tag params _ ((attachAct_of_channel parsed named _ _).trans block)
        ready.joined]
    split
    · next busy => exact refused (attachChannel_busy (by simpa using busy) p a)
    · next idle =>
      have vacant : ((s.driveLink p (commandEcho params)).chan n).state = .vacant := by simpa using idle
      split
      · next bad => exact refused (attachChannel_unchecked vacant bad p)
      · next profile policy checked =>
        have branches := attachChannel_checked vacant checked p
        split
        · next empty =>
          rw [if_pos empty] at branches
          exact refused branches
        · next populated =>
          intro fresh short
          rw [if_neg populated, resumable_driveLink, fresh] at branches
          dsimp only at branches
          rw [if_neg (by rw [driveLink_pool, cacheSegments_driveLink]; exact Nat.not_le.2 short)] at branches
          exact refused branches

/-! ### SET_POLICY -/

theorem namedOnce_iff {φ : Type} [BEq φ] [LawfulBEq φ] (items : List (φ × Int)) :
    namedOnce items = true ↔ (items.map Prod.fst).Nodup := by
  induction items with
  | nil => simp [namedOnce]
  | cons item rest ih =>
    obtain ⟨f, v⟩ := item
    rw [namedOnce, List.map_cons, List.nodup_cons, Bool.and_eq_true, ih]
    refine and_congr_left fun _ => ?_
    rw [Bool.not_eq_true', List.any_eq_false, List.mem_map]
    constructor
    · rintro none ⟨item, held, same⟩
      exact none item held (beq_iff_eq.2 same)
    · intro none item held same
      exact none ⟨item, held, beq_iff_eq.1 same⟩

theorem exec_setPolicy (p : Port) (tag : Byte) (params : List Byte) (s : State) :
    exec (.setPolicy p tag params) s = .next (takeCommand p tag params (setPolicyAct p params) s) := rfl

theorem setPolicyAct_of_lessee {s : State} {p : Port} {n : ChannelNo} {params : List Byte}
    {items : List (PolicyField × Int)} (lessee : (s.chan n).lessee = some p)
    (parsed : parseSetPolicy params = some (n.val, items)) : setPolicyAct p params s = setPolicyChannel items n s := by
  rw [setPolicyAct, withParams_some parsed, withLessee_of_lessee lessee]

theorem setPolicyChannel_of_releasing {s : State} {n : ChannelNo} (releasing : (s.chan n).state = .releasing)
    (items : List (PolicyField × Int)) : setPolicyChannel items n s = s.refuse .wrongState := by
  rw [setPolicyChannel, releasing]
  rfl

theorem setPolicyChannel_of_inCall {s : State} {n : ChannelNo} (inCall : (s.chan n).state.inCall = true)
    (items : List (PolicyField × Int)) : setPolicyChannel items n s =
      match if 1 ≤ items.length ∧ items.length ≤ 8 ∧ (items.map Prod.fst).Nodup then
          (s.chan n).policy.writeAll items else none with
      | none => s.refuse .badParam
      | some policy => (s.modChan n fun c => { c with policy, holdCount := min (s.chan n).holdCount policy.holdLimit }).answer
          (policy.bytes ++ enc1 (min (s.chan n).holdCount policy.holdLimit : Nat)) := by
  rw [setPolicyChannel, if_pos inCall]
  by_cases fine : 1 ≤ items.length ∧ items.length ≤ 8 ∧ (items.map Prod.fst).Nodup
  · rw [if_pos fine]
    refine (if_pos (by rwa [namedOnce_iff])).trans ?_
    cases (s.chan n).policy.writeAll items <;> rfl
  · rw [if_neg fine, if_neg (by rwa [namedOnce_iff])]

/-- Settles O27, by what the items make of the policy. -/
theorem setPolicyWrites : Obligations.SetPolicyWrites := by
  intro s p tag n params items ready lessee parsed
  have acts := setPolicyAct_of_lessee (s := s.driveLink p (commandEcho params)) (by simpa using lessee) parsed
  refine ⟨fun releasing => ?_, fun inCall => ?_⟩
  · rw [exec_setPolicy, takeCommand_refused ready tag params _
      (acts.trans (setPolicyChannel_of_releasing (by simpa using releasing) items))]
  · have block := acts.trans (setPolicyChannel_of_inCall (by simpa using inCall) items)
    rw [driveLink_chan] at block
    rw [exec_setPolicy]
    split
    · next refused =>
      rw [refused] at block
      rw [takeCommand_refused ready tag params _ block]
    · next policy written =>
      rw [written] at block
      dsimp only at block
      rw [modChan_driveLink, State.answer] at block
      rw [takeCommand_answered ready tag params _ block (by simpa using ready.joined)]
      refine congrArg (fun u : State => Host.Outcome.next (u.answered p params _)) (modChan_congr s n _ _ rfl)

end Sys2Proof.Machine

/-! The commands that only read: QUERY (R24), POOL_STATUS (R50), READ_TAPS (R60), MOVER_STATUS (R121) and CACHE_LIST (R133). -/

namespace Sys2Proof.Machine

/-! ### What LINK DO carries is no matter of an event -/

theorem arrive_linkOut (r : PortRecord) (x : Notice) (out : List Byte) :
    { r with linkOut := out }.arrive x = { r.arrive x with linkOut := out } := by
  have same := arriveAll_update [x] r (r.arrive x).link (r.arrive x).lease (r.arrive x).held out
  obtain ⟨link, lease, -, held, -⟩ := arrive_fields r x
  rw [link, lease, held] at same
  exact same.symm.trans (by rw [List.foldl_cons, List.foldl_nil, ← link, ← lease, ← held])

theorem notify_driveLink (s : State) (p : Port) (b : List Byte) (q : Port) (x : Notice) :
    (s.driveLink p b).notify q x = (s.notify q x).driveLink p b := by
  unfold State.notify
  rw [driveLink_joined]
  split
  · by_cases own : p = q
    · subst own
      rw [State.driveLink, State.driveLink, modPort_modPort, modPort_modPort]
      exact modPort_congr s p _ _ (arrive_linkOut (s.port p) x b)
    · exact modPort_comm s _ _ own
  · rfl

theorem broadcast_driveLink (s : State) (p : Port) (b : List Byte) (x : Notice) :
    (s.driveLink p b).broadcast x = (s.broadcast x).driveLink p b := by
  unfold State.broadcast
  induction allPorts generalizing s with
  | nil => rfl
  | cons q rest ih => rw [List.foldl_cons, List.foldl_cons, notify_driveLink, ih]

theorem evict_driveLink (reason : EvictReason) (s : State) (p : Port) (b : List Byte) (e : CacheEntry) :
    State.evict reason (s.driveLink p b) e = (State.evict reason s e).driveLink p b := by
  unfold State.evict
  exact broadcast_driveLink ((s.setCache (s.cache.filter fun x => x.routeTag ≠ e.routeTag)).returnSegments e.segments) p b _

theorem evictAll_driveLink (reason : EvictReason) (entries : List CacheEntry) (s : State) (p : Port) (b : List Byte) :
    entries.foldl (State.evict reason) (s.driveLink p b) = (entries.foldl (State.evict reason) s).driveLink p b := by
  induction entries generalizing s with
  | nil => rfl
  | cons e rest ih => rw [List.foldl_cons, List.foldl_cons, evict_driveLink, ih]

theorem grantOne_driveLink (s : State) (p : Port) (b : List Byte) :
    (s.driveLink p b).grantOne = s.grantOne.driveLink p b := by
  have idle : (s.driveLink p b).idlePlayer = s.idlePlayer := rfl
  unfold State.grantOne
  rw [driveLink_probeQueue, idle]
  split <;> rfl

theorem comparePool_driveLink (s : State) (p : Port) (b : List Byte) :
    (s.driveLink p b).comparePool = s.comparePool.driveLink p b := by
  unfold State.comparePool
  dsimp only
  rw [driveLink_pool, driveLink_config]
  split
  · exact broadcast_driveLink (s.setFlag .low) p b _
  · split
    · exact broadcast_driveLink (s.setFlag .normal) p b _
    · rfl

theorem closeEvent_driveLink (s t : State) (p : Port) (b : List Byte) :
    (s.driveLink p b).closeEvent (t.driveLink p b) = (s.closeEvent t).driveLink p b := by
  unfold State.closeEvent State.grants
  simp only [grantOne_driveLink, driveLink_pool, comparePool_driveLink]
  split <;> rfl

theorem expireCache_driveLink (s : State) (p : Port) (b : List Byte) :
    (s.driveLink p b).expireCache = s.expireCache.driveLink p b := by
  rw [State.expireCache, State.expireCache, removeAged_eq, removeAged_eq]
  exact (congrArg _ (evictAll_driveLink .aged _ s p b)).trans (closeEvent_driveLink _ _ p b)

theorem takeAged_driveLink (s : State) (p : Port) (b : List Byte) :
    (s.driveLink p b).takeAged = s.takeAged.driveLink p b := by
  have same : (s.driveLink p b).cache.any (s.driveLink p b).aged = s.cache.any s.aged := rfl
  unfold State.takeAged
  rw [same]
  split
  · exact expireCache_driveLink s p b
  · rfl

/-! ### The places of a list that a command gives -/

theorem take_drop_eq_filterMap {α : Type} (l : List α) (first count : Nat) :
    (l.drop first).take count = (List.range count).filterMap fun i => l[first + i]? := by
  induction count with
  | zero => rfl
  | succ count ih =>
    rw [List.take_add_one, List.range_succ, List.filterMap_append, ih, List.getElem?_drop]
    cases found : l[first + count]? <;> simp [found]

/-- The entries at the places from `first` on, each with its place. -/
theorem placed_eq {α : Type} (l : List α) (first count : Nat) :
    (l.zipIdx.drop first).take count
      = ((List.range count).filterMap fun i => (l[first + i]?).map fun x => (first + i, x)).map Prod.swap := by
  rw [take_drop_eq_filterMap, List.map_filterMap]
  refine List.filterMap_congr fun i _ => ?_
  rw [List.getElem?_zipIdx, Option.map_map, Nat.zero_add]
  rfl

theorem encList_placed {α : Type} (l : List α) (first count : Nat) (item : α × Nat → List Byte) :
    encList item ((l.zipIdx.drop first).take count)
      = (let places := (List.range count).filterMap fun i => (l[first + i]?).map fun x => (first + i, x)
         enc1 places.length ++ places.flatMap fun place => item place.swap) := by
  rw [encList, placed_eq, List.length_map, List.flatMap_map]

/-! ### MOVER_STATUS and CACHE_LIST -/

theorem parseByte_one (b : Byte) : parseByte [b] = some b.toNat := rfl

theorem exec_moverStatus (p : Port) (tag : Byte) (params : List Byte) (s : State) :
    exec (.moverStatus p tag params) s = .next (takeCommand p tag params (moverStatusAct params) s) := rfl

theorem exec_cacheList (p : Port) (tag : Byte) (params : List Byte) (s : State) :
    exec (.cacheList p tag params) s = .next (takeCommand p tag params (cacheListAct params) s) := rfl

theorem enc1_toNat (b : Byte) : enc1 b.toNat = [b] := by
  rw [enc1, BitVec.ofInt_natCast, BitVec.ofNat_toNat, BitVec.setWidth_eq]

theorem moverStatus_lists {s : State} {p : Port} (ready : s.Ready p) (tag first : Byte) :
    exec (.moverStatus p tag [first]) s = .next (s.answered p [first]
      (if 15 < first.toNat then ⟨.badParam, tag, []⟩
       else
        let places := (List.range 5).filterMap fun i => (s.mover[first.toNat + i]?).map fun o => (first.toNat + i, o)
        ⟨.ok, tag, enc1 s.mover.length
          ++ (allPorts.flatMap fun q => enc1 (s.mover.countP fun o => o.origin == .command && o.port == q))
          ++ enc1 places.length ++ places.flatMap fun (i, o) =>
            enc1 i ++ [o.tag] ++ enc1 o.port.val ++ enc1 o.origin.code ++ enc1 o.work.code
              ++ enc1 o.work.channel.val ++ enc2 o.progress ++ enc2 o.total⟩)) := by
  have block (u : State) : moverStatusAct [first] u = listOrders first.toNat u := withParams_some (parseByte_one first) _ u
  rw [exec_moverStatus]
  by_cases beyond : 15 < first.toNat
  · rw [if_pos beyond, takeCommand_refused ready tag _ _ ((block _).trans (if_pos beyond))]
  · rw [if_neg beyond, takeCommand_answered (u := s) ready tag _ _ ((block _).trans (if_neg beyond)) ready.joined]
    dsimp only
    rw [encList_placed, driveLink_mover, ← List.append_assoc]
    simp only [Prod.swap, Order.item, enc1_toNat]
    rfl

theorem takeAged_of_fresh {s : State} (fresh : s.cache.any s.aged = false) : s.takeAged = s := by
  rw [State.takeAged, fresh]; rfl

theorem takeAged_of_aged {s : State} (aged : s.cache.any s.aged = true) : s.takeAged = s.expireCache := if_pos aged

theorem takeAged_fresh (s : State) : ∀ e ∈ s.takeAged.cache, s.takeAged.aged e = false := by
  by_cases aged : s.cache.any s.aged = true
  · rw [takeAged_of_aged aged]
    exact expireCache_fresh s
  · rw [takeAged_of_fresh (Bool.eq_false_of_not_eq_true aged)]
    exact fun e he => Bool.eq_false_of_not_eq_true fun old => aged (List.any_eq_true.2 ⟨e, he, old⟩)

theorem takeAged_joined (s : State) (p : Port) : (s.takeAged.port p).joined = (s.port p).joined := by
  unfold State.takeAged
  split
  · exact (expireCache_within s).heard.joined p
  · rfl

/-- An age below a lifetime of at most 240 minutes is at most 239 whole minutes. -/
theorem age_of_fresh {s : State} {e : CacheEntry} (fresh : s.aged e = false) (bound : s.config.cacheLifetime ≤ 240) :
    (s.timebase - e.parkTime).toNat / 60000 ≤ 239 := by
  have young : ¬ s.config.cacheLifetime * 60000 ≤ (s.timebase - e.parkTime).toNat := of_decide_eq_false fresh
  omega

theorem cacheList_lists {s : State} {p : Port} (ready : s.Ready p) (tag first : Byte) :
    exec (.cacheList p tag [first]) s = .next
      (if 15 < first.toNat then s.answered p [first] ⟨.badParam, tag, []⟩
       else
        let places := (List.range 6).filterMap fun i =>
          (s.takeAged.cache[first.toNat + i]?).map fun e => (first.toNat + i, e)
        s.takeAged.answered p [first] ⟨.ok, tag,
          enc1 s.takeAged.cache.length ++ enc2 ((s.takeAged.cache.map fun e => e.segments.length).sum : Nat)
          ++ enc1 s.takeAged.config.cacheLifetime
          ++ enc1 places.length ++ places.flatMap fun (i, e) =>
            enc1 i ++ enc2 e.routeTag ++ enc1 e.near ++ enc2 e.far ++ enc1 e.eq ++ enc1 e.figure
              ++ enc1 ((s.takeAged.timebase - e.parkTime).toNat / 60000 : Nat)⟩) := by
  have block (u : State) : cacheListAct [first] u = listCache first.toNat u := withParams_some (parseByte_one first) _ u
  rw [exec_cacheList]
  by_cases beyond : 15 < first.toNat
  · rw [if_pos beyond, takeCommand_refused ready tag _ _ ((block _).trans (if_pos beyond))]
  · have lists := (block (s.driveLink p (commandEcho [first]))).trans (if_neg beyond)
    dsimp only at lists
    rw [takeAged_driveLink] at lists
    rw [if_neg beyond, takeCommand_answered ready tag _ _ lists (by rw [takeAged_joined]; exact ready.joined)]
    dsimp only
    rw [encList_placed, driveLink_cache, ← List.append_assoc]
    rfl

/-- Settles O45: MOVER_STATUS reads the queue, CACHE_LIST the cache that the aged entries have left. -/
theorem listCommandsReport : Obligations.ListCommandsReport := by
  intro s p tag first ready
  refine ⟨moverStatus_lists ready tag first, s.takeAged, takeAged_of_fresh, fun aged => ?_, fun bound e held => ?_,
    cacheList_lists ready tag first⟩
  · rw [takeAged_of_aged aged]
    exact congrArg (fun u : State => Host.Outcome.next u.expireCache) (settle_of_quiet ready.quiet)
  · refine age_of_fresh (takeAged_fresh s e held) ?_
    unfold State.takeAged
    split
    · rw [(expireCache_within s).config]; exact bound
    · exact bound

/-! ### QUERY, POOL_STATUS and READ_TAPS -/

/-- A command whose block changes nothing leaves the answered port alone changed. -/
theorem takeCommand_reads {s : State} {p : Port} (ready : s.Ready p) (tag : Byte) (params : List Byte)
    (act : State → Reply) {status : Status} {payload : List Byte}
    (block : act (s.driveLink p (commandEcho params)) = ⟨s.driveLink p (commandEcho params), status, payload⟩) :
    takeCommand p tag params act s = s.answered p params ⟨status, tag, payload⟩ :=
  takeCommand_answered ready tag params act block ready.joined

theorem enc1_boolCode (b : Bool) : enc1 (boolCode b) = if b then [1] else [0] := by
  cases b <;> rfl

theorem priorItems_eq (prior : Option PriorState) : (prior.map fun p => encState p.toCallState).getD [0xFF, 0xFF]
    = match prior with | some x => encState x.toCallState | none => [0xFF, 0xFF] := by
  cases prior with
  | none => rfl
  | some x => rw [Option.map_some, Option.getD_some]

theorem parkItems_eq (eligible : Option Bool) : enc1? (parkItem eligible)
    = match eligible with | some true => [0] | some false => [1] | none => [0xFF] := by
  cases eligible with
  | none => rfl
  | some park => cases park <;> simp [parkItem, enc1?, enc1]

theorem freezeCode_eq (f : FreezeSet) : (f.code : Int) = (if f.contention then 1 else 0) + (if f.budget then 2 else 0)
    + (if f.mover then 4 else 0) + (if f.loss then 8 else 0) + (if f.pause then 16 else 0) := by
  have weighted (k : Nat) (b : Bool) : ((k * boolCode b : Nat) : Int) = if b then (k : Int) else 0 := by
    cases b <;> simp [boolCode]
  rw [FreezeSet.code, Int.natCast_add, Int.natCast_add, Int.natCast_add, Int.natCast_add, weighted, weighted, weighted,
    weighted, boolCode_eq_ite]
  rfl

theorem enc1?_natItem (k : Option Nat) : enc1? (natItem k) = enc1? (k.map fun k => (k : Int)) := by
  cases k <;> rfl

/-- The payload of QUERY as the list of its items, whatever words give the yes and no items, the optional counts, the prior
state, the park decision and the freeze reasons. -/
theorem queryPayload_eq (c : Channel) (play : Option Play) {yes : Bool → List Byte} {count : Option Nat → List Byte}
    {prior park freeze : List Byte} (yes_eq : ∀ b, enc1 (boolCode b) = yes b) (count_eq : ∀ k, enc1? (natItem k) = count k)
    (prior_eq : (c.prior.map fun p => encState p.toCallState).getD [0xFF, 0xFF] = prior)
    (park_eq : enc1? (parkItem c.parkEligible) = park) (freeze_eq : enc1 c.freeze.code = freeze) :
    c.queryPayload play = List.flatten
        [encState c.state, encPort? c.lessee, enc1? (c.origin.map fun o => (o.code : Int)), prior, park,
         enc1 c.profile.near, enc2 c.profile.far, enc1 c.profile.eq, count c.profile.sequence,
         enc2 c.policy.routeTag, yes c.policy.retain, enc1 c.policy.recovery.code, enc1 c.policy.mode.code,
         enc1 c.policy.lossCode, enc1 c.policy.holdLimit, count c.policy.holdTime, enc1 c.policy.strandTime,
         enc1 c.holdCount, enc2 c.window.start, yes c.window.active, enc1 c.live.length,
         enc1 c.ring.length, c.ring.flatMap fun r => enc1 r.id ++ yes r.ready,
         enc1? (c.measured.map fun m => m.figure), enc1? (c.measured.map fun m => m.receive),
         enc1? (c.measured.map fun m => m.estimate),
         enc1 c.goodRun, enc1 c.badRun, enc2 c.trainingEpochs, count c.proving, count c.guard,
         yes c.contentionLive, enc1 c.hangover, enc2 c.budget, freeze,
         enc1 c.level.status.code, enc1? c.level.last, enc1? (c.player.map fun k => (k.val : Int)),
         enc2? (play.map fun play => (play.pointer : Int))] := by
  have hold : enc1? (c.policy.holdTime.map fun n => (n : Int)) = count c.policy.holdTime := count_eq _
  unfold Channel.queryPayload Policy.bytes FarWindow.bytes encList
  simp only [yes_eq, count_eq, prior_eq, park_eq, freeze_eq, hold, List.flatten_cons, List.flatten_nil, List.append_nil, List.append_assoc]

theorem exec_poolStatus (p : Port) (tag : Byte) (params : List Byte) (s : State) :
    exec (.poolStatus p tag params) s = .next (takeCommand p tag params (poolStatusAct params) s) := rfl

theorem copyOf_byte (copy : Byte) : copyOf copy.toNat = if copy = 0 then .live else .snapshot copy.toNat := by
  by_cases zero : copy = 0
  · rw [if_pos zero, zero]; rfl
  · rw [if_neg zero, copyOf, if_neg]
    exact fun h => zero (BitVec.eq_of_toNat_eq h)

/-- The copy that a byte names is missing: a record that is not in the ring. -/
theorem hasCopy_byte (c : Channel) (copy : Byte) : c.hasCopy (copyOf copy.toNat) = false
    ↔ copy ≠ 0 ∧ c.ring.all (fun r => r.id ≠ copy.toNat) = true := by
  rw [copyOf_byte]
  by_cases zero : copy = 0
  · simp [zero, Channel.hasCopy]
  · rw [if_neg zero, Channel.hasCopy, Channel.snapshot?, Option.isSome_eq_false_iff, Option.isNone_iff_eq_none,
      List.find?_eq_none, List.all_eq_true]
    simp only [ne_eq, zero, not_false_eq_true, true_and, beq_iff_eq, decide_eq_true_eq]

/-- READ_TAPS of a bank, in a channel that is not VACANT. -/
theorem readTapsChannel_of_bank {s : State} {n : ChannelNo} {a : ReadTapsParams} {b : Bank}
    (filled : (s.chan n).state ≠ .vacant) (code : Bank.ofCode a.bank = some b) (one : b ≠ .set) :
    readTapsChannel a n s =
      if 511 < a.first ∨ a.count = 0 ∨ 32 < a.count ∨ (s.chan n).profile.bankTaps b < a.first + a.count then
        s.refuse .badParam
      else if (s.chan n).hasCopy (copyOf a.copy) then
        s.answer ((List.range a.count).flatMap fun i => enc2 (s.tap n (copyOf a.copy) b (a.first + i)))
      else s.refuse .notFound := by
  rw [readTapsChannel, if_neg filled, code]
  cases b
  case set => exact absurd rfl one
  all_goals rfl

theorem readTapsChannel_of_noBank {s : State} {n : ChannelNo} {a : ReadTapsParams} (filled : (s.chan n).state ≠ .vacant)
    (code : Bank.ofCode a.bank = none ∨ Bank.ofCode a.bank = some .set) : readTapsChannel a n s = s.refuse .badParam := by
  rw [readTapsChannel, if_neg filled]
  rcases code with code | code <;> rw [code]

theorem exec_readTaps_of_channel (p : Port) (tag : Byte) (n : ChannelNo) (copy bank firstHi firstLo count : Byte) (s : State) :
    exec (.readTaps p tag [chanByte n, copy, bank, firstHi, firstLo, count]) s =
      .next (takeCommand p tag [chanByte n, copy, bank, firstHi, firstLo, count] (readTapsChannel
        ⟨n.val, copy.toNat, bank.toNat, firstHi.toNat * 256 + firstLo.toNat, count.toNat⟩ n) s) := by
  have block (u : State) : readTapsAct [chanByte n, copy, bank, firstHi, firstLo, count] u = readTapsChannel
      ⟨n.val, copy.toNat, bank.toNat, firstHi.toNat * 256 + firstLo.toNat, count.toNat⟩ n u := by
    have parsed : parseReadTaps [chanByte n, copy, bank, firstHi, firstLo, count]
        = some ⟨n.val, copy.toNat, bank.toNat, firstHi.toNat * 256 + firstLo.toNat, count.toNat⟩ := by
      rw [parseReadTaps, dec1_chanByte]
      rfl
    rw [readTapsAct, withParams_some parsed]
    exact withChannel_val n _ u
  rw [exec_readTaps, funext block]

theorem readTaps_reads {s : State} {p : Port} (ready : s.Ready p) (tag : Byte) (n : ChannelNo)
    (copy bank firstHi firstLo count : Byte) :
    let params := [chanByte n, copy, bank, firstHi, firstLo, count]
    let first := firstHi.toNat * 256 + firstLo.toNat
    let source : Copy := if copy = 0 then .live else .snapshot copy.toNat
    exec (.readTaps p tag params) s = .next (s.answered p params
      (if (s.chan n).state = .vacant then ⟨.wrongState, tag, []⟩
       else match Bank.ofCode bank.toNat with
        | none | some .set => ⟨.badParam, tag, []⟩
        | some b =>
          if 511 < first ∨ count = 0 ∨ 32 < count.toNat ∨ (s.chan n).profile.bankTaps b < first + count.toNat then
            ⟨.badParam, tag, []⟩
          else if copy ≠ 0 ∧ (s.chan n).ring.all (fun r => r.id ≠ copy.toNat) then ⟨.notFound, tag, []⟩
          else ⟨.ok, tag, (List.range count.toNat).flatMap fun i => enc2 (s.tap n source b (first + i))⟩)) := by
  intro params first source
  rw [exec_readTaps_of_channel]
  refine congrArg Host.Outcome.next ?_
  by_cases vacant : (s.chan n).state = .vacant
  · rw [if_pos vacant]
    exact takeCommand_refused ready tag params _ (if_pos vacant)
  · rw [if_neg vacant]
    have filled : ((s.driveLink p (commandEcho params)).chan n).state ≠ .vacant := vacant
    have tapped {b : Bank} (code : Bank.ofCode bank.toNat = some b) (one : b ≠ .set) :
        takeCommand p tag params (readTapsChannel ⟨n.val, copy.toNat, bank.toNat, first, count.toNat⟩ n) s
          = s.answered p params
            (if 511 < first ∨ count = 0 ∨ 32 < count.toNat ∨ (s.chan n).profile.bankTaps b < first + count.toNat then
              ⟨.badParam, tag, []⟩
            else if copy ≠ 0 ∧ (s.chan n).ring.all (fun r => r.id ≠ copy.toNat) then ⟨.notFound, tag, []⟩
            else ⟨.ok, tag, (List.range count.toNat).flatMap fun i => enc2 (s.tap n source b (first + i))⟩) := by
      have block := readTapsChannel_of_bank (a := ⟨n.val, copy.toNat, bank.toNat, first, count.toNat⟩) filled code one
      have zero : count.toNat = 0 ↔ count = 0 := ⟨fun h => BitVec.eq_of_toNat_eq h, fun h => by rw [h]; rfl⟩
      dsimp only at block
      rw [if_congr (or_congr Iff.rfl (or_congr zero Iff.rfl)) rfl rfl, driveLink_chan] at block
      split
      · next outside =>
        rw [if_pos outside] at block
        exact takeCommand_refused ready tag params _ block
      · next inside =>
        rw [if_neg inside] at block
        split
        · next missing =>
          rw [if_neg (Bool.eq_false_iff.1 ((hasCopy_byte _ _).2 missing))] at block
          exact takeCommand_refused ready tag params _ block
        · next there =>
          rw [if_pos (Bool.eq_true_of_not_eq_false fun no => there ((hasCopy_byte _ _).1 no)), copyOf_byte] at block
          exact takeCommand_reads ready tag params _ block
    cases code : Bank.ofCode bank.toNat with
    | none => exact takeCommand_refused ready tag params _ (readTapsChannel_of_noBank filled (.inl code))
    | some b =>
      cases b
      case set => exact takeCommand_refused ready tag params _ (readTapsChannel_of_noBank filled (.inr code))
      all_goals exact tapped code nofun

/-- Settles O29: each block answers from the state as it stands. -/
theorem readingsChangeNothing : Obligations.ReadingsChangeNothing := by
  intro s p tag ready
  refine ⟨fun n => ?_, ?_, fun n copy bank firstHi firstLo count => readTaps_reads ready tag n copy bank firstHi firstLo count⟩
  · intro c yes count
    have block : queryAct [chanByte n] (s.driveLink p (commandEcho [chanByte n]))
        = ⟨s.driveLink p (commandEcho [chanByte n]), .ok, c.queryPayload (c.player.bind s.play)⟩ := by
      rw [queryAct, withParams_some (parseByte_chan n)]
      exact withChannel_val n _ _
    rw [exec_query, takeCommand_reads ready tag _ _ block, queryPayload_eq c _ (yes := yes) (count := count) enc1_boolCode
      enc1?_natItem (priorItems_eq _) (parkItems_eq _) (congrArg enc1 (freezeCode_eq _))] <;> rfl
  · have block : poolStatusAct [] (s.driveLink p (commandEcho [])) = poolStatus (s.driveLink p (commandEcho [])) := rfl
    rw [exec_poolStatus, takeCommand_reads ready tag _ _ block]
    rfl

end Sys2Proof.Machine

/-! Orders and records: one offset (R110), the completion (R116), the checks of MOVE (R111), its enqueue (R112), and RESTORE
(R58). -/

namespace Sys2Proof.Machine

/-! ### One offset (R106 to R110) -/

theorem getD_ite (c : Prop) [Decidable c] (x y : Option Tap) (d : Tap) :
    (if c then x else y).getD d = if c then x.getD d else y.getD d := apply_ite (fun o : Option Tap => o.getD d) c x y

/-- What one offset of an order writes at its destination, `old` where it writes nothing. -/
def State.written (s : State) (w : Work) (offset : Nat) (old : Tap) : Tap :=
  (w.value offset ((w.source?.map fun r => s.pool.taps.readAt (s.regionTap r offset)).getD 0) old).getD old

theorem moveOffset_written {s : State} {w : Work} {offset a : Nat} (wf : s.pool.taps.wf = true)
    (place : s.regionTap w.dest offset = some a) :
    (s.moveOffset w offset).pool.taps.read a = s.written w offset (s.pool.taps.read a)
      ∧ (∀ b, b ≠ a → (s.moveOffset w offset).pool.taps.read b = s.pool.taps.read b)
      ∧ s.moveOffset w offset = { s with pool := (s.moveOffset w offset).pool }
      ∧ (s.moveOffset w offset).pool.free = s.pool.free ∧ (s.moveOffset w offset).pool.flag = s.pool.flag := by
  unfold State.moveOffset State.written
  rw [place]
  dsimp only [Memory.readAt]
  cases w.value offset _ (s.pool.taps.read a) with
  | none => exact ⟨rfl, fun _ _ => rfl, rfl, rfl, rfl⟩
  | some v => exact ⟨read_write_self a v wf, fun b ne => read_write_of_ne v wf (Ne.symm ne), rfl, rfl, rfl⟩

/-- Settles O43: what is written at the destination, by the kinds of order. -/
theorem oneOffsetMoves : Obligations.OneOffsetMoves := by
  intro s w offset a wf place t old source
  obtain ⟨written, others, rest, free, flag⟩ := moveOffset_written wf place
  refine ⟨others, rest, free, flag, ?_⟩
  cases w with
  | copy r dest keyed =>
    refine written.trans ?_
    rw [State.written, Work.value, getD_ite]
    rfl
  | fill dest value => exact written
  | expand dest mask fore back transparent =>
    refine written.trans ?_
    rw [State.written, Work.value, getD_ite, getD_ite]
    rfl
  | blend r dest weight => exact written
  | capture n id => exact written
  | restore n id => exact written

/-! ### The completion of an order (R116) -/

theorem exec_orderComplete_of_quiet {s : State} (quiet : s.quiet = true) :
    exec .orderComplete s = if s.orderEnded then .next (s.closeEvent s.completeHead) else .next s := by
  show execOrderComplete s = _
  rw [execOrderComplete, settle_of_quiet quiet]

/-- Settles O44: the completion raises no comparison, and no channel waits while a player is idle. -/
theorem orderCompletes : Obligations.OrderCompletes := by
  intro s o rest quiet granted queue
  rw [exec_orderComplete_of_quiet quiet]
  have ended : s.orderEnded = decide (o.total ≤ o.progress) := by rw [State.orderEnded, queue]; rfl
  rw [ended]
  refine ⟨fun short => ?_, fun full => ?_⟩
  · rw [if_neg (by rw [decide_eq_true_eq]; exact Nat.not_le.2 short)]
  · have completed := completeHead_completed queue
    rw [if_pos (decide_eq_true full),
      closeEvent_of_granted s (granted.congr completed.probeQueue completed.players), completed.pool, if_pos rfl]
    exact ⟨_, rfl, completed⟩

/-! ### An order that joins the queue (R112 to R114) -/

theorem pin_eq (s : State) (w : Work) : ∃ channels, s.pin w = { s with channels := channels } := by
  unfold State.pin
  generalize w.snapshots = names
  induction names generalizing s with
  | nil => exact ⟨s.channels, rfl⟩
  | cons name rest ih =>
    obtain ⟨channels, eq⟩ := ih (s.modChan name.1 fun c => c.modSnapshot name.2 fun x => { x with pins := x.pins + 1 })
    exact ⟨channels, eq⟩

theorem enqueue_eq (s : State) (o : Order) :
    ∃ channels, s.enqueue o = { s with mover := s.mover ++ [o], channels := channels } := by
  obtain ⟨pinned, pin⟩ := pin_eq (s.setMover (s.mover ++ [o])) o.work
  unfold State.enqueue
  dsimp only
  rw [pin]
  split
  · obtain ⟨marked, mark⟩ := markHead_eq { s.setMover (s.mover ++ [o]) with channels := pinned }
    exact ⟨marked, mark⟩
  · exact ⟨pinned, rfl⟩

theorem enqueue_chan (s : State) (o : Order) (m : ChannelNo) : (s.enqueue o).chan m = { s.chan m with
    ring := (s.chan m).ring.map fun r => if (m, r.id) ∈ o.work.snapshots then { r with pins := r.pins + 1 } else r
    marks := if s.mover = [] ∧ s.highway.sync = .locked ∧ o.work.touchesLive m = true then
      { (s.chan m).marks with mover := true } else (s.chan m).marks } := by
  have pinned := pin_chan (s.setMover (s.mover ++ [o])) o.work m
  have queue := pin_mover (s.setMover (s.mover ++ [o])) o.work
  have highway := (pin_within (s.setMover (s.mover ++ [o])) o.work).highway
  unfold State.enqueue
  dsimp only
  generalize (s.setMover (s.mover ++ [o])).pin o.work = u at *
  have moved : u.mover = s.mover ++ [o] := queue
  have sync : u.highway.sync = s.highway.sync := congrArg Highway.sync highway
  rw [moved]
  by_cases empty : s.mover = []
  · rw [if_pos (by rw [empty]; rfl), markHead_chan, pinned, moved, sync, empty]
    simp only [List.nil_append, List.head?_cons, Option.any_some, true_and]
    rfl
  · rw [if_neg (by
      rw [List.length_append]
      have := List.length_pos_iff.2 empty
      simp only [List.length_singleton]
      omega), pinned]
    simp only [empty, false_and, if_false]
    rfl

theorem enqueue_driveLink (s : State) (p : Port) (b : List Byte) (o : Order) (m : ChannelNo) :
    ((s.driveLink p b).enqueue o).chan m = (s.enqueue o).chan m := by
  rw [enqueue_chan, enqueue_chan]
  rfl

/-! ### MOVE -/

theorem exec_move (p : Port) (tag : Byte) (params : List Byte) (s : State) :
    exec (.move p tag params) s = .next (takeCommand p tag params (moveAct p tag params) s) := rfl

theorem moveRefusal_driveLink (s : State) (q : Port) (b : List Byte) (p : Port) (w : Work) :
    (s.driveLink q b).moveRefusal p w = s.moveRefusal p w := rfl

theorem moveAct_of_params {params : List Byte} {mp : MoveParams} (parsed : parseMove params = some mp) (p : Port) (tag : Byte)
    (s : State) : moveAct p tag params s = moveTaps p tag mp s := by
  rw [moveAct, withParams_some parsed]

theorem moveTaps_of_work {mp : MoveParams} {w : Work} (inRange : mp.inRange = true) (named : mp.work? = some w) (p : Port)
    (tag : Byte) (s : State) : moveTaps p tag mp s = match s.moveRefusal p w with
      | some status => s.refuse status
      | none => (s.enqueue (commandOrder p tag w)).answer (enc1 tag.toNat ++ enc2 w.dest.count ++ enc1 s.mover.length) := by
  rw [moveTaps, if_pos inRange, named] <;> rfl

/-- Settles O40: the checks, and the order that joins the queue (`enqueue_chan`). -/
theorem moveEnqueues : Obligations.MoveEnqueues := by
  intro s p tag params mp ready parsed
  have acts := moveAct_of_params parsed p tag (s.driveLink p (commandEcho params))
  rw [exec_move]
  generalize moveAct p tag params = act at acts ⊢
  split
  · next outside =>
    rw [moveTaps, if_neg (by rw [outside]; exact Bool.false_ne_true)] at acts
    rw [takeCommand_refused ready tag params act acts]
  · next inside =>
    have inRange : mp.inRange = true := Bool.eq_true_of_not_eq_false inside
    split
    · next unnamed =>
      rw [moveTaps, if_pos inRange, unnamed] at acts
      rw [takeCommand_refused ready tag params act acts]
    · next w named =>
      rw [moveTaps_of_work inRange named, moveRefusal_driveLink] at acts
      split
      · next status refused =>
        rw [refused] at acts
        rw [takeCommand_refused ready tag params act acts]
      · next accepted =>
        rw [accepted] at acts
        dsimp only at acts
        obtain ⟨channels, pool, players, queue, mover, cache, counter⟩ := takeCommand_frame ready tag params act acts
        obtain ⟨after, joined⟩ := enqueue_eq (s.driveLink p (commandEcho params)) (commandOrder p tag w)
        refine ⟨_, rfl, ?_, mover.trans (enqueue_mover _ _), fun m => ?_, ?_, ?_, ?_, ?_, ?_⟩
        · have within := takeCommand_within ready tag params act acts (enqueue_within _ _)
          rwa [enc1_toNat] at within
        · have chan := enqueue_chan (s.driveLink p (commandEcho params)) (commandOrder p tag w) m
          exact (congrArg (fun v : Vector Channel 48 => v.get m) channels).trans chan
        · exact pool.trans (by rw [joined]; rfl)
        · exact players.trans (by rw [joined]; rfl)
        · exact queue.trans (by rw [joined]; rfl)
        · exact cache.trans (by rw [joined]; rfl)
        · exact counter.trans (by rw [joined]; rfl)

/-! ### The refusals of MOVE (R111) -/

/-- A region of a snapshot names a record of its ring of which `which` holds. -/
def State.NamesRecord (s : State) (r : Region) (which : Snapshot → Bool) : Prop :=
  ∀ id, r.copy = .snapshot id → ∃ x, (s.chan r.channel).ring.find? (fun x => x.id == id) = some x ∧ which x = true

theorem regionFound_iff (s : State) (r : Region) : s.regionFound r = true ↔ s.NamesRecord r fun _ => true := by
  unfold State.regionFound State.NamesRecord
  cases r.copy with
  | live => simp
  | snapshot id => simp [Channel.snapshot?, Option.isSome_iff_exists]

theorem regionReady_iff (s : State) (r : Region) : s.regionReady r = true ↔ s.NamesRecord r Snapshot.ready := by
  unfold State.regionReady State.NamesRecord
  cases r.copy with
  | live => simp
  | snapshot id => simp [Channel.snapshot?, Option.any_eq_true]

theorem regionsFound_iff (s : State) (w : Work) :
    w.regions.all s.regionFound = true ↔ ∀ r ∈ w.regions, s.NamesRecord r fun _ => true := by
  rw [List.all_eq_true]
  exact forall₂_congr fun r _ => regionFound_iff s r

theorem regionsReady_iff (s : State) (w : Work) :
    w.regions.all s.regionReady = true ↔ ∀ r ∈ w.regions, s.NamesRecord r Snapshot.ready := by
  rw [List.all_eq_true]
  exact forall₂_congr fun r _ => regionReady_iff s r

/-- A record that is READY is found. -/
theorem State.NamesRecord.found {s : State} {r : Region} {which : Snapshot → Bool} (h : s.NamesRecord r which) :
    s.NamesRecord r fun _ => true := by
  intro id copy
  obtain ⟨x, found, -⟩ := h id copy
  exact ⟨x, found, rfl⟩

/-- The checks of R111 that follow the standing of the channels. -/
theorem moveRefusal_of_standing {s : State} {p : Port} {w : Work}
    (standing : ∀ r ∈ w.regions, (s.chan r.channel).standing p = none) : s.moveRefusal p w =
      if w.regions.all s.regionFound = false then some .notFound
      else if w.regions.all s.regionReady = false then some .wrongState
      else if s.workFits w = false then some .badParam
      else if 16 ≤ s.mover.length ∨ 6 ≤ s.commandOrders p then some .busy
      else none := by
  rw [State.moveRefusal, List.findSome?_eq_none_iff.2 standing]
  simp only [Bool.not_eq_true']

/-- Settles O41: the first region whose channel has no standing decides, and then the checks in their order. -/
theorem moveRefusals : Obligations.MoveRefusals := by
  intro s p w bad record
  have standing : bad = fun r => (s.chan r.channel).standing p := rfl
  have names : record = s.NamesRecord := rfl
  rw [names]
  refine ⟨?_, fun fine => ?_⟩
  · rw [standing]
    cases first : w.regions.findSome? fun r => (s.chan r.channel).standing p with
    | none => exact .inl (List.findSome?_eq_none_iff.1 first)
    | some status =>
      obtain ⟨before, r, after, regions, refused, earlier⟩ := List.findSome?_eq_some_iff.1 first
      exact .inr ⟨before, r, after, status, regions, earlier, refused, by rw [State.moveRefusal, first]⟩
  · have checks := moveRefusal_of_standing (s := s) (p := p) (w := w) fine
    have found (ready : ∀ r ∈ w.regions, s.NamesRecord r Snapshot.ready) : ∀ r ∈ w.regions, s.NamesRecord r fun _ => true :=
      fun r hr => (ready r hr).found
    rw [checks, ← regionsFound_iff, ← regionsReady_iff]
    rw [← regionsFound_iff, ← regionsReady_iff] at found
    refine ⟨fun missing => ?_, fun there filling => ?_, fun ready misfit => ?_, fun ready fits => ?_⟩
    · rw [if_pos (Bool.eq_false_of_not_eq_true missing)]
    · rw [if_neg (by rw [there]; decide), if_pos (Bool.eq_false_of_not_eq_true filling)]
    · rw [if_neg (by rw [found ready]; decide), if_neg (by rw [ready]; decide), if_pos misfit]
    · rw [if_neg (by rw [found ready]; decide), if_neg (by rw [ready]; decide), if_neg (by rw [fits]; decide)]
      rfl

/-! ### RESTORE (R58) -/

theorem exec_restore (p : Port) (tag : Byte) (params : List Byte) (s : State) :
    exec (.restore p tag params) s = .next (takeCommand p tag params (restoreAct p tag params) s) := rfl

theorem parseChannelByte_chan (n : ChannelNo) (b : Byte) : parseChannelByte [chanByte n, b] = some (n.val, b.toNat) := by
  rw [parseChannelByte, dec1_chanByte]
  rfl

theorem restoreAct_of_lessee {s : State} {p : Port} {n : ChannelNo} (lessee : (s.chan n).lessee = some p) (tag id : Byte) :
    restoreAct p tag [chanByte n, id] s = restoreChannel p tag id.toNat n s := by
  rw [restoreAct, withParams_some (parseChannelByte_chan n id), withLessee_of_lessee lessee]

theorem byte_eq_zero_iff (b : Byte) : (b.toNat = 0 ∨ 255 < b.toNat) ↔ b = 0 := by
  constructor
  · intro out
    refine BitVec.eq_of_toNat_eq (out.resolve_right ?_)
    have := b.isLt
    omega
  · intro zero
    rw [zero]
    exact .inl rfl

theorem restoreChannel_of_byte (s : State) (p : Port) (tag id : Byte) (n : ChannelNo) :
    restoreChannel p tag id.toNat n s =
      if (s.chan n).state = .releasing then s.refuse .wrongState
      else if id = 0 then s.refuse .badParam
      else match (s.chan n).ring.find? fun r => r.id == id.toNat with
        | none => s.refuse .notFound
        | some r =>
          if r.ready = false then s.refuse .wrongState
          else if 16 ≤ s.mover.length then s.refuse .busy
          else (s.enqueue (internalOrder p tag (.restore n id.toNat) (s.chan n).profile.setTaps)).answer
            (enc1 r.figure ++ r.window.bytes) := by
  rw [restoreChannel, if_congr (byte_eq_zero_iff id) rfl rfl, Channel.snapshot?]
  cases (s.chan n).ring.find? fun r => r.id == id.toNat with
  | none => rfl
  | some r =>
    dsimp only
    cases r.ready <;> rfl

theorem channels_ext {v w : Vector Channel 48} (h : ∀ m : ChannelNo, v.get m = w.get m) : v = w :=
  Vector.ext fun i hi => h ⟨i, hi⟩

/-- What the enqueue of a RESTORE leaves: its record pinned, its channel marked where the order is head at once. -/
theorem enqueue_restore (s : State) (p : Port) (tag : Byte) (n : ChannelNo) (id total : Nat) :
    s.enqueue (internalOrder p tag (.restore n id) total) = State.modChan
      { s with mover := s.mover ++ [⟨tag, p, .internal, false, .restore n id, total, 0⟩] } n
      fun c => { c with
        ring := c.ring.map fun x => if x.id = id then { x with pins := x.pins + 1 } else x
        marks := if s.mover = [] ∧ s.highway.sync = .locked then { c.marks with mover := true } else c.marks } := by
  obtain ⟨channels, eq⟩ := enqueue_eq s (internalOrder p tag (.restore n id) total)
  have chan := enqueue_chan s (internalOrder p tag (.restore n id) total)
  rw [eq] at chan ⊢
  refine congrArg (fun v => { s with mover := s.mover ++ [internalOrder p tag (.restore n id) total], channels := v })
    (channels_ext fun m => (chan m).trans ?_)
  have modified := chan_modChan { s with mover := s.mover ++ [internalOrder p tag (.restore n id) total] } n m
    fun c => { c with
        ring := c.ring.map fun x => if x.id = id then { x with pins := x.pins + 1 } else x
        marks := if s.mover = [] ∧ s.highway.sync = .locked then { c.marks with mover := true } else c.marks }
  refine Eq.trans ?_ modified.symm
  by_cases own : n = m
  · subst own
    have live : (Work.restore n id).touchesLive n = true := by simp [Work.touchesLive, Work.regions]
    simp only [internalOrder, snapshots_restore, live, List.mem_singleton, Prod.mk.injEq, true_and, and_true, if_true]
    rfl
  · have live : (Work.restore n id).touchesLive m = false := by simp [Work.touchesLive, Work.regions, own]
    simp only [internalOrder, snapshots_restore, live, List.mem_singleton, Prod.mk.injEq, Ne.symm own, own, false_and,
      and_false, if_false, List.map_id', Bool.false_eq_true]
    rfl

theorem enqueue_restore_driveLink (s : State) (q : Port) (b : List Byte) (p : Port) (tag : Byte) (n : ChannelNo)
    (id total : Nat) : (s.driveLink q b).enqueue (internalOrder p tag (.restore n id) total)
      = (s.enqueue (internalOrder p tag (.restore n id) total)).driveLink q b := by
  rw [enqueue_restore, enqueue_restore]
  rfl

/-- Settles O38: the checks in their order, and the order that joins the queue (`enqueue_restore`). -/
theorem restoreEnqueues : Obligations.RestoreEnqueues := by
  intro s p tag id n ready lessee c params
  have acts := (restoreAct_of_lessee (s := s.driveLink p (commandEcho params)) (by simpa using lessee) tag id).trans
    (restoreChannel_of_byte _ p tag id n)
  rw [driveLink_chan, driveLink_mover] at acts
  rw [exec_restore]
  refine congrArg Host.Outcome.next ?_
  generalize restoreAct p tag params = act at acts ⊢
  split
  · next releasing => exact takeCommand_refused ready tag params act (acts.trans (if_pos releasing))
  · next live =>
    rw [if_neg live] at acts
    split
    · next zero => exact takeCommand_refused ready tag params act (acts.trans (if_pos zero))
    · next named =>
      rw [if_neg named] at acts
      split
      · next missing =>
        rw [missing] at acts
        exact takeCommand_refused ready tag params act acts
      · next r found =>
        rw [found] at acts
        dsimp only at acts
        split
        · next filling => exact takeCommand_refused ready tag params act (acts.trans (if_pos filling))
        · next full =>
          rw [if_neg full] at acts
          split
          · next busy => exact takeCommand_refused ready tag params act (acts.trans (if_pos busy))
          · next room =>
            rw [if_neg room, enqueue_restore_driveLink, FarWindow.bytes, boolCode_eq_ite, ← List.append_assoc] at acts
            have joined : ((s.enqueue (internalOrder p tag (.restore n id.toNat) c.profile.setTaps)).port p).joined = true := by
              rw [(enqueue_within _ _).heard.joined]
              exact ready.joined
            rw [takeCommand_answered ready tag params act acts joined, enqueue_restore]

end Sys2Proof.Machine

/-! SNAPSHOT (R52, R55 to R57), DROP_SNAPSHOT (R59) and CANCEL_MOVE (R117, R118): commands that close an event in which no
channel is granted a player. -/

namespace Sys2Proof.Machine

/-! ### The end of an event that grants nothing -/

theorem closeEvent_frame_of_granted {t : State} (s₀ : State) (h : t.Granted) :
    (s₀.closeEvent t).channels = t.channels ∧ (s₀.closeEvent t).players = t.players
      ∧ (s₀.closeEvent t).probeQueue = t.probeQueue ∧ (s₀.closeEvent t).mover = t.mover
      ∧ (s₀.closeEvent t).cache = t.cache ∧ (s₀.closeEvent t).parkCounter = t.parkCounter := by
  obtain ⟨channels, players, queue⟩ := closeEvent_calls_of_granted s₀ h
  exact ⟨channels, players, queue, closeEvent_mover _ _, closeEvent_cache _ _, closeEvent_parkCounter _ _⟩

theorem State.Granted.driveLink {s : State} (h : s.Granted) (p : Port) (b : List Byte) : (s.driveLink p b).Granted :=
  h.congr (driveLink_probeQueue s p b) (driveLink_players s p b)

/-- A state's judgment of the pool rests on its pool and its configuration alone. -/
theorem State.PoolJudged.from_same {s u t : State} (h : s.PoolJudged t) (pool : u.pool = s.pool) (config : u.config = s.config) :
    u.PoolJudged t :=
  ⟨by rw [pool, config]; exact h.flag, by rw [pool]; exact h.low, by rw [pool]; exact h.recovered⟩

/-- `t` has the calls and the stores of `u`, the pool judged against `s`. -/
structure State.Closes (s u t : State) : Prop where
  chan : ∀ m, t.chan m = u.chan m
  players : t.players = u.players
  probeQueue : t.probeQueue = u.probeQueue
  mover : t.mover = u.mover
  cache : t.cache = u.cache
  parkCounter : t.parkCounter = u.parkCounter
  free : t.pool.free = u.pool.free
  taps : t.pool.taps = u.pool.taps
  judged : s.PoolJudged t

/-- An event that has not touched the pool leaves it. -/
theorem State.Closes.pool_of_same {s u t : State} (h : s.Closes u t) (config : t.config = s.config) (same : u.pool = s.pool) :
    t.pool = s.pool := by
  have free : t.pool.free = s.pool.free := h.free.trans (congrArg Pool.free same)
  have taps : t.pool.taps = s.pool.taps := h.taps.trans (congrArg Pool.taps same)
  have flag : t.pool.flag = s.pool.flag := by
    rw [h.judged.flag, if_pos ⟨by rw [free], by rw [config]⟩]
  generalize t.pool = x at free taps flag
  cases x
  cases free
  cases taps
  cases flag
  rfl

/-- A command whose block closes the event of a state `u` in which no channel is granted a player. -/
theorem takeCommand_closes {s u : State} {p : Port} (ready : s.Ready p) (granted : s.Granted) (tag : Byte)
    (params : List Byte) {act : State → Reply} {payload : List Byte}
    (block : act (s.driveLink p (commandEcho params))
      = ((s.driveLink p (commandEcho params)).closeEvent u).answer payload)
    (within : (s.driveLink p (commandEcho params)).Within u) (players : u.players = s.players)
    (queue : u.probeQueue = s.probeQueue) (flag : u.pool.flag = s.pool.flag) :
    (s.answered p params ⟨.ok, tag, payload⟩).Within (takeCommand p tag params act s)
      ∧ s.Closes u (takeCommand p tag params act s) := by
  have closed := closeEvent_frame_of_granted (t := u) (s.driveLink p (commandEcho params)) (granted.congr queue players)
  have closing := within.trans (closeEvent_within (s.driveLink p (commandEcho params)) u)
  have judged := closeEvent_judged (s.driveLink p (commandEcho params)) u flag (by rw [within.config])
  have free := closeEvent_free (s.driveLink p (commandEcho params)) u
  have taps := closeEvent_taps (s.driveLink p (commandEcho params)) u
  generalize (s.driveLink p (commandEcho params)).closeEvent u = v at *
  obtain ⟨channels, players', queue', mover, cache, counter⟩ := closed
  have frame := takeCommand_frame ready tag params act block
  have judged' := (takeCommand_judged (tag := tag) ready block closing judged ⟨.ok, tag, []⟩).from_same (u := s) rfl rfl
  refine ⟨takeCommand_within ready tag params act block closing, ?_⟩
  generalize takeCommand p tag params act s = t at *
  obtain ⟨tChannels, tPool, tPlayers, tQueue, tMover, tCache, tCounter⟩ := frame
  exact {
    chan := fun m => congrArg (fun w : Vector Channel 48 => w.get m) (tChannels.trans channels)
    players := tPlayers.trans players'
    probeQueue := tQueue.trans queue'
    mover := tMover.trans mover
    cache := tCache.trans cache
    parkCounter := tCounter.trans counter
    free := (congrArg Pool.free tPool).trans free
    taps := (congrArg Pool.taps tPool).trans taps
    judged := judged' }

/-! ### DROP_SNAPSHOT (R59) -/

theorem exec_dropSnapshot (p : Port) (tag : Byte) (params : List Byte) (s : State) :
    exec (.dropSnapshot p tag params) s = .next (takeCommand p tag params (dropSnapshotAct p params) s) := rfl

theorem dropSnapshotAct_of_lessee {s : State} {p : Port} {n : ChannelNo} (lessee : (s.chan n).lessee = some p) (id : Byte) :
    dropSnapshotAct p [chanByte n, id] s =
      if id = 0 then s.refuse .badParam
      else match (s.chan n).ring.find? fun r => r.id == id.toNat with
        | none => s.refuse .notFound
        | some r =>
          if 0 < r.pins then s.refuse .busy
          else (s.closeEvent (s.removeSnapshot n id.toNat)).answer (enc1 r.segments.length) := by
  rw [dropSnapshotAct, withParams_some (parseChannelByte_chan n id), withLessee_of_lessee lessee, dropChannelSnapshot,
    if_congr (byte_eq_zero_iff id) rfl rfl] <;> rfl

theorem removeSnapshot_chan (s : State) (n : ChannelNo) (id : Nat) (m : ChannelNo) :
    (s.removeSnapshot n id).chan m = if n = m then (s.chan m).dropSnapshot id else s.chan m :=
  chan_modChan s n m fun c => c.dropSnapshot id

theorem mem_removedSegments (ring : List Snapshot) (id x : Nat) :
    x ∈ (ring.filter fun r => r.id = id).flatMap (·.segments) ↔ ∃ y ∈ ring, y.id = id ∧ x ∈ y.segments := by
  simp only [List.mem_flatMap, List.mem_filter, decide_eq_true_eq, and_assoc]

/-- Settles O39: the checks in their order, and the removal of the record as an event of its own. -/
theorem dropSnapshotFrees : Obligations.DropSnapshotFrees := by
  intro s p tag id n ready granted lessee c params refused
  have acts := dropSnapshotAct_of_lessee (s := s.driveLink p (commandEcho params)) (by simpa using lessee) id
  rw [driveLink_chan] at acts
  have refuses {status : Status} (block : dropSnapshotAct p params (s.driveLink p (commandEcho params))
      = (s.driveLink p (commandEcho params)).refuse status) : refused status := by
    show exec _ _ = _
    rw [exec_dropSnapshot, takeCommand_refused ready tag params _ block]
  split
  · next zero => exact refuses (acts.trans (if_pos zero))
  · next named =>
    rw [if_neg named] at acts
    split
    · next missing =>
      rw [missing] at acts
      exact refuses acts
    · next r found =>
      rw [found] at acts
      dsimp only at acts
      split
      · next pinned => exact refuses (acts.trans (if_pos pinned))
      · next loose =>
        rw [if_neg loose] at acts
        obtain ⟨free, taps⟩ := (removeSnapshot_ends (s.driveLink p (commandEcho params)) n id.toNat).returns
        have keeps := removeSnapshot_keeps (s.driveLink p (commandEcho params)) n id.toNat
        obtain ⟨within, closes⟩ := takeCommand_closes ready granted tag params acts (removeSnapshot_within _ n id.toNat)
          keeps.players keeps.probeQueue rfl
        refine ⟨_, exec_dropSnapshot p tag params s, within, ?_, fun m ne => ?_, fun x => ?_, fun a => ?_, closes.judged,
          closes.mover, closes.players.trans keeps.players, closes.probeQueue.trans keeps.probeQueue,
          closes.cache.trans keeps.cache, closes.parkCounter.trans keeps.parkCounter⟩
        · rw [closes.chan, removeSnapshot_chan, if_pos rfl]; rfl
        · rw [closes.chan, removeSnapshot_chan, if_neg (Ne.symm ne)]; rfl
        · rw [closes.free, ← mem_removedSegments]
          exact free x
        · rw [closes.taps, ← if_congr (mem_removedSegments _ _ _) rfl rfl]
          exact taps a

/-! ### CANCEL_MOVE (R117, R118) -/

theorem exec_cancelMove (p : Port) (tag order : Byte) (s : State) :
    exec (.cancelMove p tag [order]) s = .next (takeCommand p tag [order] (cancelMove p order.toNat) s) := rfl

theorem byte_beq_iff (a b : Byte) : (a.toNat == b.toNat) = true ↔ a = b := by
  rw [beq_iff_eq]
  exact ⟨BitVec.eq_of_toNat_eq, congrArg _⟩

theorem orderPlace_none {s : State} {p : Port} {order : Byte} (none : ∀ o ∈ s.mover, o.port = p → o.tag ≠ order) :
    s.orderPlace p order.toNat = Option.none := by
  refine List.findIdx?_eq_none_iff.2 fun o held => Bool.eq_false_iff.2 fun named => ?_
  obtain ⟨own, tagged⟩ := Bool.and_eq_true_iff.1 named
  exact none o held (beq_iff_eq.1 own) ((byte_beq_iff _ _).1 tagged)

theorem orderPlace_of_oldest {s : State} {p : Port} {order : Byte} {before after : List Order} {o : Order}
    (queue : s.mover = before ++ o :: after) (own : o.port = p) (tagged : o.tag = order)
    (oldest : ∀ x ∈ before, x.port = p → x.tag ≠ order) : s.orderPlace p order.toNat = some before.length := by
  have none : before.findIdx? (fun o => o.port == p && o.tag.toNat == order.toNat) = Option.none :=
    orderPlace_none (s := { s with mover := before }) oldest
  have named : (o.port == p && o.tag.toNat == order.toNat) = true := by simp [own, tagged]
  rw [State.orderPlace, queue, List.findIdx?_append, none, List.findIdx?_cons, if_pos named]
  simp

theorem cancelMove_of_oldest {s : State} {p : Port} {order : Byte} {before after : List Order} {o : Order}
    (queue : s.mover = before ++ o :: after) (own : o.port = p) (tagged : o.tag = order)
    (oldest : ∀ x ∈ before, x.port = p → x.tag ≠ order) : cancelMove p order.toNat s =
      (s.closeEvent (s.cancelOrder before.length o)).answer
        (enc1 o.work.code ++ enc1 (if before = [] then 1 else 0) ++ enc2 o.progress) := by
  have place : s.mover[before.length]? = some o := by rw [queue]; simp
  have first : ((before.length == 0 : Bool) = true) ↔ before = [] := by rw [beq_iff_eq, List.length_eq_zero_iff]
  rw [cancelMove, orderPlace_of_oldest queue own tagged oldest]
  dsimp only
  rw [place]
  dsimp only
  rw [boolCode_eq_ite, if_congr first rfl rfl]

theorem endEarly_pool (how : OrderEnd) (s : State) (o : Order) :
    (State.endEarly how s o).pool = (s.giveUp o.work).pool := by
  rw [State.endEarly, notify_pool, dropRollback_pool]

theorem giveUp_pool_of_other (s : State) {w : Work} (other : ∀ n id, w ≠ .capture n id) : (s.giveUp w).pool = s.pool := by
  cases w with
  | capture n id => exact absurd rfl (other n id)
  | _ => exact unpin_pool s _

theorem endEarly_told (how : OrderEnd) (s : State) (o : Order) (joined : (s.port o.port).joined = true) :
    ((State.endEarly how s o).port o.port).Told (moveDone o how o.progress) := by
  have same : ((s.giveUp o.work).dropRollback o).port o.port = s.port o.port := by
    simp only [State.port, dropRollback_ports, giveUp_ports]
  rw [State.endEarly, port_notify, if_pos ⟨rfl, by rw [same]; exact joined⟩]
  exact told_arrive _ _

theorem cancelOrder_keeps (s : State) (place : Nat) (o : Order) :
    (s.setMover (s.mover.eraseIdx place)).KeepsCalls (s.cancelOrder place o) :=
  (endEarly_keeps .cancelled (s.setMover (s.mover.eraseIdx place)) o).trans (markHead_keeps _)

theorem cancelOrder_mover (s : State) (place : Nat) (o : Order) :
    (s.cancelOrder place o).mover = s.mover.eraseIdx place := by
  rw [State.cancelOrder, markHead_mover, endEarly_mover]
  rfl

theorem cancelOrder_pool (s : State) (place : Nat) (o : Order) :
    (s.cancelOrder place o).pool = ((s.setMover (s.mover.eraseIdx place)).giveUp o.work).pool := by
  rw [State.cancelOrder, markHead_pool, endEarly_pool]

theorem cancelOrder_flag (s : State) (place : Nat) (o : Order) : (s.cancelOrder place o).pool.flag = s.pool.flag := by
  rw [State.cancelOrder, markHead_pool, endEarly_flag]
  rfl

theorem cancelOrder_told (s : State) (place : Nat) (o : Order) (joined : (s.port o.port).joined = true) :
    ((s.cancelOrder place o).port o.port).Told (moveDone o .cancelled o.progress) := by
  have told := endEarly_told .cancelled (s.setMover (s.mover.eraseIdx place)) o joined
  rw [State.cancelOrder]
  simpa only [State.port, markHead_ports] using told

theorem cancelOrder_returns (s : State) (place : Nat) {o : Order} {n : ChannelNo} {id : Nat} (work : o.work = .capture n id) :
    s.Returns (s.cancelOrder place o) (((s.chan n).ring.filter fun r => r.id = id).flatMap (·.segments)) := by
  have back := (removeSnapshot_ends (s.setMover (s.mover.eraseIdx place)) n id).returns
  refine State.Returns.same (s := s) back ?_
  rw [cancelOrder_pool, work]
  rfl

/-- Settles O42: the place of the order, and its early end as an event of its own. -/
theorem cancelMoveEndsOldest : Obligations.CancelMoveEndsOldest := by
  intro s p tag order ready granted
  refine ⟨fun none => ?_, fun before o after queue own tagged oldest => ?_⟩
  · have place : (s.driveLink p (commandEcho [order])).orderPlace p order.toNat = Option.none := orderPlace_none none
    have block : cancelMove p order.toNat (s.driveLink p (commandEcho [order]))
        = (s.driveLink p (commandEcho [order])).refuse .notFound := by rw [cancelMove, place]
    rw [exec_cancelMove, takeCommand_refused ready tag _ _ block]
  · have block := cancelMove_of_oldest (s := s.driveLink p (commandEcho [order])) queue own tagged oldest
    have keeps := cancelOrder_keeps (s.driveLink p (commandEcho [order])) before.length o
    have left : s.mover.eraseIdx before.length = before ++ after := by
      rw [queue, List.eraseIdx_append_of_length_le (Nat.le_refl _), Nat.sub_self]
      rfl
    obtain ⟨within, closes⟩ := takeCommand_closes ready granted tag [order] block (cancelOrder_within _ _ _) keeps.players
      keeps.probeQueue (cancelOrder_flag _ _ _)
    refine ⟨_, exec_cancelMove p tag order s, within, ?_, ?_, fun m => ?_, closes.judged, ?_,
      closes.players.trans keeps.players, closes.probeQueue.trans keeps.probeQueue, closes.cache.trans keeps.cache,
      closes.parkCounter.trans keeps.parkCounter⟩
    · exact closes.mover.trans ((cancelOrder_mover _ _ _).trans left)
    · have told := cancelOrder_told (s.driveLink p (commandEcho [order])) before.length o
        (by rw [driveLink_joined, own]; exact ready.joined)
      rw [own, moveDone, tagged] at told
      exact takeCommand_told ready block (closeEvent_told_of_kind_ne _ told (by simp) (by simp))
    · rw [closes.chan, cancelOrder_chan, driveLink_mover, left]
      rfl
    · cases work : o.work with
      | capture n id =>
        obtain ⟨free, taps⟩ := cancelOrder_returns (s.driveLink p (commandEcho [order])) before.length work
        refine ⟨fun a => ?_, fun x => ?_⟩
        · rw [closes.taps, ← if_congr (mem_removedSegments _ _ _) rfl rfl]
          exact taps a
        · rw [closes.free, ← mem_removedSegments]
          exact free x
      | _ =>
        refine closes.pool_of_same within.config ?_
        rw [cancelOrder_pool, giveUp_pool_of_other _ (by simp [work])]
        rfl

end Sys2Proof.Machine

/-! SNAPSHOT (R52, R55 to R57): the id of a new record, the room for it, and what the command leaves. -/

namespace Sys2Proof.Machine

/-! ### The id of a new record (R52) -/

theorem nodup_ids (next : Nat) : ((List.range 255).map fun k => (next - 1 + k) % 255 + 1).Nodup := by
  refine List.Nodup.map_on (fun a ha b hb same => ?_) List.nodup_range
  rw [List.mem_range] at ha hb
  omega

theorem idsFrom_eq {next : Nat} (positive : 1 ≤ next) :
    idsFrom next = (List.range 255).map fun k => (next - 1 + k) % 255 + 1 := by
  refine List.map_congr_left fun k _ => ?_
  rw [Nat.sub_add_comm positive]

/-- The first id, from the next snapshot id upward, that no record has. -/
theorem newId_first (c : Channel) (room : c.ring.length < 255) (positive : 1 ≤ c.nextSnapshot) :
    let id (k : Nat) := (c.nextSnapshot - 1 + k) % 255 + 1
    ∃ k, k < 255 ∧ c.newId = id k ∧ (∀ r ∈ c.ring, r.id ≠ id k) ∧ ∀ j, j < k → ∃ r ∈ c.ring, r.id = id j := by
  intro id
  have ids : idsFrom c.nextSnapshot = (List.range 255).map id := idsFrom_eq positive
  have free : ∃ x ∈ idsFrom c.nextSnapshot, (!c.ring.any fun r => r.id == x) = true := by
    by_contra none
    push Not at none
    have all : (List.range 255).map id ⊆ c.ring.map Snapshot.id := by
      intro x hx
      have used := none x (by rw [ids]; exact hx)
      simp only [ne_eq, Bool.not_eq_true', Bool.not_eq_false, List.any_eq_true, beq_iff_eq] at used
      obtain ⟨r, hr, same⟩ := used
      exact List.mem_map.2 ⟨r, hr, same⟩
    have bound := (List.subperm_of_subset (nodup_ids c.nextSnapshot) all).length_le
    simp only [List.length_map, List.length_range] at bound
    omega
  obtain ⟨x, found⟩ := Option.isSome_iff_exists.1 (List.find?_isSome.2 free)
  have new : c.newId = x := by rw [Channel.newId, found, Option.getD_some]
  rw [ids] at found
  obtain ⟨unused, k, small, at_k, earlier⟩ := List.find?_eq_some_iff_getElem.1 found
  rw [List.length_map, List.length_range] at small
  rw [List.getElem_map, List.getElem_range] at at_k
  refine ⟨k, small, new.trans at_k.symm, fun r hr same => ?_, fun j hj => ?_⟩
  · simp only [Bool.not_eq_true', List.any_eq_false, beq_iff_eq] at unused
    exact unused r hr (same.trans at_k)
  · have used := earlier j hj
    rw [List.getElem_map, List.getElem_range] at used
    simpa using used

/-! ### What a new record leaves (R57) -/

theorem snapshotOn_enqueue (p : Port) (tag : Byte) (n : ChannelNo) (room : SnapshotRoom) :
    State.snapshotOn p tag n room = (room.state.modChan n fun c => c.addSnapshot room.segments).enqueue
      (internalOrder p tag (.capture n (room.state.chan n).newId) (room.state.chan n).profile.setTaps) := by
  rw [State.snapshotOn, chan_modChan_self]
  rfl

/-- The record that SNAPSHOT creates. -/
def Channel.newRecord (c : Channel) (segments : List Nat) : Snapshot :=
  ⟨c.newId, false, segments, .inactive, (c.measured.map Measurements.figure).getD 0, 0⟩

theorem addSnapshot_eq (c : Channel) (segments : List Nat) : c.addSnapshot segments =
    { c with ring := c.ring ++ [c.newRecord segments], nextSnapshot := c.newId % 255 + 1 } := rfl

/-- What a record made on the room found leaves of its channel: the record is the newest and holds its CAPTURE's pin. -/
theorem snapshotOn_own (p : Port) (tag : Byte) (n : ChannelNo) (room : SnapshotRoom) :
    let old := room.state.chan n
    let new := old.newRecord room.segments
    ∃ ring marks, (State.snapshotOn p tag n room).chan n = { old with
        ring := ring, nextSnapshot := old.newId % 255 + 1, marks := marks }
      ∧ ring.map (fun r => { r with pins := 0 }) = old.records ++ [new]
      ∧ ring.getLast? = some { new with pins := 1 } := by
  intro old new
  have chan := enqueue_chan (room.state.modChan n fun c => c.addSnapshot room.segments)
    (internalOrder p tag (.capture n old.newId) old.profile.setTaps) n
  rw [← snapshotOn_enqueue, chan_modChan_self, addSnapshot_eq] at chan
  refine ⟨_, _, chan, ?_, ?_⟩
  · rw [List.map_map, List.map_append, List.map_singleton, Channel.records]
    congr 1
    · refine List.map_congr_left fun r _ => ?_
      simp only [Function.comp_apply]
      split <;> rfl
    · simp only [Function.comp_apply]
      split <;> rfl
  · rw [List.map_append, List.map_singleton, List.getLast?_append_of_ne_nil _ (List.cons_ne_nil _ _), List.getLast?_singleton]
    exact congrArg some (if_pos (List.mem_singleton.2 rfl))

theorem snapshotOn_left (p : Port) (tag : Byte) (n : ChannelNo) (room : SnapshotRoom) :
    let t := State.snapshotOn p tag n room
    let old := room.state.chan n
    (∀ m, m ≠ n → t.chan m = room.state.chan m)
      ∧ t.mover = room.state.mover ++ [internalOrder p tag (.capture n old.newId) old.profile.setTaps]
      ∧ t.pool = room.state.pool ∧ t.players = room.state.players ∧ t.probeQueue = room.state.probeQueue
      ∧ t.cache = room.state.cache ∧ t.parkCounter = room.state.parkCounter := by
  intro t old
  have enqueued : t = _ := snapshotOn_enqueue p tag n room
  obtain ⟨channels, eq⟩ := enqueue_eq (room.state.modChan n fun c => c.addSnapshot room.segments)
    (internalOrder p tag (.capture n old.newId) old.profile.setTaps)
  refine ⟨fun m ne => ?_, ?_⟩
  · rw [enqueued, enqueue_chan, chan_modChan_of_ne _ _ (Ne.symm ne)]
    have live : (Work.capture n old.newId).touchesLive m = false := by simp [Work.touchesLive, Work.regions, Ne.symm ne]
    simp only [internalOrder, snapshots_capture, old, live, List.mem_singleton, Prod.mk.injEq, ne, false_and, and_false,
      if_false, List.map_id', Bool.false_eq_true]
  · rw [eq] at enqueued
    rw [enqueued]
    exact ⟨rfl, rfl, rfl, rfl, rfl, rfl⟩

/-! ### The command -/

theorem exec_snapshot (p : Port) (tag : Byte) (params : List Byte) (s : State) :
    exec (.snapshot p tag params) s = .next (takeCommand p tag params (snapshotAct p tag params) s) := rfl

theorem snapshotAct_of_lessee {s : State} {p : Port} {n : ChannelNo} (lessee : (s.chan n).lessee = some p) (tag : Byte) :
    snapshotAct p tag [chanByte n] s = snapshotChannel p tag n s := by
  rw [snapshotAct, withParams_some (parseByte_chan n), withLessee_of_lessee lessee]

theorem snapshotChannel_of_releasing {s : State} {n : ChannelNo} (releasing : (s.chan n).state = .releasing) (p : Port)
    (tag : Byte) : snapshotChannel p tag n s = s.refuse .wrongState := if_pos releasing

theorem snapshotChannel_of_error {s : State} {n : ChannelNo} (live : (s.chan n).state ≠ .releasing) {status : Status}
    (full : s.snapshotRoom n = .error status) (p : Port) (tag : Byte) :
    snapshotChannel p tag n s = s.refuse status := by
  rw [snapshotChannel, if_neg live, full]

theorem snapshotChannel_of_busy {s : State} {n : ChannelNo} (live : (s.chan n).state ≠ .releasing) {room : SnapshotRoom}
    (found : s.snapshotRoom n = .ok room) (busy : 16 ≤ s.mover.length) (p : Port) (tag : Byte) :
    snapshotChannel p tag n s = s.refuse .busy := by
  rw [snapshotChannel, if_neg live, found]
  exact if_pos busy

theorem snapshotChannel_of_room {s : State} {n : ChannelNo} (live : (s.chan n).state ≠ .releasing) {room : SnapshotRoom}
    (found : s.snapshotRoom n = .ok room) (places : ¬16 ≤ s.mover.length) (p : Port) (tag : Byte) :
    snapshotChannel p tag n s = (s.closeEvent (State.snapshotOn p tag n room)).answer
      (enc1 (room.state.chan n).newId ++ enc1 room.retired ++ enc1 room.taken
        ++ enc1 (((room.state.chan n).measured.map Measurements.figure).getD 0)) := by
  rw [snapshotChannel, if_neg live, found]
  dsimp only
  rw [if_neg places, chan_modChan_self, snapshotOn_enqueue]
  rfl

theorem snapshotRoom_of_free {s : State} {n : ChannelNo}
    (room : (s.chan n).ring.length < 3 ∧ (s.chan n).live.length ≤ s.pool.free.length) :
    s.snapshotRoom n = .ok ⟨s.pool.free.take (s.chan n).live.length, 0, (s.chan n).live.length,
      s.setFree (s.pool.free.drop (s.chan n).live.length)⟩ := if_pos room

theorem snapshotRoom_of_retired {s : State} {n : ChannelNo}
    (short : ¬((s.chan n).ring.length < 3 ∧ (s.chan n).live.length ≤ s.pool.free.length)) {r : Snapshot}
    (oldest : (s.chan n).recyclable = some r) :
    s.snapshotRoom n = .ok ⟨r.segments, r.id, 0, s.modChan n fun c => c.dropSnapshot r.id⟩ := by
  rw [State.snapshotRoom, if_neg short, oldest]

theorem snapshotRoom_of_none {s : State} {n : ChannelNo}
    (short : ¬((s.chan n).ring.length < 3 ∧ (s.chan n).live.length ≤ s.pool.free.length))
    (none : (s.chan n).recyclable = none) :
    s.snapshotRoom n = .error (if (s.chan n).ring.length < 3 then .noSpace else .busy) := by
  rw [State.snapshotRoom, if_neg short, none]

/-- Room for a new record: `u` is `s` but for the record retired or the segments taken. -/
structure State.RoomFor (s : State) (n : ChannelNo) (ring : List Snapshot) (taken : Nat) (u : State) : Prop where
  within : s.Within u
  own : u.chan n = { s.chan n with ring := ring }
  others : ∀ m, m ≠ n → u.chan m = s.chan m
  pool : u.pool = { s.pool with free := s.pool.free.drop taken }
  mover : u.mover = s.mover
  players : u.players = s.players
  probeQueue : u.probeQueue = s.probeQueue
  cache : u.cache = s.cache
  parkCounter : u.parkCounter = s.parkCounter

theorem roomFor_free (s : State) (n : ChannelNo) (k : Nat) :
    s.RoomFor n (s.chan n).ring k (s.setFree (s.pool.free.drop k)) :=
  ⟨setFree_within s _, rfl, fun _ _ => rfl, rfl, rfl, rfl, rfl, rfl, rfl⟩

theorem roomFor_retired (s : State) (n : ChannelNo) (id : Nat) :
    s.RoomFor n ((s.chan n).ring.filter fun x => x.id ≠ id) 0 (s.modChan n fun c => c.dropSnapshot id) :=
  ⟨modChan_within s n _, chan_modChan_self s n _, fun _ ne => chan_modChan_of_ne s _ (Ne.symm ne), rfl, rfl, rfl, rfl, rfl,
    rfl⟩

/-- The command, once room is found. -/
theorem snapshot_creates {s : State} {p : Port} {tag : Byte} {n : ChannelNo} (ready : s.Ready p) (granted : s.Granted)
    (lessee : (s.chan n).lessee = some p) (live : (s.chan n).state ≠ .releasing) (places : ¬16 ≤ s.mover.length)
    {segments ring : List _} {retired taken : Nat} {u : State}
    (found : (s.driveLink p (commandEcho [chanByte n])).snapshotRoom n = .ok ⟨segments, retired, taken, u⟩)
    (room : (s.driveLink p (commandEcho [chanByte n])).RoomFor n ring taken u) :
    let old : Channel := { s.chan n with ring := ring }
    let id := old.newId
    let figure := ((s.chan n).measured.map Measurements.figure).getD 0
    ∃ t ring marks, exec (.snapshot p tag [chanByte n]) s = .next t
      ∧ (s.answered p [chanByte n] ⟨.ok, tag, enc1 id ++ enc1 retired ++ enc1 taken ++ enc1 figure⟩).Within t
      ∧ t.chan n = { s.chan n with ring := ring, nextSnapshot := id % 255 + 1, marks := marks }
      ∧ ring.map (fun r => { r with pins := 0 }) = old.records ++ [⟨id, false, segments, ⟨0, false⟩, figure, 0⟩]
      ∧ ring.getLast? = some ⟨id, false, segments, ⟨0, false⟩, figure, 1⟩
      ∧ t.mover = s.mover ++ [⟨tag, p, .internal, false, .capture n id, (s.chan n).profile.setTaps, 0⟩]
      ∧ t.pool.free = s.pool.free.drop taken ∧ t.pool.taps = s.pool.taps ∧ s.PoolJudged t
      ∧ (∀ m, m ≠ n → t.chan m = s.chan m)
      ∧ t.players = s.players ∧ t.probeQueue = s.probeQueue ∧ t.cache = s.cache ∧ t.parkCounter = s.parkCounter := by
  intro old id figure
  have own : u.chan n = old := room.own
  have block := (snapshotAct_of_lessee (s := s.driveLink p (commandEcho [chanByte n])) (by simpa using lessee) tag).trans
    (snapshotChannel_of_room (by simpa using live) found (by simpa using places) p tag)
  dsimp only at block
  rw [own] at block
  obtain ⟨others, mover, pool, players, queue, cache, counter⟩ := snapshotOn_left p tag n ⟨segments, retired, taken, u⟩
  obtain ⟨ring', marks, chan, records, newest⟩ := snapshotOn_own p tag n ⟨segments, retired, taken, u⟩
  dsimp only at others mover pool players queue cache counter chan records newest
  rw [own] at mover chan records newest
  have within := room.within.trans (snapshotOn_within p tag n ⟨segments, retired, taken, u⟩)
  generalize State.snapshotOn p tag n ⟨segments, retired, taken, u⟩ = v at *
  have pool' : v.pool = { s.pool with free := s.pool.free.drop taken } := pool.trans room.pool
  obtain ⟨answered, closes⟩ := takeCommand_closes ready granted tag [chanByte n] block within (players.trans room.players)
    (queue.trans room.probeQueue) (by rw [pool'])
  refine ⟨_, ring', marks, exec_snapshot p tag [chanByte n] s, answered, (closes.chan n).trans chan, records, newest, ?_, ?_,
    ?_, closes.judged, fun m ne => ?_, closes.players.trans (players.trans room.players),
    closes.probeQueue.trans (queue.trans room.probeQueue), closes.cache.trans (cache.trans room.cache),
    closes.parkCounter.trans (counter.trans room.parkCounter)⟩
  · rw [closes.mover, mover, room.mover]
    rfl
  · rw [closes.free, pool']
  · rw [closes.taps, pool']
  · exact (closes.chan m).trans ((others m ne).trans (room.others m ne))

/-- Settles O37: the first free id (`newId_first`); the checks, and the record made on the free segments or on the retired
record's (`snapshot_creates`). -/
theorem snapshotCreates : Obligations.SnapshotCreates := by
  refine ⟨fun c room positive _ => newId_first c room positive, ?_⟩
  intro s p tag n ready granted lessee c params refused oldest inRing created
  have acts := snapshotAct_of_lessee (s := s.driveLink p (commandEcho params)) (by simpa using lessee) tag
  have refuses {status : Status} (block : snapshotChannel p tag n (s.driveLink p (commandEcho params))
      = (s.driveLink p (commandEcho params)).refuse status) : refused status := by
    show exec _ _ = _
    rw [exec_snapshot, takeCommand_refused ready tag params _ (acts.trans block)]
  split
  · next releasing => exact refuses (snapshotChannel_of_releasing (s := s.driveLink p (commandEcho params)) releasing p tag)
  · next live =>
    have live' : ((s.driveLink p (commandEcho params)).chan n).state ≠ .releasing := live
    split
    · next short =>
      exact refuses (snapshotChannel_of_error live' (snapshotRoom_of_none (s := s.driveLink p (commandEcho params)) short.1 short.2) p tag)
    · next roomy =>
      split
      · next busy =>
        by_cases free : inRing
        · exact refuses (snapshotChannel_of_busy live' (snapshotRoom_of_free (s := s.driveLink p (commandEcho params)) free) busy p tag)
        · obtain ⟨r, retired⟩ := Option.ne_none_iff_exists'.1 fun none => roomy ⟨free, none⟩
          exact refuses (snapshotChannel_of_busy live' (snapshotRoom_of_retired (s := s.driveLink p (commandEcho params)) free retired) busy p tag)
      · next places =>
        split
        · next free =>
          exact snapshot_creates ready granted lessee live places (snapshotRoom_of_free (s := s.driveLink p (commandEcho params)) free)
            (roomFor_free _ n _)
        · next short =>
          intro r retired
          exact snapshot_creates ready granted lessee live places (snapshotRoom_of_retired (s := s.driveLink p (commandEcho params)) short retired)
            (roomFor_retired _ n r.id)

end Sys2Proof.Machine

/-! The Adaptation Engine's work on one channel: the contention detector (R69, R70), the freeze reasons (R64), proving and
divergence (R79 to R85). -/

namespace Sys2Proof.Machine

/-! ### The contention detector and the freeze reasons -/

theorem contentionResult_iff (margin : Int) (m : Measurements) :
    contentionResult margin m = true ↔ margin < m.receive - m.estimate := by
  simp [contentionResult]

theorem detect_of_tracking {s : State} {n : ChannelNo} (tracking : (s.chan n).state = .tracking) (m : Measurements) :
    s.detect n (some m) =
      if s.config.contentionMargin < m.receive - m.estimate then
        let u := s.modChan n fun c => { c with contentionLive := true, hangover := 4 }
        if (s.chan n).contentionLive = true then u
        else u.notifyLessee (s.chan n).lessee ⟨.contention, some n, [m.receive, m.estimate]⟩
      else s.modChan n fun c => { c with contentionLive := false, hangover := c.hangover - 1 } := by
  rw [State.detect, if_pos tracking]
  dsimp only
  rw [if_congr (contentionResult_iff _ _) rfl rfl]

theorem detect_of_unmeasured {s : State} {n : ChannelNo} (tracking : (s.chan n).state = .tracking) :
    s.detect n none = s := if_pos tracking

theorem detect_of_other {s : State} {n : ChannelNo} (other : (s.chan n).state ≠ .tracking) (handed : Option Measurements) :
    s.detect n handed = s.modChan n fun c => { c with contentionLive := false, hangover := 0 } := if_neg other

/-- STRANDED: the measurements alone (R62). -/
theorem engineWork_of_stranded {s₀ : State} {n : ChannelNo} (stranded : (s₀.chan n).state = .stranded) (s : State) :
    s₀.engineWork s n = s.modChan n (Channel.record (s₀.chan n).handed) := by
  simp only [State.engineWork, stranded]

/-- Settles O34: the detector by the states of the channel, and the freeze reasons one by one. -/
theorem detectorAndFreeze : Obligations.DetectorAndFreeze := by
  refine ⟨fun s n m => ⟨fun tracking => ⟨detect_of_unmeasured tracking, detect_of_tracking tracking m⟩, detect_of_other⟩,
    fun s₀ s n stranded => ?_, fun cfg c => ⟨?_, ?_, rfl, rfl, ?_⟩⟩
  · exact ⟨_, (engineWork_of_stranded stranded s).trans (modChan_congr s n _ _ rfl)⟩
  · simp only [Channel.freezeReasons, Bool.and_eq_true, Bool.or_eq_true, beq_iff_eq, decide_eq_true_eq, Option.any_eq_true,
      contentionResult_iff, and_assoc]
  · simp only [Channel.freezeReasons, Bool.and_eq_true, beq_iff_eq]
  · simp only [Channel.freezeReasons, Bool.or_eq_true, beq_iff_eq]

/-! ### Proving and divergence -/

theorem judgeChannel_of_proving {s : State} {n : ChannelNo} (tracking : (s.chan n).state = .tracking) {k : Nat}
    (proving : (s.chan n).proving = some k) : s.judgeChannel n =
      if 8 ≤ (s.chan n).goodRun then
        (s.modChan n fun c => { c with proving := none }).notifyLessee (s.chan n).lessee
          ⟨.proving, some n, [0, (s.chan n).figure]⟩
      else if k = 0 then (s.enterQueued n).notifyLessee (s.chan n).lessee ⟨.proving, some n, [1, (s.chan n).figure]⟩
      else s := by
  have zero : (s.chan n).proving = some 0 ↔ k = 0 := by rw [proving]; exact Option.some_inj
  simp only [State.judgeChannel, tracking]
  rw [if_pos (by rw [proving]; rfl), State.judgeProving, if_congr zero rfl rfl]

theorem judgeChannel_of_tracking {s : State} {n : ChannelNo} (tracking : (s.chan n).state = .tracking)
    (proved : (s.chan n).proving = none) : s.judgeChannel n = if 16 ≤ (s.chan n).badRun then s.diverge n else s := by
  simp only [State.judgeChannel, tracking]
  rw [if_neg (by rw [proved]; decide)]

theorem diverge_of_stay {s : State} {n : ChannelNo} (stay : (s.chan n).policy.recovery = .stay) :
    s.diverge n = (s.modChan n fun c => { c with goodRun := 0, badRun := 0 }).notifyLessee (s.chan n).lessee
      ⟨.diverged, some n, [0, (s.chan n).figure, 0]⟩ := by
  simp only [State.diverge, stay]
  rfl

theorem diverge_of_retrain {s : State} {n : ChannelNo} (retrain : (s.chan n).policy.recovery = .retrain) :
    s.diverge n = s.retrainDiverged n := by
  simp only [State.diverge, retrain]

theorem newestReady_none {c : Channel} (none : ∀ r ∈ c.ring, r.ready = false) : c.newestReady = Option.none := by
  refine List.find?_eq_none.2 fun r held => ?_
  rw [none r (List.mem_reverse.1 held)]
  exact Bool.false_ne_true

theorem newestReady_of_last {c : Channel} {before after : List Snapshot} {r : Snapshot} (ring : c.ring = before ++ r :: after)
    (ready : r.ready = true) (filling : ∀ x ∈ after, x.ready = false) : c.newestReady = some r := by
  have none : after.reverse.find? Snapshot.ready = Option.none := newestReady_none (c := { c with ring := after }) filling
  rw [Channel.newestReady, ring, List.reverse_append, List.reverse_cons, List.append_assoc, List.find?_append, none,
    List.singleton_append, List.find?_cons_of_pos ready]
  rfl

/-- Where there is no rollback, the channel is retrained (R84). -/
theorem diverge_of_no_rollback {s : State} {n : ChannelNo} (rollback : (s.chan n).policy.recovery = .rollback)
    (no : (s.chan n).guard ≠ none ∨ (s.chan n).rollback ≠ none ∨ (∀ r ∈ (s.chan n).ring, r.ready = false)
      ∨ 16 ≤ s.mover.length) : s.diverge n = s.retrainDiverged n := by
  simp only [State.diverge, rollback]
  by_cases taken : ((s.chan n).guard.isSome || (s.chan n).rollback.isSome) = true
  · rw [if_pos taken]
  · rw [if_neg taken]
    obtain ⟨unguarded, idle⟩ := Bool.or_eq_false_iff.1 (Bool.eq_false_of_not_eq_true taken)
    rcases no with guarded | queued | filling | full
    · exact absurd (Option.not_isSome_iff_eq_none.1 (Bool.eq_false_iff.1 unguarded)) guarded
    · exact absurd (Option.not_isSome_iff_eq_none.1 (Bool.eq_false_iff.1 idle)) queued
    · rw [newestReady_none filling]
    · split
      · rw [if_neg (Nat.not_lt.2 full)]
      · rfl

theorem diverge_of_rollback {s : State} {n : ChannelNo} {p : Port} {r : Snapshot}
    (rollback : (s.chan n).policy.recovery = .rollback) (unguarded : (s.chan n).guard = none)
    (idle : (s.chan n).rollback = none) (lessee : (s.chan n).lessee = some p) (room : s.mover.length < 16)
    (newest : (s.chan n).newestReady = some r) : s.diverge n =
      ((s.modChan n fun c => { c with goodRun := 0, badRun := 0, rollback := some true }).enqueue
        (rollbackOrder n p (s.chan n) r)).notifyLessee (some p) ⟨.diverged, some n, [2, (s.chan n).figure, (r.id : Int)]⟩ := by
  simp only [State.diverge, rollback]
  rw [if_neg (by rw [unguarded, idle]; decide), newest, lessee]
  exact if_pos room

theorem enqueueRollback_chan {u : State} {n : ChannelNo} (p : Port) (c : Channel) (r : Snapshot) :
    (∃ marks, (u.enqueue (rollbackOrder n p c r)).chan n = { u.chan n with
      ring := (u.chan n).ring.map fun x => if x.id = r.id then { x with pins := x.pins + 1 } else x, marks := marks })
    ∧ ∀ m, m ≠ n → (u.enqueue (rollbackOrder n p c r)).chan m = u.chan m := by
  refine ⟨?_, fun m ne => ?_⟩
  · have own := enqueue_chan u (rollbackOrder n p c r) n
    have names : (rollbackOrder n p c r).work.snapshots = [(n, r.id)] := snapshots_restore n r.id
    rw [names] at own
    simp only [List.mem_singleton, Prod.mk.injEq, true_and] at own
    exact ⟨_, own⟩
  · have live : (Work.restore n r.id).touchesLive m = false := by simp [Work.touchesLive, Work.regions, Ne.symm ne]
    rw [enqueue_chan]
    simp only [rollbackOrder, snapshots_restore, live, List.mem_singleton, Prod.mk.injEq, ne, false_and, and_false, if_false,
      List.map_id', Bool.false_eq_true]

/-- Settles O36, by proving and the recovery policy. -/
theorem provingAndDivergence : Obligations.ProvingAndDivergence := by
  intro s n tracking c figure t requeued retrained
  have retrains : s.retrainDiverged n = retrained := rfl
  refine ⟨fun k proving => judgeChannel_of_proving tracking proving, fun proved good => ?_, fun proved bad => ?_⟩
  · exact (judgeChannel_of_tracking tracking proved).trans (if_neg (Nat.not_le.2 good))
  · have diverges : t = s.diverge n := (judgeChannel_of_tracking tracking proved).trans (if_pos bad)
    rw [diverges]
    refine ⟨diverge_of_stay, diverge_of_retrain, fun rollback => ⟨diverge_of_no_rollback rollback, ?_⟩⟩
    intro p before r after unguarded idle lessee room ring ready filling
    rw [diverge_of_rollback rollback unguarded idle lessee room (newestReady_of_last ring ready filling)]
    obtain ⟨⟨marks, own⟩, others⟩ := enqueueRollback_chan (n := n)
      (u := s.modChan n fun c => { c with goodRun := 0, badRun := 0, rollback := some true }) p (s.chan n) r
    rw [chan_modChan_self] at own
    obtain ⟨channels, eq⟩ := enqueue_eq (s.modChan n fun c => { c with goodRun := 0, badRun := 0, rollback := some true })
      (rollbackOrder n p (s.chan n) r)
    have within := (modChan_within s n fun c => { c with goodRun := 0, badRun := 0, rollback := some true }).trans
      (enqueue_within _ (rollbackOrder n p (s.chan n) r))
    refine ⟨within.trans (notifyLessee_within _ _ _), ?_, ⟨marks, ?_⟩, fun joined => ?_, fun m ne => ?_, ?_, ?_⟩
    · rw [notifyLessee_mover, enqueue_mover]; rfl
    · rw [chan_notifyLessee, own]
    · exact told_notifyLessee (by rw [within.heard.joined]; exact joined) _
    · rw [chan_notifyLessee, others m ne, chan_modChan_of_ne _ _ (Ne.symm ne)]
    · rw [notifyLessee_pool, eq]; rfl
    · rw [notifyLessee_probeQueue, eq]; rfl

end Sys2Proof.Machine

/-! The evictions for an ATTACH (R46), and SET_CONFIG (R151), with what the end of a command leaves of the notices that its
block has raised. -/

namespace Sys2Proof.Machine

/-! ### A series of evictions, port by port -/

theorem evict_eq (reason : EvictReason) (s : State) (e : CacheEntry) :
    ∃ cache pool ports, s.evict reason e = { s with cache := cache, pool := pool, ports := ports } := by
  obtain ⟨ports, eq⟩ := broadcast_eq ((s.setCache (s.cache.filter fun x => x.routeTag ≠ e.routeTag)).returnSegments e.segments)
    ⟨.cacheEvicted, none, [(reason.code : Int), (e.routeTag : Int), (e.segments.length : Int),
      (((s.cache.filter fun x => x.routeTag ≠ e.routeTag)).length : Int)]⟩
  exact ⟨_, _, ports, eq⟩

/-- Cache, pool and ports are all that a series of evictions touches. -/
theorem evictAll_eq (reason : EvictReason) (gone : List CacheEntry) (s : State) : ∃ cache pool ports,
    gone.foldl (State.evict reason) s = { s with cache := cache, pool := pool, ports := ports } := by
  induction gone generalizing s with
  | nil => exact ⟨s.cache, s.pool, s.ports, rfl⟩
  | cons e rest ih =>
    obtain ⟨cache, pool, ports, first⟩ := evict_eq reason s e
    obtain ⟨cache', pool', ports', others⟩ := ih (s.evict reason e)
    refine ⟨cache', pool', ports', ?_⟩
    rw [List.foldl_cons, others, first]

theorem evict_port {s : State} (tags : (s.cache.map CacheEntry.routeTag).Nodup) (reason : EvictReason) {e : CacheEntry}
    (held : e ∈ s.cache) (q : Port) : (s.evict reason e).port q = if (s.port q).joined = true then
      (s.port q).arrive ⟨.cacheEvicted, none, [(reason.code : Int), (e.routeTag : Int), (e.segments.length : Int),
        ((s.cache.length - 1 : Nat) : Int)]⟩ else s.port q := by
  rw [← length_without_tag tags held]
  exact port_broadcast ((s.setCache (s.cache.filter fun x => x.routeTag ≠ e.routeTag)).returnSegments e.segments) q _

/-- The notices of a series of evictions, at each port. -/
theorem evictAll_port (reason : EvictReason) (gone : List CacheEntry) {s : State}
    (tags : (s.cache.map CacheEntry.routeTag).Nodup) (distinct : (gone.map CacheEntry.routeTag).Nodup)
    (held : ∀ e ∈ gone, e ∈ s.cache) (q : Port) : (gone.foldl (State.evict reason) s).port q =
      if (s.port q).joined = true then (evictNotices reason.code s.cache.length gone).foldl PortRecord.arrive (s.port q)
      else s.port q := by
  induction gone generalizing s with
  | nil => exact (ite_self (s.port q)).symm
  | cons e rest ih =>
    rw [List.map_cons, List.nodup_cons] at distinct
    have own := held e List.mem_cons_self
    have joined := (evict_within reason s e).heard.joined q
    have others := ih (s := s.evict reason e)
      (by rw [evict_cache]; exact tags.sublist (List.filter_sublist.map _)) distinct.2 fun x hx => by
        rw [evict_cache, List.mem_filter]
        exact ⟨held x (List.mem_cons_of_mem _ hx), decide_eq_true fun same => distinct.1 (same ▸ List.mem_map_of_mem hx)⟩
    rw [evict_cache, length_without_tag tags own] at others
    rw [List.foldl_cons, others, joined, evict_port tags reason own, evictNotices_cons, List.foldl_cons]
    split
    · rfl
    · rfl

/-! ### The evictions for a need of segments (R46) -/

/-- The evictions for a need are those of a first part of the order: as long as the free count is short of it. -/
theorem evictSteps_firstPart (need : Nat) (order : List CacheEntry) (s : State) : ∃ k, k ≤ order.length
    ∧ order.foldl (State.evictStep need) s = (order.take k).foldl (State.evict .claimed) s
    ∧ (k < order.length → need ≤ ((order.take k).foldl (State.evict .claimed) s).pool.free.length)
    ∧ ∀ j, j < k → ((order.take j).foldl (State.evict .claimed) s).pool.free.length < need := by
  induction order generalizing s with
  | nil =>
    exact ⟨0, Nat.le_refl _, by rw [List.take_nil, List.foldl_nil, List.foldl_nil],
      fun more => absurd more (Nat.lt_irrefl 0), fun j none => absurd none (Nat.not_lt_zero j)⟩
  | cons e rest ih =>
    by_cases enough : need ≤ s.pool.free.length
    · refine ⟨0, Nat.zero_le _, ?_, fun _ => ?_, fun j none => absurd none (Nat.not_lt_zero j)⟩
      · rw [List.take_zero, List.foldl_nil]
        exact evictSteps_of_enough _ enough
      · rw [List.take_zero, List.foldl_nil]
        exact enough
    · obtain ⟨k, bound, fold, last, short⟩ := ih (s.evict .claimed e)
      refine ⟨k + 1, Nat.succ_le_succ bound, ?_, fun more => ?_, fun j earlier => ?_⟩
      · rw [List.foldl_cons, State.evictStep, if_pos (not_le.1 enough), fold, List.take_succ_cons, List.foldl_cons]
      · rw [List.take_succ_cons, List.foldl_cons]
        exact last (Nat.lt_of_succ_lt_succ more)
      · cases j with
        | zero =>
          rw [List.take_zero, List.foldl_nil]
          exact not_le.1 enough
        | succ j =>
          rw [List.take_succ_cons, List.foldl_cons]
          exact short j (Nat.lt_of_succ_lt_succ earlier)

/-- Where no two entries have one tag, those that have gone are those of the list. -/
theorem evictAll_cache_of_tags (reason : EvictReason) {gone : List CacheEntry} {s : State}
    (tags : (s.cache.map CacheEntry.routeTag).Nodup) (held : ∀ e ∈ gone, e ∈ s.cache) :
    (gone.foldl (State.evict reason) s).cache = s.cache.filter fun e => !gone.contains e := by
  rw [evictAll_cache]
  refine List.filter_congr fun x hx => congrArg _ ?_
  rw [Bool.eq_iff_iff, List.any_eq_true, List.contains_iff_mem]
  constructor
  · rintro ⟨e, he, same⟩
    rwa [← List.inj_on_of_nodup_map tags (held e he) hx (of_decide_eq_true same)]
  · exact fun gone => ⟨x, gone, decide_eq_true rfl⟩

/-- Settles O22: the evictions are those of a first part of the order (`evictSteps_firstPart`), and a series of evictions
leaves what `evictAll_cache_of_tags`, `evictAll_returns` and `evictAll_port` say. (The name without the prime is the model's
function.) -/
theorem evictionOrder' : Obligations.EvictionOrder := by
  intro s need tag tags u order
  have perm : order.Perm s.cache := evictionOrder_perm tag s.cache
  obtain ⟨k, bound, fold, last, short⟩ := evictSteps_firstPart need order s
  have eq : u = (order.take k).foldl (State.evict .claimed) s := (evictFor_eq s need tag).trans fold
  have held : ∀ e ∈ order.take k, e ∈ s.cache := fun e he => perm.mem_iff.1 (List.mem_of_mem_take he)
  have distinct : ((order.take k).map CacheEntry.routeTag).Nodup :=
    ((perm.map _).nodup_iff.2 tags).sublist ((List.take_sublist k order).map _)
  obtain ⟨free, taps⟩ := evictAll_returns .claimed (order.take k) s
  obtain ⟨cache, pool, ports, rest⟩ := evictAll_eq .claimed (order.take k) s
  refine ⟨k, bound, ?_, fun x => ?_, ?_, fun some => ?_, short, fun a => ?_, ?_, ?_, fun q => ?_⟩
  · rw [eq, evictAll_cache_of_tags .claimed tags held]
  · rw [eq, free, List.mem_flatMap]
  · rw [eq]
    exact last
  · have first := short 0 some
    rwa [List.take_zero, List.foldl_nil] at first
  · rw [eq, taps, if_congr List.mem_flatMap rfl rfl]
  · rw [eq, rest]
  · rw [eq, (evictAll_frame .claimed (order.take k) s).2.2]
  · rw [eq]
    exact evictAll_port .claimed (order.take k) tags distinct held q

end Sys2Proof.Machine

/-! SET_CONFIG (R130, R151), with what the end of a command leaves of the notices that its block has raised. -/

namespace Sys2Proof.Machine

/-! ### Notices and the end of a command -/

section Finish

variable {u v : State} {p : Port} {params : List Byte}

/-- Notices that have arrived since LINK DO was driven stand in the answered port records. -/
theorem finish_arrives (config : v.config = u.config) (joined : (v.port p).joined = true) (tag : Byte) (status : Status)
    (payload : List Byte) {q : Port} {notices : List Notice}
    (heard : v.port q = notices.foldl PortRecord.arrive ((u.driveLink p (commandEcho params)).port q)) :
    (Reply.finish ⟨v, status, payload⟩ p tag).port q
      = notices.foldl PortRecord.arrive ((u.answered p params ⟨status, tag, payload⟩).port q) := by
  by_cases own : p = q
  · subst own
    have driven : (u.driveLink p (commandEcho params)).port p = { u.port p with linkOut := commandEcho params } := by
      rw [State.driveLink, port_modPort_self]
    rw [driven] at heard
    rw [finish_port joined, answered_port, if_pos rfl]
    dsimp only
    rw [heard, config]
    have out := arriveAll_update notices (u.port p) (u.port p).link (u.port p).lease (u.port p).held (commandEcho params)
    rw [← arriveAll_update notices (u.port p) .live (some u.config.leasePeriod) (some ⟨status, tag, payload⟩)
      (commandEcho params), ← out]
  · have driven : (u.driveLink p (commandEcho params)).port q = u.port q := by
      rw [State.driveLink, port_modPort_of_ne _ _ own]
    rw [finish_port_of_ne _ own, answered_port, if_neg own, heard, driven]

theorem finish_within (joined : (u.port p).joined = true) (within : (u.driveLink p (commandEcho params)).Within v)
    (tag : Byte) (status : Status) (payload : List Byte) :
    (u.answered p params ⟨status, tag, payload⟩).Within (Reply.finish ⟨v, status, payload⟩ p tag) := by
  have config : v.config = u.config := within.config
  have joined' : (v.port p).joined = true := by rw [within.heard.joined, driveLink_joined]; exact joined
  obtain ⟨pending, freeIndex, claim, config', -, -, -, -, -, -, -, highway, timebase⟩ := finish_frame ⟨v, status, payload⟩ p tag
  refine ⟨pending.trans within.pending, freeIndex.trans within.freeIndex, claim.trans within.claim, config'.trans config,
    highway.trans within.highway, timebase.trans within.timebase, fun q => ?_⟩
  obtain ⟨notices, heard⟩ := within.heard q
  rw [driveLink_joined] at heard
  refine ⟨notices, ?_⟩
  rw [answered_joined joined]
  split
  · next there =>
    rw [if_pos there] at heard
    exact finish_arrives config joined' tag status payload heard
  · next absent =>
    rw [if_neg absent] at heard
    exact finish_arrives (notices := []) config joined' tag status payload heard

theorem finish_raised (config : v.config = u.config) (joined : (v.port p).joined = true) (tag : Byte) (status : Status)
    (payload : List Byte) {q : Port} {done evicted : List Notice}
    (raised : (u.driveLink p (commandEcho params)).Raised v q done evicted) :
    (u.answered p params ⟨status, tag, payload⟩).Raised (Reply.finish ⟨v, status, payload⟩ p tag) q done evicted := by
  obtain ⟨all, heard, filters⟩ := raised
  exact ⟨all, finish_arrives config joined tag status payload heard, filters⟩

/-- The end of a command leaves the judgment of the pool as it was. -/
theorem finish_judged {s : State} (joined : (v.port p).joined = true) (judged : s.PoolJudged v) (tag : Byte)
    (status : Status) (payload : List Byte) : s.PoolJudged (Reply.finish ⟨v, status, payload⟩ p tag) := by
  obtain ⟨-, -, -, config, -, pool, -⟩ := finish_frame ⟨v, status, payload⟩ p tag
  refine ⟨by rw [pool, config]; exact judged.flag, fun normal low q j => ?_, fun low normal q j => ?_⟩
  · rw [pool] at low
    rw [finish_joined joined] at j
    rw [finish_told_iff, pool, config]
    exact judged.low normal low q j
  · rw [pool] at normal
    rw [finish_joined joined] at j
    rw [finish_told_iff, pool, config]
    exact judged.recovered low normal q j

end Finish

/-! ### SET_CONFIG -/

theorem exec_setConfig (p : Port) (tag : Byte) (params : List Byte) (s : State) :
    exec (.setConfig p tag params) s = .next (takeCommand p tag params (setConfigAct p params) s) := rfl

theorem accepts_iff (c : SharedConfig) (items : List (ConfigParam × Int)) : c.accepts items = true ↔
    1 ≤ items.length ∧ items.length ≤ 13 ∧ (items.map Prod.fst).Nodup ∧ (∀ item ∈ items, item.1.allows item.2 = true)
      ∧ (c.writeAll items).levelFade < (c.writeAll items).levelWarn ∧ (c.writeAll items).levelLoss < (c.writeAll items).levelFade
      ∧ (c.writeAll items).fastStep < (c.writeAll items).trackingStep := by
  simp only [SharedConfig.accepts, SharedConfig.ordered, Bool.and_eq_true, decide_eq_true_eq, namedOnce_iff, List.all_eq_true,
    and_assoc]

/-- The entries that leave where the lifetime has changed from `lifetime` (R130). -/
def State.outlived (u : State) (lifetime : Nat) (e : CacheEntry) : Bool :=
  decide (u.config.cacheLifetime ≠ lifetime) && u.aged e

/-- The state that SET_CONFIG leaves before the comparison of the pool. -/
def State.afterLifetime (u : State) (lifetime : Nat) : State := if u.config.cacheLifetime = lifetime then u else u.removeAged

theorem afterLifetime_eq (u : State) (lifetime : Nat) :
    u.afterLifetime lifetime = (u.cache.filter (u.outlived lifetime)).foldl (State.evict .aged) u := by
  unfold State.afterLifetime
  split
  · next same =>
    have none : u.cache.filter (u.outlived lifetime) = [] := List.filter_eq_nil_iff.2 fun e _ => by
      simp [State.outlived, same]
    rw [none, List.foldl_nil]
  · next changed =>
    rw [removeAged_eq]
    congr 1
    refine List.filter_congr fun e _ => ?_
    simp [State.outlived, changed]

theorem writeConfig_eq (s : State) (items : List (ConfigParam × Int)) : s.writeConfig items =
    if (s.config.writeAll items).poolLowWater = s.config.poolLowWater then
      s.closeEvent ((s.setConfig (s.config.writeAll items)).afterLifetime s.config.cacheLifetime)
    else ((s.setConfig (s.config.writeAll items)).afterLifetime s.config.cacheLifetime).comparePool := by
  have config : ((s.setConfig (s.config.writeAll items)).afterLifetime s.config.cacheLifetime).config
      = s.config.writeAll items := by
    unfold State.afterLifetime
    split
    · rfl
    · exact (removeAged_within _).config
  refine Eq.trans ?_ (if_congr (by rw [← config]) rfl rfl)
  rfl

/-- What the writing of the configuration leaves, `u` being the state with the new configuration and `gone` the entries
that have outlived it. -/
structure State.ConfigWritten (s u v : State) (gone : List CacheEntry) : Prop where
  within : u.Within v
  cache : v.cache = u.cache.filter fun x => !gone.any fun e => decide (e.routeTag = x.routeTag)
  returns : u.Returns v (gone.flatMap (·.segments))
  judged : s.PoolJudged v
  raised : (u.cache.map CacheEntry.routeTag).Nodup → ∀ q, (u.port q).joined = true →
    u.Raised v q [] (evictNotices 3 u.cache.length gone)
  calls : u.Granted → v.channels = u.channels ∧ v.players = u.players ∧ v.probeQueue = u.probeQueue
  chan : ∀ n, (u.chan n).GrantedOr (v.chan n)
  mover : v.mover = u.mover
  parkCounter : v.parkCounter = u.parkCounter

theorem comparePool_raised (s : State) {q : Port} (joined : (s.port q).joined = true) : s.Raised s.comparePool q [] [] := by
  unfold State.comparePool
  dsimp only
  split
  · exact (broadcast_raises_none (s.setFlag .low) joined (by simp) (by simp)).congr rfl
  · split
    · exact (broadcast_raises_none (s.setFlag .normal) joined (by simp) (by simp)).congr rfl
    · exact .of_port rfl

theorem comparePool_parkCounter (s : State) : s.comparePool.parkCounter = s.parkCounter := by
  unfold State.comparePool
  dsimp only
  split
  · rw [broadcast_parkCounter]; rfl
  · split
    · rw [broadcast_parkCounter]; rfl
    · rfl

theorem writeConfig_written (s : State) (items : List (ConfigParam × Int)) :
    s.ConfigWritten (s.setConfig (s.config.writeAll items)) (s.writeConfig items)
      (s.cache.filter ((s.setConfig (s.config.writeAll items)).outlived s.config.cacheLifetime)) := by
  rw [writeConfig_eq, afterLifetime_eq]
  generalize named : s.cache.filter ((s.setConfig (s.config.writeAll items)).outlived s.config.cacheLifetime) = gone
  have marks : (s.setConfig (s.config.writeAll items)).config.poolLowWater = (s.config.writeAll items).poolLowWater := rfl
  have gone_eq : (s.setConfig (s.config.writeAll items)).cache.filter
      ((s.setConfig (s.config.writeAll items)).outlived s.config.cacheLifetime) = gone := named
  have pool : (s.setConfig (s.config.writeAll items)).pool.flag = s.pool.flag := rfl
  rw [gone_eq]
  generalize s.setConfig (s.config.writeAll items) = u at *
  have cache := evictAll_cache .aged gone u
  have returns := evictAll_returns .aged gone u
  have within := within_foldl _ (evict_within .aged) gone u
  obtain ⟨mover, counter, flag⟩ := evictAll_frame .aged gone u
  obtain ⟨channels, players, queue⟩ := evictAll_calls .aged gone u
  have raised (tags : (u.cache.map CacheEntry.routeTag).Nodup) {q : Port} (joined : (u.port q).joined = true) :=
    evictAll_raised .aged gone u joined tags
      (by rw [← gone_eq]; exact tags.sublist (List.filter_sublist.map _))
      (by rw [← gone_eq]; exact fun e he => List.mem_of_mem_filter he)
  generalize gone.foldl (State.evict .aged) u = w at *
  have mark : w.config.poolLowWater = (s.config.writeAll items).poolLowWater := by rw [within.config, marks]
  split
  · next same =>
    exact {
      within := within.trans (closeEvent_within s w)
      cache := by rw [closeEvent_cache, cache]
      returns := returns.closeEvent s
      judged := closeEvent_judged s w (flag.trans pool) (mark.trans same)
      raised := fun tags q joined => by
        have all := (raised tags joined).trans (closeEvent_raised s w (q := q) (by rw [within.heard.joined]; exact joined))
        rwa [List.append_nil, List.append_nil] at all
      calls := fun granted => by
        obtain ⟨channels', players', queue'⟩ := closeEvent_calls_of_granted s (granted.congr queue players)
        exact ⟨channels'.trans channels, players'.trans players, queue'.trans queue⟩
      chan := fun n => by
        have same : w.chan n = u.chan n := congrArg (fun c : Vector Channel 48 => c.get n) channels
        rw [← same]
        exact closeEvent_chan s w n
      mover := by rw [closeEvent_mover, mover]
      parkCounter := by rw [closeEvent_parkCounter, counter] }
  · next changed =>
    exact {
      within := within.trans (comparePool_within w)
      cache := by rw [comparePool_cache, cache]
      returns := ⟨fun x => by rw [comparePool_free]; exact returns.1 x, fun a => by rw [comparePool_taps]; exact returns.2 a⟩
      judged := comparePool_judged s w (flag.trans pool) fun same => changed (mark.symm.trans same.2)
      raised := fun tags q joined => by
        have all := (raised tags joined).trans (comparePool_raised w (q := q) (by rw [within.heard.joined]; exact joined))
        rwa [List.append_nil, List.append_nil] at all
      calls := fun _ => ⟨by rw [comparePool_channels, channels], by rw [comparePool_players, players],
        by rw [comparePool_probeQueue, queue]⟩
      chan := fun n => by
        have same : w.chan n = u.chan n := congrArg (fun c : Vector Channel 48 => c.get n) channels
        rw [comparePool_chan, same]
        exact .inl rfl
      mover := by rw [comparePool_mover, mover]
      parkCounter := by rw [comparePool_parkCounter, counter] }

theorem setConfigAct_of_items {params : List Byte} {items : List (ConfigParam × Int)} (parsed : parseSetConfig params = some items)
    (p : Port) (s : State) : setConfigAct p params s =
      if s.claim = some p then
        if s.config.accepts items then (s.writeConfig items).answer (s.config.writeAll items).bytes else s.refuse .badParam
      else s.refuse .noClaim := by
  have config : (s.writeConfig items).config = s.config.writeAll items := (writeConfig_written s items).within.config
  rw [setConfigAct, withParams_some parsed, ← config]
  rfl

theorem mem_freed {entries : List CacheEntry} {gone : CacheEntry → Bool} {x : Nat} :
    x ∈ (entries.filter gone).flatMap (·.segments) ↔ ∃ e ∈ entries, gone e = true ∧ x ∈ e.segments := by
  simp only [List.mem_flatMap, List.mem_filter, and_assoc]

/-- The cache that a change of the lifetime leaves, in the words of the statements. -/
theorem outlived_cache (u : State) (lifetime : Nat) :
    (u.cache.filter fun x => !(u.cache.filter (u.outlived lifetime)).any fun e => decide (e.routeTag = x.routeTag))
      = if u.config.cacheLifetime = lifetime then u.cache else
        u.cache.filter fun e => !u.cache.any fun x => x.routeTag == e.routeTag
          && decide (u.config.cacheLifetime * 60000 ≤ (u.timebase - x.parkTime).toNat) := by
  split
  · next same =>
    refine List.filter_eq_self.2 fun x _ => ?_
    rw [Bool.not_eq_true', List.any_eq_false]
    intro e he
    have left := (List.mem_filter.1 he).2
    simp [State.outlived, same] at left
  · next changed =>
    refine List.filter_congr fun x _ => congrArg _ ?_
    rw [List.any_filter]
    congr 1
    funext e
    rw [State.outlived, decide_eq_true changed, Bool.true_and, Bool.and_comm]
    rfl

/-- Settles O18: the checks, and what `writeConfig_written` says, answered. -/
theorem setConfigWrites : Obligations.SetConfigWrites := by
  intro s p tag params items ready parsed result gone
  have block := setConfigAct_of_items parsed p (s.driveLink p (commandEcho params))
  rw [driveLink_claim, driveLink_config] at block
  rw [exec_setConfig]
  split
  · next other =>
    rw [if_neg other] at block
    rw [takeCommand_refused ready tag params _ block]
  · next own =>
    rw [if_pos (not_not.1 own)] at block
    split
    · next accepted =>
      rw [if_pos ((accepts_iff s.config items).2 accepted)] at block
      have written := writeConfig_written (s.driveLink p (commandEcho params)) items
      have driven : (s.driveLink p (commandEcho params)).setConfig ((s.driveLink p (commandEcho params)).config.writeAll items)
          = ({ s with config := result } : State).driveLink p (commandEcho params) := rfl
      rw [driven] at written
      have outlived : (s.driveLink p (commandEcho params)).cache.filter
          ((({ s with config := result } : State).driveLink p (commandEcho params)).outlived
            (s.driveLink p (commandEcho params)).config.cacheLifetime) = s.cache.filter gone := rfl
      rw [outlived] at written
      rw [takeCommand_of_joined ready.quiet ready.joined, block, State.answer]
      generalize (s.driveLink p (commandEcho params)).writeConfig items = v at written
      have joined : (v.port p).joined = true := by rw [written.within.heard.joined, driveLink_joined]; exact ready.joined
      have config : v.config = result := written.within.config
      have within := finish_within (u := { s with config := result }) ready.joined written.within tag .ok result.bytes
      have judged := finish_judged (p := p) joined written.judged tag .ok result.bytes
      obtain ⟨-, -, -, config', channels, pool, players, queue, mover, cache, counter, -, -⟩ :=
        finish_frame ⟨v, .ok, result.bytes⟩ p tag
      have raised (tags : (s.cache.map CacheEntry.routeTag).Nodup) (q : Port) (there : (s.port q).joined = true) :=
        finish_raised (u := { s with config := result }) config joined tag .ok result.bytes
          (written.raised tags q (by rw [driveLink_joined]; exact there))
      generalize Reply.finish ⟨v, .ok, result.bytes⟩ p tag = t at *
      obtain ⟨free, taps⟩ := written.returns
      refine ⟨t, rfl, config'.trans config, within, ?_, fun x => ?_, fun a => ?_, judged.from_same rfl rfl, raised,
        fun granted => ?_, fun n => ?_, mover.trans written.mover, counter.trans written.parkCounter⟩
      · exact cache.trans (written.cache.trans (outlived_cache { s with config := result } s.config.cacheLifetime))
      · rw [pool, ← mem_freed]
        exact free x
      · rw [pool, ← if_congr mem_freed rfl rfl]
        exact taps a
      · obtain ⟨sameChannels, samePlayers, sameQueue⟩ := written.calls (granted.congr rfl rfl)
        exact ⟨channels.trans sameChannels, players.trans samePlayers, queue.trans sameQueue⟩
      · have same : t.chan n = v.chan n := congrArg (fun c : Vector Channel 48 => c.get n) channels
        rw [same]
        exact written.chan n
    · next bad =>
      rw [if_neg fun fine => bad ((accepts_iff s.config items).1 fine)] at block
      rw [takeCommand_refused ready tag params _ block]

end Sys2Proof.Machine

/-! ADOPT (R147, R148): the state that an ORPHANED or STRANDED channel returns to, and the end of the event. -/

namespace Sys2Proof.Machine

/-! ### Notices to all ports but one -/

theorem broadcastExcept_filter (s : State) (but : Port) (x : Notice) :
    s.broadcastExcept but x = (allPorts.filter fun p => p ≠ but).foldl (fun s p => s.notify p x) s := by
  rw [List.foldl_filter, State.broadcastExcept]
  congr 1
  funext s p
  by_cases own : p = but
  · simp [own]
  · simp [own]

theorem told_broadcastExcept {s : State} {but q : Port} (other : q ≠ but) (joined : (s.port q).joined = true) (x : Notice) :
    ((s.broadcastExcept but x).port q).Told x := by
  have ports : (allPorts.filter fun p => p ≠ but).Nodup := (by decide : allPorts.Nodup).filter _
  rw [broadcastExcept_filter, port_notifyAll _ ports,
    if_pos ⟨List.mem_filter.2 ⟨mem_allPorts q, decide_eq_true other⟩, joined⟩]
  exact told_arrive _ _

/-! ### The call taken up -/

/-- The record of an adopted channel, its state and what its entry sets left aside. -/
def Channel.taken (c : Channel) (p : Port) : Channel :=
  { c with lessee := some p, origin := some .adopted, prior := none, holdTimer := none, strandTimer := none,
           goodRun := 0, badRun := 0 }

/-- The record of an adopted channel that enters QUEUED. -/
def Channel.takenQueued (c : Channel) (p : Port) : Channel :=
  { c.taken p with state := .training .queued, trainingEpochs := 0, proving := none, guard := none, player := none,
                   rollback := c.rollback.map fun _ => false }

theorem adoptInto_of_tracking {s : State} {n : ChannelNo} (orphaned : (s.chan n).state = .orphaned)
    (prior : (s.chan n).prior = some .tracking) (p : Port) : s.adoptInto p n =
      s.modChan n fun c => { c.taken p with state := .tracking, contentionLive := false, hangover := 0 } := by
  unfold State.adoptInto
  dsimp only
  rw [orphaned, prior]
  exact modChan_modChan _ _ _ _

theorem adoptInto_of_settling {s : State} {n : ChannelNo} (orphaned : (s.chan n).state = .orphaned)
    (prior : (s.chan n).prior = some (.training .settling)) (p : Port) : s.adoptInto p n =
      s.modChan n fun c => { c.taken p with state := .training .settling } := by
  unfold State.adoptInto
  dsimp only
  rw [orphaned, prior]
  exact modChan_modChan _ _ _ _

theorem adoptInto_of_stalled {s : State} {n : ChannelNo} (orphaned : (s.chan n).state = .orphaned)
    (prior : (s.chan n).prior = some (.training .stalled)) (p : Port) : s.adoptInto p n =
      s.modChan n fun c => { c.taken p with state := .training .stalled } := by
  unfold State.adoptInto
  dsimp only
  rw [orphaned, prior]
  exact modChan_modChan _ _ _ _

theorem enterQueued_modChan (s : State) (n : ChannelNo) (f : Channel → Channel) : (s.modChan n f).enterQueued n =
    (s.setProbeQueue (s.probeQueue ++ [n])).modChan n fun c =>
      { (f c).enter (.training .queued) with
        trainingEpochs := 0, proving := none, guard := none, player := none
        rollback := (f c).rollback.map fun _ => false } :=
  modChan_modChan (s.setProbeQueue (s.probeQueue ++ [n])) n f _

theorem adoptInto_queued (s : State) (p : Port) (n : ChannelNo) :
    (s.modChan n fun c =>
      { c with lessee := some p, origin := some .adopted, prior := none, holdTimer := none, strandTimer := none }).enterQueued n
      = (s.setProbeQueue (s.probeQueue ++ [n])).modChan n fun c => c.takenQueued p := by
  rw [enterQueued_modChan]
  rfl

/-- Where the prior state is none of these three, the channel is queued. -/
theorem adoptInto_of_requeued {s : State} {n : ChannelNo} (requeued : (s.chan n).state = .stranded
      ∨ (s.chan n).prior = some (.training .queued) ∨ (s.chan n).prior = some (.training .probing)) (p : Port) :
    s.adoptInto p n = (s.setProbeQueue (s.probeQueue ++ [n])).modChan n fun c => c.takenQueued p := by
  rw [← adoptInto_queued]
  unfold State.adoptInto
  dsimp only
  rcases requeued with stranded | queued | probing
  · rw [stranded]
  · rw [queued]
    split <;> simp_all
  · rw [probing]
    split <;> simp_all

/-- The adoption changes the channel's record, and the probe queue; the record keeps hold count and policy. -/
theorem adoptInto_eq (s : State) (p : Port) (n : ChannelNo) : ∃ queue f, s.adoptInto p n = (s.setProbeQueue queue).modChan n f
    ∧ (f (s.chan n)).holdCount = (s.chan n).holdCount ∧ (f (s.chan n)).policy = (s.chan n).policy := by
  unfold State.adoptInto
  dsimp only
  split
  · exact ⟨s.probeQueue, _, modChan_modChan _ _ _ _, rfl, rfl⟩
  · exact ⟨s.probeQueue, _, modChan_modChan _ _ _ _, rfl, rfl⟩
  · exact ⟨s.probeQueue, _, modChan_modChan _ _ _ _, rfl, rfl⟩
  · exact ⟨_, _, adoptInto_queued s p n, rfl, rfl⟩

/-! ### The command -/

theorem adoptAct_of_left {s : State} {n : ChannelNo} (left : (s.chan n).state = .orphaned ∨ (s.chan n).state = .stranded)
    (p : Port) : adoptAct p [chanByte n] s =
      ((s.closeEvent (s.adoptInto p n)).broadcastExcept p
          (channelAdopted p n ((s.closeEvent (s.adoptInto p n)).chan n).state)).answer
        (Channel.adoptPayload ((s.closeEvent (s.adoptInto p n)).chan n) (s.chan n)) := by
  rw [adoptAct, withParams_some (parseByte_chan n)]
  exact (withChannel_val n _ _).trans (if_pos left)

theorem adoptAct_of_other {s : State} {n : ChannelNo} (held : (s.chan n).state ≠ .orphaned)
    (kept : (s.chan n).state ≠ .stranded) (p : Port) : adoptAct p [chanByte n] s = s.refuse .wrongState := by
  rw [adoptAct, withParams_some (parseByte_chan n)]
  exact (withChannel_val n _ _).trans (if_neg fun left => left.elim held kept)

theorem State.InProbe.congr {t u : State} {n : ChannelNo} {e : Channel} {waiting : List ChannelNo} {idle : Nat}
    (h : t.InProbe n e waiting idle) (chan : u.chan n = t.chan n) (queue : u.probeQueue = t.probeQueue)
    (players : u.players = t.players) : u.InProbe n e waiting idle := by
  have play (k : PlayerNo) : u.play k = t.play k := congrArg (fun v : Vector (Option Play) 4 => v.get k) players
  unfold State.InProbe at h ⊢
  rw [chan, queue]
  simpa only [play] using h

/-- A granted player changes neither the hold count nor the policy. -/
theorem Channel.GrantedOr.holds {c d : Channel} (h : c.GrantedOr d) : d.holdCount = c.holdCount ∧ d.policy = c.policy := by
  rcases h with rfl | ⟨k, rfl⟩
  · exact ⟨rfl, rfl⟩
  · exact ⟨rfl, rfl⟩

/-- What an adoption leaves once the event is closed, `u` being the state with the call taken up. -/
theorem adopt_closes {s u : State} {queue : List ChannelNo} {f : Channel → Channel} (n : ChannelNo)
    (taken : u = (s.setProbeQueue queue).modChan n f) : let t := s.closeEvent u
    s.Within t ∧ (u.chan n).GrantedOr (t.chan n) ∧ (∀ m, m ≠ n → (s.chan m).GrantedOr (t.chan m)) ∧ t.pool = s.pool
      ∧ t.mover = s.mover ∧ t.cache = s.cache ∧ t.parkCounter = s.parkCounter := by
  subst taken
  generalize named : (s.setProbeQueue queue).modChan n f = u
  have within : s.Within u := by
    rw [← named]
    exact (setProbeQueue_within s queue).trans (modChan_within _ n f)
  have others (m : ChannelNo) (ne : m ≠ n) : u.chan m = s.chan m := by
    rw [← named, chan_modChan_of_ne _ _ (Ne.symm ne)]
    rfl
  have frame : u.pool = s.pool ∧ u.mover = s.mover ∧ u.cache = s.cache ∧ u.parkCounter = s.parkCounter := by
    rw [← named]
    exact ⟨rfl, rfl, rfl, rfl⟩
  obtain ⟨pool, mover, cache, counter⟩ := frame
  have same : (s.closeEvent u).pool = s.pool := by
    rw [State.closeEvent, grants_pool, if_pos (by rw [pool]), grants_pool, pool]
  refine ⟨within.trans (closeEvent_within s u), closeEvent_chan s u n, fun m ne => ?_, same, ?_, ?_, ?_⟩
  · rw [← others m ne]
    exact closeEvent_chan s u m
  · rw [closeEvent_mover, mover]
  · rw [closeEvent_cache, cache]
  · rw [closeEvent_parkCounter, counter]

/-- Where an adopted channel enters no queue, no channel is granted a player. -/
theorem adopt_unqueued {s : State} (granted : s.Granted) (n : ChannelNo) (f : Channel → Channel) :
    (s.closeEvent (s.modChan n f)).chan n = f (s.chan n)
      ∧ (s.closeEvent (s.modChan n f)).probeQueue = s.probeQueue ∧ (s.closeEvent (s.modChan n f)).players = s.players := by
  obtain ⟨channels, players, queue⟩ := closeEvent_calls_of_granted (t := s.modChan n f) s (granted.congr rfl rfl)
  have own : (s.closeEvent (s.modChan n f)).chan n = (s.modChan n f).chan n :=
    congrArg (fun v : Vector Channel 48 => v.get n) channels
  exact ⟨own.trans (chan_modChan_self s n f), queue, players⟩

/-- An adopted channel that enters the probe queue. -/
theorem adopt_queued (s : State) (p : Port) (n : ChannelNo) :
    (s.closeEvent ((s.setProbeQueue (s.probeQueue ++ [n])).modChan n fun c => c.takenQueued p)).InProbe n
      ((s.chan n).takenQueued p) (s.probeQueue ++ [n]) (s.idleCount none) := by
  have waits : n ∈ ((s.setProbeQueue (s.probeQueue ++ [n])).modChan n fun c => c.takenQueued p).probeQueue :=
    List.mem_append_right _ (List.mem_singleton_self n)
  have probe := closeEvent_inProbe s waits
  rw [chan_modChan_self] at probe
  exact probe

/-- Settles O16: the state that the adoption leaves (`adopt_closes`), and its end by the prior state of the channel. -/
theorem adoptTakesLease : Obligations.AdoptTakesLease := by
  intro s p tag n ready granted c taken
  refine ⟨fun held kept => ?_, fun left => ?_⟩
  · rw [exec_adopt, takeCommand_refused ready tag _ _ (adoptAct_of_other (s := s.driveLink p _) held kept p)]
  · have block := adoptAct_of_left (s := s.driveLink p (commandEcho [chanByte n])) left p
    obtain ⟨queue, f, into, holdCount, policy⟩ := adoptInto_eq (s.driveLink p (commandEcho [chanByte n])) p n
    obtain ⟨within, own, others, pool, mover, cache, counter⟩ := adopt_closes n into
    have record := own.holds
    rw [into, chan_modChan_self, chan_setProbeQueue, holdCount, policy, ← into] at record
    have tracking (orphaned : c.state = .orphaned) (prior : c.prior = some .tracking) :=
      adoptInto_of_tracking (s := s.driveLink p (commandEcho [chanByte n])) orphaned prior p
    have settling (orphaned : c.state = .orphaned) (prior : c.prior = some (.training .settling)) :=
      adoptInto_of_settling (s := s.driveLink p (commandEcho [chanByte n])) orphaned prior p
    have stalled (orphaned : c.state = .orphaned) (prior : c.prior = some (.training .stalled)) :=
      adoptInto_of_stalled (s := s.driveLink p (commandEcho [chanByte n])) orphaned prior p
    have queued (requeued : c.state = .stranded ∨ c.prior = some (.training .queued) ∨ c.prior = some (.training .probing)) :=
      adoptInto_of_requeued (s := s.driveLink p (commandEcho [chanByte n])) requeued p
    have granted' := granted.driveLink p (commandEcho [chanByte n])
    have unqueued := adopt_unqueued granted' n
    have probed := adopt_queued (s.driveLink p (commandEcho [chanByte n])) p n
    generalize (s.driveLink p (commandEcho [chanByte n])).adoptInto p n = u at *
    have answered := takeCommand_within ready tag _ _ block (within.trans (broadcastExcept_within _ _ _))
    have told {q : Port} (other : q ≠ p) (joined : (s.port q).joined = true) := takeCommand_told (tag := tag) ready block
      (told_broadcastExcept other (by rw [within.heard.joined, driveLink_joined]; exact joined)
        (channelAdopted p n (((s.driveLink p (commandEcho [chanByte n])).closeEvent u).chan n).state))
    obtain ⟨channels', pool', players', queue', mover', cache', counter'⟩ := takeCommand_frame ready tag [chanByte n] _ block
    generalize ended : (s.driveLink p (commandEcho [chanByte n])).closeEvent u = v at *
    rw [exec_adopt]
    generalize takeCommand p tag [chanByte n] (adoptAct p [chanByte n]) s = t at *
    have chan (m : ChannelNo) : t.chan m = v.chan m := by
      rw [← chan_broadcastExcept v p (channelAdopted p n (v.chan n).state) m]
      exact congrArg (fun w : Vector Channel 48 => w.get m) channels'
    have tQueue : t.probeQueue = v.probeQueue := queue'.trans (broadcastExcept_probeQueue _ _ _)
    have tPlayers : t.players = v.players := players'.trans (broadcastExcept_players _ _ _)
    rw [Channel.adoptPayload, record.1, record.2, ← chan] at answered
    have returned {f : Channel → Channel} (is : u = (s.driveLink p (commandEcho [chanByte n])).modChan n f) :
        t.chan n = f (s.chan n) ∧ t.probeQueue = s.probeQueue ∧ t.players = s.players := by
      obtain ⟨record, sameQueue, samePlayers⟩ := unqueued f
      rw [← is, ended] at record sameQueue samePlayers
      exact ⟨(chan n).trans record, tQueue.trans sameQueue, tPlayers.trans samePlayers⟩
    refine ⟨t, rfl, answered, fun q other joined => ?_, fun m ne => ?_, pool'.trans ((broadcastExcept_pool _ _ _).trans pool),
      mover'.trans ((broadcastExcept_mover _ _ _).trans mover), cache'.trans ((broadcastExcept_cache _ _ _).trans cache),
      counter'.trans ((broadcastExcept_parkCounter _ _ _).trans counter), ?_, ?_, ?_, ?_, ?_⟩
    · have heard := told other joined
      rw [← chan] at heard
      exact heard
    · rw [chan]
      exact others m ne
    · exact fun orphaned prior => (returned (tracking orphaned prior)).1
    · exact fun orphaned prior => (returned (settling orphaned prior)).1
    · exact fun orphaned prior => (returned (stalled orphaned prior)).1
    · intro requeued
      rw [← queued requeued, ended] at probed
      exact probed.congr (chan n) tQueue tPlayers
    · intro orphaned known notQueued notProbing
      obtain ⟨prior, named⟩ := Option.ne_none_iff_exists'.1 known
      cases prior with
      | tracking => exact (returned (tracking orphaned named)).2
      | training phase =>
        cases phase with
        | queued => exact absurd named notQueued
        | probing => exact absurd named notProbing
        | settling => exact (returned (settling orphaned named)).2
        | stalled => exact (returned (stalled orphaned named)).2

end Sys2Proof.Machine

/-! The layout of a live set (R3, R105): taps of different banks and places have different addresses, what a write to some
taps of a bank leaves of the others, and the initial values (R13). -/

namespace Sys2Proof.Machine

/-! ### Addresses -/

/-- The place in the list of segments that holds tap `i` of a bank. -/
def Profile.slot (p : Profile) (bank : Bank) (i : Nat) : Nat := p.bankStart bank + i / 32

theorem tapAddress_eq (p : Profile) (segments : List Nat) {bank : Bank} (one : bank ≠ .set) (i : Nat) :
    tapAddress p segments bank i = segments[p.slot bank i]?.map fun seg => 32 * seg + i % 32 := by
  cases bank
  case set => exact absurd rfl one
  all_goals rfl

theorem slot_lt {p : Profile} {bank : Bank} (one : bank ≠ .set) {i : Nat} (inBank : i < p.bankTaps bank) :
    p.slot bank i < p.segments := by
  cases bank <;> simp only [Profile.slot, Profile.bankStart, Profile.bankTaps, Profile.segments, bankSegments] at *
  case set => exact absurd rfl one
  all_goals omega

/-- The segments of different banks, and of places 32 apart, are different. -/
theorem slot_inj {p : Profile} {a b : Bank} (oneA : a ≠ .set) (oneB : b ≠ .set) {i j : Nat} (inA : i < p.bankTaps a)
    (inB : j < p.bankTaps b) (same : p.slot a i = p.slot b j) : a = b ∧ i / 32 = j / 32 := by
  cases a <;> cases b <;> simp only [Profile.slot, Profile.bankStart, Profile.bankTaps, bankSegments] at *
  case near.near => exact ⟨trivial, by omega⟩
  case far.far => exact ⟨trivial, by omega⟩
  case equal.equal => exact ⟨trivial, by omega⟩
  all_goals first | exact absurd rfl oneA | exact absurd rfl oneB | omega

theorem tapAddress_inj {p : Profile} {segments : List Nat} (nodup : segments.Nodup) (length : segments.length = p.segments)
    {a b : Bank} (oneA : a ≠ .set) (oneB : b ≠ .set) {i j : Nat} (inA : i < p.bankTaps a) (inB : j < p.bankTaps b)
    (same : tapAddress p segments a i = tapAddress p segments b j) : a = b ∧ i = j := by
  have boundA : p.slot a i < segments.length := length ▸ slot_lt oneA inA
  have boundB : p.slot b j < segments.length := length ▸ slot_lt oneB inB
  rw [tapAddress_eq p segments oneA, tapAddress_eq p segments oneB, List.getElem?_eq_getElem boundA,
    List.getElem?_eq_getElem boundB, Option.map_some, Option.map_some, Option.some_inj] at same
  have segment : segments[p.slot a i] = segments[p.slot b j] := by omega
  obtain ⟨bank, place⟩ := slot_inj oneA oneB inA inB ((nodup.getElem_inj_iff).1 segment)
  exact ⟨bank, by omega⟩

theorem tapAddress_mem {p : Profile} {segments : List Nat} {bank : Bank} {i a : Nat}
    (place : tapAddress p segments bank i = some a) : a / 32 ∈ segments := by
  have inSegment {start k : Nat} (h : segmentTap segments start k = some a) : a / 32 ∈ segments := by
    obtain ⟨seg, found, rfl⟩ := Option.map_eq_some_iff.1 h
    have div : (32 * seg + k % 32) / 32 = seg := by omega
    rw [div]
    exact List.mem_of_getElem? found
  cases bank with
  | set =>
    simp only [tapAddress] at place
    split at place
    · exact inSegment place
    · split at place
      · exact inSegment place
      · exact inSegment place
  | _ => exact inSegment place

/-! ### A series of writes -/

theorem readAt_writeAt_of_ne {m : Memory} (wf : m.wf = true) {x y : Option Nat} (ne : x ≠ y) (v : Tap) :
    (m.writeAt x v).readAt y = m.readAt y := by
  cases x with
  | none => rfl
  | some a =>
    cases y with
    | none => rfl
    | some b => exact read_write_of_ne v wf fun same => ne (congrArg some same)

section Writes

variable {place : Nat → Option Nat} {value : Nat → Tap}

/-- Writes to other places leave a tap as it was. -/
theorem readAt_writes_of_ne {items : List Nat} {m : Memory} (wf : m.wf = true) {y : Option Nat}
    (ne : ∀ i ∈ items, place i ≠ y) :
    (items.foldl (fun m i => m.writeAt (place i) (value i)) m).readAt y = m.readAt y := by
  induction items generalizing m with
  | nil => rfl
  | cons i rest ih =>
    rw [List.foldl_cons, ih (writeAt_wf _ _ wf) fun j hj => ne j (List.mem_cons_of_mem _ hj),
      readAt_writeAt_of_ne wf (ne i List.mem_cons_self)]

/-- Of writes to different places each tap holds its own. -/
theorem readAt_writes_self {items : List Nat} {m : Memory} (wf : m.wf = true) (nodup : items.Nodup)
    (inj : ∀ i ∈ items, ∀ j ∈ items, place i = place j → i = j) {i : Nat} (held : i ∈ items) (there : place i ≠ none) :
    (items.foldl (fun m i => m.writeAt (place i) (value i)) m).readAt (place i) = value i := by
  induction items generalizing m with
  | nil => cases held
  | cons j rest ih =>
    rw [List.nodup_cons] at nodup
    rw [List.foldl_cons]
    by_cases own : i = j
    · subst own
      rw [readAt_writes_of_ne (writeAt_wf _ _ wf) fun k hk same => nodup.1
        (inj k (List.mem_cons_of_mem _ hk) i List.mem_cons_self same ▸ hk)]
      obtain ⟨a, named⟩ := Option.ne_none_iff_exists'.1 there
      rw [named]
      exact read_write_self a _ wf
    · exact ih (writeAt_wf _ _ wf) nodup.2 (fun a ha b hb => inj a (List.mem_cons_of_mem _ ha) b (List.mem_cons_of_mem _ hb))
        ((List.mem_cons.1 held).resolve_left own)

end Writes

/-! ### Writes to a live set -/

/-- The live set of a channel as its profile lays it out, and the taps in their canonical form. -/
structure State.LaidOut (s : State) (n : ChannelNo) : Prop where
  canonical : s.pool.taps.wf = true
  nodup : (s.chan n).live.Nodup
  length : (s.chan n).live.length = (s.chan n).profile.segments

theorem tap_live (s : State) (n : ChannelNo) (bank : Bank) (i : Nat) :
    s.tap n .live bank i = s.pool.taps.readAt (tapAddress (s.chan n).profile (s.chan n).live bank i) := rfl

theorem writeLive_canonical {s : State} (wf : s.pool.taps.wf = true) (n : ChannelNo) (bank : Bank) (indices : List Nat)
    (f : Nat → Tap) : (s.writeLive n bank indices f).pool.taps.wf = true :=
  writeAll_wf indices (fun i => tapAddress (s.chan n).profile (s.chan n).live bank i) f wf

theorem State.LaidOut.writeLive {s : State} {n : ChannelNo} (h : s.LaidOut n) (bank : Bank) (indices : List Nat)
    (f : Nat → Tap) : (s.writeLive n bank indices f).LaidOut n :=
  ⟨writeLive_canonical h.canonical n bank indices f, h.nodup, h.length⟩

/-- A tap outside the live segments. -/
theorem read_writeLive_outside {s : State} (wf : s.pool.taps.wf = true) (n : ChannelNo) (bank : Bank) (indices : List Nat)
    (f : Nat → Tap) {x : Nat} (outside : x / 32 ∉ (s.chan n).live) :
    (s.writeLive n bank indices f).pool.taps.read x = s.pool.taps.read x := by
  refine readAt_writes_of_ne (place := fun i => tapAddress (s.chan n).profile (s.chan n).live bank i) (y := some x) wf ?_
  exact fun i _ same => outside (tapAddress_mem same)

section Live

variable {s : State} {n : ChannelNo} {bank : Bank} {indices : List Nat}

theorem tap_writeLive_self (h : s.LaidOut n) (one : bank ≠ .set) (nodup : indices.Nodup)
    (inBank : ∀ i ∈ indices, i < (s.chan n).profile.bankTaps bank) (f : Nat → Tap) {i : Nat} (held : i ∈ indices) :
    (s.writeLive n bank indices f).tap n .live bank i = f i := by
  refine readAt_writes_self (place := fun i => tapAddress (s.chan n).profile (s.chan n).live bank i) h.canonical nodup
    (fun i hi j hj same => (tapAddress_inj h.nodup h.length one one (inBank i hi) (inBank j hj) same).2) held ?_
  have bound : (s.chan n).profile.slot bank i < (s.chan n).live.length := h.length ▸ slot_lt one (inBank i held)
  rw [tapAddress_eq _ _ one, List.getElem?_eq_getElem bound]
  exact Option.some_ne_none _

theorem tap_writeLive_of_other (h : s.LaidOut n) (one : bank ≠ .set)
    (inBank : ∀ i ∈ indices, i < (s.chan n).profile.bankTaps bank) (f : Nat → Tap) {other : Bank} (oneOther : other ≠ .set)
    {j : Nat} (inOther : j < (s.chan n).profile.bankTaps other) (apart : other = bank → j ∉ indices) :
    (s.writeLive n bank indices f).tap n .live other j = s.tap n .live other j := by
  refine readAt_writes_of_ne (place := fun i => tapAddress (s.chan n).profile (s.chan n).live bank i) h.canonical ?_
  intro i hi same
  obtain ⟨sameBank, samePlace⟩ := tapAddress_inj h.nodup h.length one oneOther (inBank i hi) inOther same
  exact apart sameBank.symm (samePlace ▸ hi)

end Live

theorem writeLive_eq (s : State) (n : ChannelNo) (bank : Bank) (indices : List Nat) (f : Nat → Tap) :
    ∃ taps, s.writeLive n bank indices f = s.setTaps taps := ⟨_, rfl⟩

/-! ### The initial values (R13) -/

theorem writeInitialTaps_eq (s : State) (n : ChannelNo) : ∃ taps, s.writeInitialTaps n = s.setTaps taps := ⟨_, rfl⟩

theorem read_writeInitialTaps_outside {s : State} (wf : s.pool.taps.wf = true) (n : ChannelNo) {x : Nat}
    (outside : x / 32 ∉ (s.chan n).live) : (s.writeInitialTaps n).pool.taps.read x = s.pool.taps.read x := by
  have near := writeLive_canonical wf n .near (List.range (s.chan n).profile.near) fun _ => 0
  have far := writeLive_canonical near n .far (List.range (s.chan n).profile.far) fun _ => 0
  have third := read_writeLive_outside far n .equal (List.range (s.chan n).profile.eq)
    (fun j => if j = (s.chan n).profile.eq / 2 then 32767 else 0) (x := x) outside
  have second := read_writeLive_outside near n .far (List.range (s.chan n).profile.far) (fun _ => 0) (x := x) outside
  have first := read_writeLive_outside wf n .near (List.range (s.chan n).profile.near) (fun _ => 0) outside
  exact third.trans (second.trans first)

/-- A live set with the initial values of R13. -/
structure State.Initial (s : State) (n : ChannelNo) : Prop where
  near : ∀ i, i < (s.chan n).profile.near → s.tap n .live .near i = 0
  far : ∀ i, i < (s.chan n).profile.far → s.tap n .live .far i = 0
  equal : ∀ j, j < (s.chan n).profile.eq → s.tap n .live .equal j = if j = (s.chan n).profile.eq / 2 then 32767 else 0

theorem writeInitialTaps_initial {s : State} {n : ChannelNo} (h : s.LaidOut n) : (s.writeInitialTaps n).Initial n := by
  have range (k : Nat) : ∀ i ∈ List.range k, i < k := fun _ hi => List.mem_range.1 hi
  have near := h.writeLive .near (List.range (s.chan n).profile.near) fun _ => 0
  have far := near.writeLive .far (List.range (s.chan n).profile.far) fun _ => 0
  have equal (j : Nat) (hj : j ∈ List.range (s.chan n).profile.eq) :=
    tap_writeLive_self (bank := .equal) (indices := List.range (s.chan n).profile.eq) far (by decide) List.nodup_range
      (range _) (fun j => if j = (s.chan n).profile.eq / 2 then 32767 else 0) hj
  refine ⟨fun i hi => ?_, fun i hi => ?_, fun j hj => equal j (List.mem_range.2 hj)⟩
  · refine (tap_writeLive_of_other (bank := .equal) far (by decide) (range _) _ (other := .near) (by decide) hi nofun).trans ?_
    refine (tap_writeLive_of_other (bank := .far) near (by decide) (range _) _ (other := .near) (by decide) hi nofun).trans ?_
    exact tap_writeLive_self (bank := .near) h (by decide) List.nodup_range (range _) _ (List.mem_range.2 hi)
  · refine (tap_writeLive_of_other (bank := .equal) far (by decide) (range _) _ (other := .far) (by decide) hi nofun).trans ?_
    exact tap_writeLive_self (bank := .far) near (by decide) List.nodup_range (range _) _ (List.mem_range.2 hi)

end Sys2Proof.Machine

/-! RETRAIN (R20), with what a command leaves whose block ends an event in which channels may be granted a player. -/

namespace Sys2Proof.Machine

/-! ### A command that closes an event -/

/-- `t` is what the end of an event leaves that has brought about `u`, the pool judged against `s`. -/
structure State.Ends (s u t : State) : Prop where
  chan : ∀ m, (u.chan m).GrantedOr (t.chan m)
  probe : ∀ n, n ∈ u.probeQueue → t.InProbe n (u.chan n) u.probeQueue (u.idleCount none)
  unqueued : ∀ n, n ∉ u.probeQueue → t.chan n = u.chan n ∧ n ∉ t.probeQueue
  play : u.probeQueue = [] → ∀ k, t.play k = u.play k
  mover : t.mover = u.mover
  cache : t.cache = u.cache
  parkCounter : t.parkCounter = u.parkCounter
  free : t.pool.free = u.pool.free
  taps : t.pool.taps = u.pool.taps
  judged : s.PoolJudged t

theorem takeCommand_ends {s u : State} {p : Port} (ready : s.Ready p) (tag : Byte) (params : List Byte)
    {act : State → Reply} {payload : List Byte}
    (block : act (s.driveLink p (commandEcho params)) = ((s.driveLink p (commandEcho params)).closeEvent u).answer payload)
    (within : (s.driveLink p (commandEcho params)).Within u) (flag : u.pool.flag = s.pool.flag) :
    (s.answered p params ⟨.ok, tag, payload⟩).Within (takeCommand p tag params act s)
      ∧ s.Ends u (takeCommand p tag params act s) := by
  have closing := within.trans (closeEvent_within (s.driveLink p (commandEcho params)) u)
  have judged := closeEvent_judged (s.driveLink p (commandEcho params)) u flag (by rw [within.config])
  have judged' := (takeCommand_judged (tag := tag) ready block closing judged ⟨.ok, tag, []⟩).from_same (u := s) rfl rfl
  have frame := takeCommand_frame ready tag params act block
  refine ⟨takeCommand_within ready tag params act block closing, ?_⟩
  generalize takeCommand p tag params act s = t at *
  obtain ⟨channels, pool, players, queue, mover, cache, counter⟩ := frame
  have chan (m : ChannelNo) : t.chan m = ((s.driveLink p (commandEcho params)).closeEvent u).chan m :=
    congrArg (fun w : Vector Channel 48 => w.get m) channels
  have play (k : PlayerNo) : t.play k = ((s.driveLink p (commandEcho params)).closeEvent u).play k :=
    congrArg (fun w : Vector (Option Play) 4 => w.get k) players
  exact {
    chan := fun m => by rw [chan]; exact closeEvent_chan _ u m
    probe := fun n waits => (closeEvent_inProbe _ waits).congr (chan n) queue players
    unqueued := fun n out => by
      obtain ⟨same, away⟩ := closeEvent_chan_of_not_queued (s.driveLink p (commandEcho params)) u out
      exact ⟨(chan n).trans same, fun waits => away (queue ▸ waits)⟩
    play := fun empty k => by rw [play, closeEvent_play, grants_of_granted (.inl empty)]
    mover := mover.trans (closeEvent_mover _ u)
    cache := cache.trans (closeEvent_cache _ u)
    parkCounter := counter.trans (closeEvent_parkCounter _ u)
    free := (congrArg Pool.free pool).trans (closeEvent_free _ u)
    taps := (congrArg Pool.taps pool).trans (closeEvent_taps _ u)
    judged := judged' }

/-! ### Taps as a channel's live list gives them -/

theorem tap_congr {s t : State} {n : ChannelNo} (profile : (t.chan n).profile = (s.chan n).profile)
    (live : (t.chan n).live = (s.chan n).live) (taps : t.pool.taps = s.pool.taps) (bank : Bank) (i : Nat) :
    t.tap n .live bank i = s.tap n .live bank i := by
  rw [tap_live, tap_live, profile, live, taps]

theorem State.Initial.congr {s t : State} {n : ChannelNo} (h : s.Initial n) (profile : (t.chan n).profile = (s.chan n).profile)
    (live : (t.chan n).live = (s.chan n).live) (taps : t.pool.taps = s.pool.taps) : t.Initial n := by
  have same := tap_congr profile live taps
  refine ⟨fun i hi => ?_, fun i hi => ?_, fun j hj => ?_⟩
  · rw [same]; exact h.near i (profile ▸ hi)
  · rw [same]; exact h.far i (profile ▸ hi)
  · rw [same, profile]; exact h.equal j (profile ▸ hj)

/-- A granted player changes neither the live list nor the profile. -/
theorem Channel.GrantedOr.layout {c d : Channel} (h : c.GrantedOr d) : d.profile = c.profile ∧ d.live = c.live := by
  rcases h with rfl | ⟨k, rfl⟩
  · exact ⟨rfl, rfl⟩
  · exact ⟨rfl, rfl⟩

/-! ### RETRAIN -/

/-- The state with taps and window of the channel at their initial values where `wipe` holds (R13, R20). -/
def State.wiped (s : State) (n : ChannelNo) (wipe : Bool) : State :=
  if wipe then (s.writeInitialTaps n).modChan n fun c => { c with window := .inactive } else s

/-- The state that RETRAIN leaves before the grants. -/
def State.retrained (s : State) (n : ChannelNo) (wipe : Bool) : State :=
  (((s.freePlayer n).leaveQueue n).wiped n wipe).enterQueued n

/-- The record that RETRAIN leaves before the grants. -/
def Channel.retrained (c : Channel) (wipe : Bool) : Channel :=
  { c with
    state := .training .queued, goodRun := 0, badRun := 0, trainingEpochs := 0, proving := none, guard := none, player := none
    rollback := c.rollback.map fun _ => false
    window := if wipe then ⟨0, false⟩ else c.window }

theorem left_eq (s : State) (n : ChannelNo) : ∃ players channels, (s.freePlayer n).leaveQueue n =
    { s with players := players, channels := channels, probeQueue := s.probeQueue.filter fun m => m ≠ n } := by
  unfold State.freePlayer
  split
  · exact ⟨_, _, rfl⟩
  · exact ⟨_, _, rfl⟩

theorem left_chan (s : State) (n m : ChannelNo) : ((s.freePlayer n).leaveQueue n).chan m =
    if n = m then { s.chan m with player := none } else s.chan m := freePlayer_chan s n m

theorem left_play (s : State) (n : ChannelNo) (k : PlayerNo) : ((s.freePlayer n).leaveQueue n).play k =
    if (s.chan n).player = some k then none else s.play k := freePlayer_play s n k

/-- The player that the channel frees counts with the IDLE ones. -/
theorem left_idleCount (s : State) (n : ChannelNo) :
    ((s.freePlayer n).leaveQueue n).idleCount none = s.idleCount (s.chan n).player := by
  unfold State.idleCount
  refine List.countP_congr fun k _ => ?_
  rw [left_play]
  by_cases own : (s.chan n).player = some k
  · simp [own]
  · simp [own]

theorem wiped_eq (s : State) (n : ChannelNo) (wipe : Bool) :
    ∃ taps channels, s.wiped n wipe = { s.setTaps taps with channels := channels } := by
  cases wipe
  · exact ⟨s.pool.taps, s.channels, rfl⟩
  · obtain ⟨taps, written⟩ := writeInitialTaps_eq s n
    refine ⟨taps, ((s.setTaps taps).modChan n fun c => { c with window := .inactive }).channels, ?_⟩
    rw [State.wiped, if_pos rfl, written]
    rfl

theorem wiped_chan (s : State) (n m : ChannelNo) (wipe : Bool) : (s.wiped n wipe).chan m =
    if n = m then { s.chan m with window := if wipe then ⟨0, false⟩ else (s.chan m).window } else s.chan m := by
  cases wipe
  · split <;> rfl
  · obtain ⟨taps, written⟩ := writeInitialTaps_eq s n
    rw [State.wiped, if_pos rfl, written, chan_modChan]
    rfl

theorem enterQueued_chan (s : State) (n m : ChannelNo) : (s.enterQueued n).chan m =
    if n = m then
      { (s.chan m).enter (.training .queued) with
        trainingEpochs := 0, proving := none, guard := none, player := none, rollback := (s.chan m).rollback.map fun _ => false }
    else s.chan m := chan_modChan _ n m _

/-- Taps apart, RETRAIN changes the channel's record, its player and the probe queue. -/
theorem retrained_frame (s : State) (n : ChannelNo) (wipe : Bool) : let u := s.retrained n wipe
    s.Within u ∧ u.probeQueue = (s.probeQueue.filter fun m => m ≠ n) ++ [n] ∧ u.mover = s.mover ∧ u.cache = s.cache
      ∧ u.parkCounter = s.parkCounter ∧ u.pool.free = s.pool.free ∧ u.pool.flag = s.pool.flag
      ∧ u.idleCount none = s.idleCount (s.chan n).player := by
  have idle := left_idleCount s n
  obtain ⟨players, channels, left⟩ := left_eq s n
  unfold State.retrained
  rw [left] at idle ⊢
  obtain ⟨taps, channels', wiped⟩ := wiped_eq
    { s with players := players, channels := channels, probeQueue := s.probeQueue.filter fun m => m ≠ n } n wipe
  rw [wiped]
  exact ⟨⟨rfl, rfl, rfl, rfl, rfl, rfl, .of_ports rfl⟩, rfl, rfl, rfl, rfl, rfl, rfl, idle⟩

theorem retrained_chan (s : State) (n m : ChannelNo) (wipe : Bool) :
    (s.retrained n wipe).chan m = if n = m then (s.chan m).retrained wipe else s.chan m := by
  rw [State.retrained, enterQueued_chan, wiped_chan, left_chan]
  split <;> rfl

theorem retrained_taps_kept (s : State) (n : ChannelNo) : (s.retrained n false).pool = s.pool := by
  have pool : ((s.freePlayer n).leaveQueue n).pool = s.pool := freePlayer_pool s n
  exact pool

/-- Of a channel whose live set is laid out: the initial values, and no other tap written. -/
theorem retrained_initial {s : State} {n : ChannelNo} (h : s.LaidOut n) : (s.retrained n true).Initial n
    ∧ ∀ x, x / 32 ∉ (s.chan n).live → (s.retrained n true).pool.taps.read x = s.pool.taps.read x := by
  have record := retrained_chan s n n true
  rw [if_pos rfl] at record
  have own := (left_chan s n n).trans (if_pos rfl)
  have pool : ((s.freePlayer n).leaveQueue n).pool = s.pool := freePlayer_pool s n
  have taps : (s.retrained n true).pool.taps = (((s.freePlayer n).leaveQueue n).writeInitialTaps n).pool.taps := rfl
  have same (n' : ChannelNo) : (((s.freePlayer n).leaveQueue n).writeInitialTaps n).chan n' = ((s.freePlayer n).leaveQueue n).chan n' := rfl
  have laid : ((s.freePlayer n).leaveQueue n).LaidOut n := by
    refine ⟨?_, ?_, ?_⟩
    · rw [pool]; exact h.canonical
    · rw [own]; exact h.nodup
    · rw [own]; exact h.length
  generalize (s.freePlayer n).leaveQueue n = u at *
  refine ⟨(writeInitialTaps_initial laid).congr ?_ ?_ taps, fun x outside => ?_⟩
  · rw [record, same, own]; rfl
  · rw [record, same, own]; rfl
  · rw [taps, read_writeInitialTaps_outside laid.canonical n (by rw [own]; exact outside), pool]

theorem exec_retrain (p : Port) (tag : Byte) (params : List Byte) (s : State) :
    exec (.retrain p tag params) s = .next (takeCommand p tag params (retrainAct p params) s) := rfl

theorem retrainAct_of_lessee {s : State} {p : Port} {n : ChannelNo} (lessee : (s.chan n).lessee = some p) (clear : Byte) :
    retrainAct p [chanByte n, clear] s = retrainChannel clear.toNat n s := by
  rw [retrainAct, withParams_some (parseChannelByte_chan n clear), withLessee_of_lessee lessee]

theorem yesNo_of_le {k : Nat} (h : k ≤ 1) : yesNo k = some (k == 1) := by
  match k, h with
  | 0, _ => rfl
  | 1, _ => rfl

theorem yesNo_of_gt {k : Nat} (h : 1 < k) : yesNo k = none := by
  match k, h with
  | k + 2, _ => rfl

theorem retrainChannel_of_inCall {s : State} {n : ChannelNo} (inCall : (s.chan n).state.inCall = true) {clear : Nat}
    (legal : clear ≤ 1) : retrainChannel clear n s = (s.closeEvent (s.retrained n (clear == 1))).answer [] := by
  rw [retrainChannel, if_pos inCall, yesNo_of_le legal]
  rfl

/-- Settles O26: the checks, and the requeuing as an event of its own. -/
theorem retrainRequeues : Obligations.RetrainRequeues := by
  intro s p tag n clear ready lessee params
  have act := retrainAct_of_lessee (s := s.driveLink p (commandEcho params)) lessee clear
  rw [exec_retrain]
  refine ⟨fun releasing => ?_, fun inCall illegal => ?_, fun inCall legal => ?_⟩
  · have refused : retrainAct p params (s.driveLink p (commandEcho params))
        = (s.driveLink p (commandEcho params)).refuse .wrongState := by
      refine act.trans (if_neg ?_)
      rw [driveLink_chan, releasing]
      exact Bool.false_ne_true
    rw [takeCommand_refused ready tag _ _ refused]
  · have refused : retrainAct p params (s.driveLink p (commandEcho params))
        = (s.driveLink p (commandEcho params)).refuse .badParam := by
      rw [show retrainAct p params _ = _ from act, retrainChannel, if_pos (by rw [driveLink_chan]; exact inCall), yesNo_of_gt illegal]
    rw [takeCommand_refused ready tag _ _ refused]
  · have block : retrainAct p params (s.driveLink p (commandEcho params)) = _ :=
      act.trans (retrainChannel_of_inCall (s := s.driveLink p (commandEcho params)) inCall legal)
    have record (m : ChannelNo) := retrained_chan (s.driveLink p (commandEcho params)) n m (clear.toNat == 1)
    obtain ⟨within, queue, mover, cache, counter, free, flag, idle⟩ :=
      retrained_frame (s.driveLink p (commandEcho params)) n (clear.toNat == 1)
    have kept := retrained_taps_kept (s.driveLink p (commandEcho params)) n
    have wiped := retrained_initial (s := s.driveLink p (commandEcho params)) (n := n)
    have zero : clear = 0 → (clear.toNat == 1) = false := fun e => by rw [e]; rfl
    have one : clear = 1 ↔ (clear.toNat == 1) = true := by
      rw [beq_iff_eq]
      exact ⟨fun e => by rw [e]; rfl, fun e => BitVec.eq_of_toNat_eq e⟩
    generalize (clear.toNat == 1) = wipe at *
    obtain ⟨answered, ends⟩ := takeCommand_ends ready tag params block within flag
    generalize takeCommand p tag params (retrainAct p params) s = t at *
    refine ⟨_, rfl, answered, ?_, fun m ne => ?_, ends.mover.trans mover, ends.cache.trans cache,
      ends.parkCounter.trans counter, ends.free.trans free, fun e => ?_, fun e canonical nodup length => ?_⟩
    · have probe := ends.probe n (by rw [queue]; exact List.mem_append_right _ (List.mem_singleton_self n))
      rw [record, if_pos rfl, queue, idle, Channel.retrained, ← if_congr one rfl rfl] at probe
      exact probe
    · have granted := ends.chan m
      rw [record, if_neg (Ne.symm ne)] at granted
      exact granted
    · rw [zero e] at ends
      rw [ends.taps, kept]
      rfl
    · rw [one.1 e] at ends record
      obtain ⟨initial, outside⟩ := wiped ⟨canonical, nodup, length⟩
      obtain ⟨profile, live⟩ := (ends.chan n).layout
      have own := (record n).trans (if_pos rfl)
      have final := initial.congr profile live ends.taps
      have same : (t.chan n).profile = (s.chan n).profile := by rw [profile, own]; rfl
      intro profile
      refine ⟨fun i hi => final.near i (by rw [same]; exact hi),
        fun i hi => final.far i (by rw [same]; exact hi), fun j hj => ?_, fun x hx => ?_⟩
      · rw [final.equal j (by rw [same]; exact hj), same]
      · rw [ends.taps, outside x hx]
        rfl

end Sys2Proof.Machine

/-! RELEASE (R16, R119): the park decision, the drain, and the abort of every order on the channel. -/

namespace Sys2Proof.Machine

/-- The end of a command raises nothing beside what its block has raised. -/
theorem takeCommand_raised {s v : State} {p : Port} (ready : s.Ready p) (tag : Byte) (params : List Byte)
    {act : State → Reply} {status : Status} {payload : List Byte}
    (block : act (s.driveLink p (commandEcho params)) = ⟨v, status, payload⟩)
    (within : (s.driveLink p (commandEcho params)).Within v) {q : Port} {done evicted : List Notice}
    (raised : (s.driveLink p (commandEcho params)).Raised v q done evicted) :
    (s.answered p params ⟨status, tag, payload⟩).Raised (takeCommand p tag params act s) q done evicted := by
  have joined : (v.port p).joined = true := by rw [within.heard.joined, driveLink_joined]; exact ready.joined
  rw [takeCommand_of_joined ready.quiet ready.joined, block]
  exact finish_raised (u := s) within.config joined tag status payload raised

/-! ### The state that RELEASE leaves -/

/-- The state with the drain begun: player and queue place given up (R16). -/
def State.draining (s : State) (n : ChannelNo) : State := ((s.freePlayer n).leaveQueue n).modChan n Channel.startRelease

/-- The state that RELEASE leaves before the grants. -/
def State.released (s : State) (n : ChannelNo) : State := (s.draining n).abortOrders fun o => o.work.touches n

theorem draining_eq (s : State) (n : ChannelNo) : ∃ players channels, s.draining n =
    { s with players := players, channels := channels, probeQueue := s.probeQueue.filter fun m => m ≠ n } := by
  obtain ⟨players, channels, left⟩ := left_eq s n
  exact ⟨players, _, congrArg (State.modChan · n Channel.startRelease) left⟩

theorem draining_chan (s : State) (n m : ChannelNo) : (s.draining n).chan m =
    if n = m then ({ s.chan m with player := none } : Channel).startRelease else s.chan m := by
  rw [State.draining, chan_modChan, left_chan]
  split <;> rfl

theorem draining_ring (s : State) (n m : ChannelNo) : ((s.draining n).chan m).ring = (s.chan m).ring := by
  rw [draining_chan]
  split <;> rfl

theorem draining_within (s : State) (n : ChannelNo) : s.Within (s.draining n) :=
  ((freePlayer_within s n).trans (leaveQueue_within _ n)).trans (modChan_within _ n _)

/-- What RELEASE leaves of the stores, the queue and the players. -/
theorem released_frame (s : State) (n : ChannelNo) : let u := s.released n
    s.Within u ∧ u.probeQueue = (s.probeQueue.filter fun m => m ≠ n) ∧ (u.mover = s.mover.filter fun o => !o.work.touches n)
      ∧ u.cache = s.cache ∧ u.parkCounter = s.parkCounter ∧ u.pool.flag = s.pool.flag
      ∧ s.Returns u ((s.chan n).discarded (s.ordersOn n) n)
      ∧ ∀ k, u.play k = if (s.chan n).player = some k then none else s.play k := by
  have play (k : PlayerNo) : (s.draining n).play k = if (s.chan n).player = some k then none else s.play k := left_play s n k
  have within := draining_within s n
  have ring := draining_ring s n n
  have orders : (s.draining n).ordersOn n = s.ordersOn n := by
    obtain ⟨players, channels, drained⟩ := draining_eq s n
    rw [drained]
    rfl
  have back : (s.draining n).Returns (s.released n) ((s.chan n).discarded (s.ordersOn n) n) := by
    have all := abortOrders_returns (s.draining n) n
    rw [orders, Channel.discarded, ring] at all
    exact all
  have keeps : (s.draining n).KeepsCalls (s.released n) := abortOrders_keeps _ _
  have mover : (s.released n).mover = (s.draining n).mover.filter fun o => !o.work.touches n := abortOrders_mover _ _
  have flag : (s.released n).pool.flag = (s.draining n).pool.flag := abortOrders_flag _ _
  have plays (k : PlayerNo) : (s.released n).play k = (s.draining n).play k :=
    congrArg (fun w : Vector (Option Play) 4 => w.get k) keeps.players
  have within' : (s.draining n).Within (s.released n) := abortOrders_within _ _
  obtain ⟨players, channels, drained⟩ := draining_eq s n
  generalize s.released n = u at *
  generalize s.draining n = v at *
  subst drained
  exact ⟨within.trans within', keeps.probeQueue, mover, keeps.cache, keeps.parkCounter, flag, back,
    fun k => (plays k).trans (play k)⟩

theorem Channel.OrdersEnded.startRelease {orders : List Order} {n : ChannelNo} {c d : Channel}
    (h : ({ c with player := none } : Channel).startRelease.OrdersEnded orders n d) :
    ∃ e, c.OrdersEnded orders n e ∧ d = { e with
      state := .releasing, goodRun := 0, badRun := 0, player := none, parkEligible := some c.mayPark, proving := none,
      guard := none, drainTimer := some 50 } := by
  obtain ⟨marks, rfl⟩ := h
  exact ⟨_, ⟨marks, rfl⟩, rfl⟩

theorem ordersOn_draining (s : State) (n : ChannelNo) : (s.draining n).mover.filter (fun o => o.work.touches n) = s.ordersOn n := by
  obtain ⟨players, channels, drained⟩ := draining_eq s n
  rw [drained]
  rfl

/-- The channels, once the orders on channel `n` are aborted. -/
theorem released_chan (s : State) (n : ChannelNo) :
    (∃ c, (s.chan n).OrdersEnded (s.ordersOn n) n c ∧ (s.released n).chan n = { c with
      state := .releasing, goodRun := 0, badRun := 0, player := none, parkEligible := some (s.chan n).mayPark,
      proving := none, guard := none, drainTimer := some 50 })
      ∧ ∀ m, m ≠ n → (s.chan m).OrdersEnded (s.ordersOn n) m ((s.released n).chan m)
        ∧ ((s.released n).chan m).records = (s.chan m).records := by
  have ended (m : ChannelNo) : ((s.draining n).chan m).OrdersEnded (s.ordersOn n) m ((s.released n).chan m) := by
    rw [← ordersOn_draining]
    exact abortOrders_chan (s.draining n) _ m
  obtain ⟨_, ends⟩ := abortOrders_ends (s.draining n) n
  refine ⟨?_, fun m ne => ⟨?_, ?_⟩⟩
  · have own := ended n
    rw [draining_chan, if_pos rfl] at own
    exact own.startRelease
  · have other := ended m
    rwa [draining_chan, if_neg (Ne.symm ne)] at other
  · refine (ends.records m ne).trans ?_
    rw [draining_chan, if_neg (Ne.symm ne)]

theorem released_raised (s : State) (n : ChannelNo) {q : Port} (joined : (s.port q).joined = true) :
    s.Raised (s.released n) q (abortNotices (s.ordersOn n) q) [] := by
  have all := abortOrders_raised (s.draining n) (fun o => o.work.touches n) (q := q)
    (by rw [(draining_within s n).heard.joined]; exact joined)
  rw [ordersOn_draining] at all
  obtain ⟨players, channels, drained⟩ := draining_eq s n
  exact all.congr (by rw [drained]; rfl)

/-! ### The command -/

theorem exec_release (p : Port) (tag : Byte) (params : List Byte) (s : State) :
    exec (.release p tag params) s = .next (takeCommand p tag params (releaseAct p params) s) := rfl

theorem releaseAct_of_lessee {s : State} {p : Port} {n : ChannelNo} (lessee : (s.chan n).lessee = some p) :
    releaseAct p [chanByte n] s = releaseChannel n s := by
  rw [releaseAct, withParams_some (parseByte_chan n), withLessee_of_lessee lessee]

theorem releaseChannel_of_inCall {s : State} {n : ChannelNo} (inCall : (s.chan n).state.inCall = true) :
    releaseChannel n s = (s.closeEvent (s.released n)).answer [if (s.chan n).mayPark then 0 else 1] := by
  refine (if_pos inCall).trans ?_
  cases (s.chan n).mayPark
  · rfl
  · rfl

/-- Settles O25: the refusal, and the drain begun as an event of its own (`takeCommand_ends`). -/
theorem releaseStartsDrain : Obligations.ReleaseStartsDrain := by
  intro s p tag n ready lessee
  have act := releaseAct_of_lessee (s := s.driveLink p (commandEcho [chanByte n])) lessee
  rw [exec_release]
  refine ⟨fun releasing => ?_, fun inCall => ?_⟩
  · have refused : releaseAct p [chanByte n] (s.driveLink p (commandEcho [chanByte n]))
        = (s.driveLink p (commandEcho [chanByte n])).refuse .wrongState := by
      refine act.trans (if_neg ?_)
      rw [driveLink_chan, releasing]
      exact Bool.false_ne_true
    rw [takeCommand_refused ready tag _ _ refused]
  · intro eligible
    have block : releaseAct p [chanByte n] (s.driveLink p (commandEcho [chanByte n])) = _ :=
      act.trans (releaseChannel_of_inCall (s := s.driveLink p (commandEcho [chanByte n])) inCall)
    obtain ⟨within, queue, mover, cache, counter, flag, returns, play⟩ :=
      released_frame (s.driveLink p (commandEcho [chanByte n])) n
    obtain ⟨own, others⟩ := released_chan (s.driveLink p (commandEcho [chanByte n])) n
    have raised {q : Port} (joined : (s.port q).joined = true) :=
      released_raised (s.driveLink p (commandEcho [chanByte n])) n (q := q) (by rw [driveLink_joined]; exact joined)
    generalize (s.driveLink p (commandEcho [chanByte n])).released n = u at *
    obtain ⟨answered, ends⟩ := takeCommand_ends ready tag [chanByte n] block within flag
    have told {q : Port} (joined : (s.port q).joined = true) := takeCommand_raised ready tag [chanByte n] block
      (within.trans (closeEvent_within _ u)) ((raised joined).trans
        (closeEvent_raised _ u (by rw [within.heard.joined, driveLink_joined]; exact joined)))
    simp only [List.append_nil] at told
    generalize takeCommand p tag [chanByte n] (releaseAct p [chanByte n]) s = t at *
    have away : n ∉ u.probeQueue := by rw [queue]; simp
    obtain ⟨same, out⟩ := ends.unqueued n away
    obtain ⟨c, ended, record⟩ := own
    obtain ⟨free, taps⟩ := returns
    refine ⟨t, rfl, ⟨answered, fun q joined => told joined⟩, ⟨c, ended, same.trans record⟩, ends.mover.trans mover, out,
      fun k names empty => ?_, fun m ne => ?_, ends.cache.trans cache, ends.parkCounter.trans counter, ends.judged,
      fun x => ?_, fun a => ?_⟩
    · have none : u.probeQueue = [] := by
        rw [queue, driveLink_probeQueue, empty]
        rfl
      rw [ends.play none, play]
      exact if_pos names
    · obtain ⟨served, records⟩ := others m ne
      refine ⟨⟨_, served, ends.chan m⟩, ?_⟩
      rcases ends.chan m with equal | ⟨k, equal⟩
      · rw [equal]; exact records
      · rw [equal]; exact records
    · rw [ends.free]
      exact free x
    · rw [ends.taps]
      exact taps a

end Sys2Proof.Machine

/-! A fresh ATTACH (R13, R15, R44, R45): the evictions, the call on the lowest free segments, and its place in the queue. -/

namespace Sys2Proof.Machine

theorem evictSteps_driveLink (need : Nat) (entries : List CacheEntry) (s : State) (p : Port) (b : List Byte) :
    entries.foldl (State.evictStep need) (s.driveLink p b) = (entries.foldl (State.evictStep need) s).driveLink p b := by
  induction entries generalizing s with
  | nil => rw [List.foldl_nil, List.foldl_nil]
  | cons e rest ih =>
    rw [List.foldl_cons, List.foldl_cons, ← ih]
    congr 1
    unfold State.evictStep
    rw [driveLink_pool]
    split
    · exact evict_driveLink .claimed s p b e
    · rfl

theorem evictFor_driveLink (s : State) (p : Port) (b : List Byte) (need tag : Nat) :
    (s.driveLink p b).evictFor need tag = (s.evictFor need tag).driveLink p b :=
  evictSteps_driveLink need (evictionOrder tag s.cache) s p b

theorem evictFor_of_enough {s : State} {need : Nat} (tag : Nat) (enough : need ≤ s.pool.free.length) :
    s.evictFor need tag = s := evictSteps_of_enough _ enough

/-- The evictions for a need touch the cache, the pool but for its flag, and the ports. -/
theorem evictFor_frame (s : State) (need tag : Nat) :
    (∃ cache pool ports, s.evictFor need tag = { s with cache := cache, pool := pool, ports := ports })
      ∧ (s.evictFor need tag).pool.flag = s.pool.flag := by
  obtain ⟨k, -, fold, -⟩ := evictSteps_firstPart need (evictionOrder tag s.cache) s
  rw [evictFor_eq, fold]
  exact ⟨evictAll_eq .claimed _ s, (evictAll_frame .claimed _ s).2.2⟩

/-! ### The new call -/

/-- The call on its segments, their taps not yet at their initial values. -/
def State.placed (u : State) (p : Port) (n : ChannelNo) (profile : Profile) (policy : Policy) : State :=
  (u.setFree (u.pool.free.drop profile.segments)).modChan n fun _ => Channel.fresh p profile policy u.pool.free

section NewCall

variable (u : State) (p : Port) (n : ChannelNo) (profile : Profile) (policy : Policy)

theorem newCall_eq : u.newCall p n profile policy = (u.placed p n profile policy).writeInitialTaps n := rfl

theorem placed_chan (m : ChannelNo) : (u.placed p n profile policy).chan m =
    if n = m then Channel.fresh p profile policy u.pool.free else u.chan m := chan_modChan _ n m _

theorem newCall_queued_chan (m : ChannelNo) : ((u.newCall p n profile policy).enterQueued n).chan m =
    if n = m then { Channel.fresh p profile policy u.pool.free with state := .training .queued } else u.chan m := by
  obtain ⟨taps, written⟩ := writeInitialTaps_eq (u.placed p n profile policy) n
  rw [enterQueued_chan, newCall_eq, written, chan_setTaps, placed_chan]
  split <;> rfl

/-- What a new call leaves beside the channels and the taps. -/
theorem newCall_queued_frame : let v := (u.newCall p n profile policy).enterQueued n
    u.Within v ∧ v.ports = u.ports ∧ v.probeQueue = u.probeQueue ++ [n] ∧ v.players = u.players ∧ v.mover = u.mover
      ∧ v.cache = u.cache ∧ v.parkCounter = u.parkCounter ∧ v.pool.free = u.pool.free.drop profile.segments
      ∧ v.pool.flag = u.pool.flag := by
  obtain ⟨taps, written⟩ := writeInitialTaps_eq (u.placed p n profile policy) n
  rw [newCall_eq, written]
  exact ⟨⟨rfl, rfl, rfl, rfl, rfl, rfl, .of_ports rfl⟩, rfl, rfl, rfl, rfl, rfl, rfl, rfl, rfl⟩

end NewCall

/-- The taps of a call on enough segments stand at their initial values, and no other tap is written. -/
theorem newCall_initial {u : State} (canonical : u.pool.taps.wf = true) (nodup : u.pool.free.Nodup) {profile : Profile}
    (enough : profile.segments ≤ u.pool.free.length) (p : Port) (n : ChannelNo) (policy : Policy) :
    ((u.newCall p n profile policy).enterQueued n).Initial n ∧ ∀ x, x / 32 ∉ u.pool.free.take profile.segments →
      ((u.newCall p n profile policy).enterQueued n).pool.taps.read x = u.pool.taps.read x := by
  have record := placed_chan u p n profile policy n
  rw [if_pos rfl] at record
  have final := newCall_queued_chan u p n profile policy n
  rw [if_pos rfl] at final
  have taps : ((u.newCall p n profile policy).enterQueued n).pool.taps
      = ((u.placed p n profile policy).writeInitialTaps n).pool.taps := rfl
  have same : (u.placed p n profile policy).pool.taps = u.pool.taps := rfl
  have laid : (u.placed p n profile policy).LaidOut n := by
    refine ⟨canonical, ?_, ?_⟩
    · rw [record]; exact nodup.sublist (List.take_sublist _ _)
    · rw [record]; exact List.length_take_of_le enough
  have chan : ((u.placed p n profile policy).writeInitialTaps n).chan n = (u.placed p n profile policy).chan n := rfl
  generalize u.placed p n profile policy = v at *
  refine ⟨(writeInitialTaps_initial laid).congr ?_ ?_ taps, fun x outside => ?_⟩
  · rw [final, chan, record]
  · rw [final, chan, record]
  · rw [taps, read_writeInitialTaps_outside laid.canonical n (by rw [record]; exact outside), same]

/-! ### The command -/

theorem attachChannel_fresh {s : State} {n : ChannelNo} (vacant : (s.chan n).state = .vacant) {a : AttachParams}
    {profile : Profile} {policy : Policy} (checked : a.check = some (profile, policy))
    (populated : (Config.directory a.sequence).length ≠ 0) (fresh : s.resumable profile policy = none)
    (obtainable : profile.segments ≤ s.pool.free.length + s.cacheSegments) (p : Port) : attachChannel p a n s =
      (s.closeEvent (((s.evictFor profile.segments policy.routeTag).newCall p n profile policy).enterQueued n)).answer
        (enc1 Origin.fresh.code ++ enc1 profile.segments ++ [0xFF]) := by
  have branches := attachChannel_checked vacant checked p
  rw [if_neg populated, fresh] at branches
  exact branches.trans (if_pos obtainable)

/-- Settles O21: the evictions (`evictFor_frame`), and the new call as an event of its own (`takeCommand_ends`). -/
theorem attachFresh : Obligations.AttachFresh := by
  intro s p tag params a n profile policy ready parsed named vacant checked populated fresh obtainable u
  refine ⟨fun enough => evictFor_of_enough _ enough, ?_⟩
  have block := (attachAct_of_channel parsed named p (s.driveLink p (commandEcho params))).trans
    (attachChannel_fresh (s := s.driveLink p (commandEcho params)) vacant checked populated fresh obtainable p)
  obtain ⟨⟨cache, pool, ports, evicted⟩, flag⟩ := evictFor_frame s profile.segments policy.routeTag
  have evicting := evictFor_within (s.driveLink p (commandEcho params)) profile.segments policy.routeTag
  have own := evictFor_within s profile.segments policy.routeTag
  rw [evictFor_driveLink] at block evicting
  obtain ⟨calling, heard, queue, players, mover, cached, counter, free, flag'⟩ :=
    newCall_queued_frame (u.driveLink p (commandEcho params)) p n profile policy
  have record (m : ChannelNo) := newCall_queued_chan (u.driveLink p (commandEcho params)) p n profile policy m
  have initial (canonical : u.pool.taps.wf = true) (nodup : u.pool.free.Nodup)
      (enough : profile.segments ≤ u.pool.free.length) :=
    newCall_initial (u := u.driveLink p (commandEcho params)) canonical nodup enough p n policy
  have calls : u.channels = s.channels ∧ u.players = s.players ∧ u.probeQueue = s.probeQueue ∧ u.mover = s.mover
      ∧ u.parkCounter = s.parkCounter := by
    show (s.evictFor profile.segments policy.routeTag).channels = _ ∧ _
    rw [show u = _ from evicted, evicted]
    exact ⟨rfl, rfl, rfl, rfl, rfl⟩
  have sameFlag : u.pool.flag = s.pool.flag := flag
  have joined (q : Port) : (u.port q).joined = (s.port q).joined := own.heard.joined q
  rw [show s.evictFor profile.segments policy.routeTag = u from rfl] at block evicting
  clear_value u
  generalize ((u.driveLink p (commandEcho params)).newCall p n profile policy).enterQueued n = v at *
  have within := evicting.trans calling
  obtain ⟨answered, ends⟩ := takeCommand_ends ready tag params block within (flag'.trans sameFlag)
  have raised {q : Port} (there : (s.port q).joined = true) :
      (u.answered p params ⟨.ok, tag, enc1 Origin.fresh.code ++ enc1 profile.segments ++ [0xFF]⟩).Raised
        (takeCommand p tag params (attachAct p params) s) q [] [] := by
    have silent := closeEvent_raised (s.driveLink p (commandEcho params)) v (q := q)
      (by rw [within.heard.joined, driveLink_joined]; exact there)
    have closing := calling.trans (closeEvent_within (s.driveLink p (commandEcho params)) v)
    rw [takeCommand_of_joined ready.quiet ready.joined, block]
    refine finish_raised (u := u) closing.config ?_ tag .ok _ (silent.congr (by simp only [State.port, heard]))
    rw [closing.heard.joined, driveLink_joined, joined]
    exact ready.joined
  rw [exec_attach]
  generalize takeCommand p tag params (attachAct p params) s = t at *
  obtain ⟨channels, samePlayers, sameQueue, sameMover, sameCounter⟩ := calls
  have chan (m : ChannelNo) : u.chan m = s.chan m := congrArg (fun w : Vector Channel 48 => w.get m) channels
  refine ⟨t, rfl, ⟨answered, fun q there => raised there⟩, ?_, ends.free.trans free, ends.judged, fun m ne => ?_,
    ends.mover.trans (mover.trans sameMover), ends.cache.trans cached, ends.parkCounter.trans (counter.trans sameCounter),
    fun canonical nodup enough => ?_⟩
  · have probe := ends.probe n (by rw [queue]; exact List.mem_append_right _ (List.mem_singleton_self n))
    have idle : v.idleCount none = s.idleCount none := by
      refine idleCount_congr (fun k => ?_) none
      simp only [State.play, players, driveLink_players, samePlayers]
    rw [record, if_pos rfl, queue, driveLink_probeQueue, sameQueue, idle] at probe
    exact probe
  · have granted := ends.chan m
    rw [record, if_neg (Ne.symm ne), driveLink_chan, chan] at granted
    exact granted
  · obtain ⟨taps, outside⟩ := initial canonical nodup enough
    obtain ⟨layout, live⟩ := (ends.chan n).layout
    have final := taps.congr layout live ends.taps
    have same : (t.chan n).profile = profile := by rw [layout, record, if_pos rfl]; rfl
    refine ⟨fun i hi => final.near i (by rw [same]; exact hi), fun i hi => final.far i (by rw [same]; exact hi), fun j hj => ?_,
      fun x hx => ?_⟩
    · rw [final.equal j (by rw [same]; exact hj), same]
    · rw [ends.taps, outside x hx]
      rfl

end Sys2Proof.Machine

/-! Levels (R37, R97): `dbLevel` is ten times the decimal logarithm, rounded and clamped. -/

namespace Sys2Proof.Machine

theorem dbAtLeast_iff_zpow {a b : Nat} (posB : 0 < b) (k : Int) :
    dbAtLeast a b k = true ↔ (10 : ℝ) ^ (2 * k - 1) ≤ ((a : ℝ) / b) ^ 20 := by
  have b20 : (0 : ℝ) < (b : ℝ) ^ 20 := pow_pos (Nat.cast_pos.2 posB) 20
  rw [dbAtLeast, decide_eq_true_eq, div_pow, le_div_iff₀ b20, ← Nat.cast_le (α := ℝ)]
  push_cast
  rcases le_or_gt 1 (2 * k - 1) with up | down
  · have exponent : ((2 * k - 1).toNat : Int) = 2 * k - 1 := Int.toNat_of_nonneg (by omega)
    rw [show (1 - 2 * k).toNat = 0 by omega, pow_zero, mul_one, mul_comm, ← zpow_natCast, exponent]
  · have exponent : ((1 - 2 * k).toNat : Int) = 1 - 2 * k := Int.toNat_of_nonneg (by omega)
    have power : (0 : ℝ) < 10 ^ (1 - 2 * k).toNat := by positivity
    have inverse : (10 : ℝ) ^ (2 * k - 1) = (10 ^ (1 - 2 * k).toNat)⁻¹ := by
      rw [← zpow_natCast, exponent, ← zpow_neg, neg_sub]
    rw [show (2 * k - 1).toNat = 0 by omega, pow_zero, mul_one, inverse, inv_mul_le_iff₀ power, mul_comm]

/-- The integer test is the comparison with the rounded logarithm. -/
theorem dbAtLeast_iff_round {a b : Nat} (posA : 0 < a) (posB : 0 < b) (k : Int) :
    dbAtLeast a b k = true ↔ k ≤ round (10 * Real.logb 10 ((a : ℝ) / b)) := by
  have pos : (0 : ℝ) < (a : ℝ) / b := div_pos (Nat.cast_pos.2 posA) (Nat.cast_pos.2 posB)
  have power : (0 : ℝ) < ((a : ℝ) / b) ^ 20 := pow_pos pos 20
  have logs : Real.logb 10 (((a : ℝ) / b) ^ 20) = 20 * Real.logb 10 ((a : ℝ) / b) := by
    rw [Real.logb_pow]
    norm_num
  rw [dbAtLeast_iff_zpow posB, ← Real.rpow_intCast, ← Real.le_logb_iff_rpow_le (by norm_num) power, logs, round_eq,
    Int.le_floor]
  push_cast
  constructor
  · intro h; linarith
  · intro h; linarith

/-- How many of `span` consecutive integers above `lo` do not exceed `r`. -/
theorem countP_range_le (lo r : Int) (span : Nat) {test : Int → Bool} (tested : ∀ k, test k = true ↔ k ≤ r) :
    ((List.range span).countP fun (i : Nat) => test (lo + i + 1) : Int) = min (span : Int) (max 0 (r - lo)) := by
  induction span with
  | zero => simp
  | succ span ih =>
    rw [List.range_succ, List.countP_append, List.countP_singleton, Nat.cast_add, ih]
    by_cases within : lo + span + 1 ≤ r
    · rw [if_pos ((tested _).2 within)]
      omega
    · rw [if_neg (fun t => within ((tested _).1 t))]
      omega

theorem dbLevel_eq (lo : Int) (span : Nat) {a b : Nat} (posA : 0 < a) (posB : 0 < b) :
    dbLevel lo span a b = max lo (min (lo + span) (round (10 * Real.logb 10 ((a : ℝ) / b)))) := by
  rw [dbLevel, if_neg (Nat.ne_of_gt posA), countP_range_le lo _ span (dbAtLeast_iff_round posA posB)]
  omega

/-- The level of an energy, as the measurements take it. -/
theorem levelOfEnergy_eq (energy : Nat) : levelOfEnergy energy =
    if energy = 0 then -70 else max (-70) (min 3 (round (10 * Real.logb 10 ((energy : ℝ) / (80 * 2 ^ 28))))) := by
  split
  · next zero => rw [zero]; rfl
  · next some =>
    rw [levelOfEnergy, dbLevel_eq (-70) 73 (Nat.pos_of_ne_zero some) (by norm_num)]
    push_cast
    norm_num

/-- The peak level of a candidate, as the locator takes it. -/
theorem peakLevel_eq (c : Int) (x p : Nat) : peakLevel c x p =
    if c = 0 ∨ x = 0 ∨ p = 0 then -70
    else max (-70) (min 0 (round (10 * Real.logb 10 ((c : ℝ) ^ 2 / ((x : ℝ) * (p : ℝ)))))) := by
  rw [peakLevel]
  split
  · next none => rw [if_pos (.inr (Nat.mul_eq_zero.1 none))]
  · next some =>
    by_cases zero : c = 0
    · rw [if_pos (.inl zero), zero]
      rfl
    · rw [if_neg fun h => h.elim zero fun h => some (Nat.mul_eq_zero.2 h),
        dbLevel_eq (-70) 70 (pow_pos (Int.natAbs_pos.2 zero) 2) (Nat.pos_of_ne_zero some)]
      have square : ((c.natAbs ^ 2 : Nat) : ℝ) = (c : ℝ) ^ 2 := by
        rw [← Int.cast_natCast, Nat.cast_pow, Int.natAbs_sq]
        push_cast
        rfl
      rw [square]
      push_cast
      norm_num

end Sys2Proof.Machine

/-! The locator (R96, R97) and the end of play (R95). -/

namespace Sys2Proof.Machine

/-! ### The first of the highest -/

/-- One comparison of the search for the first of the items with the highest level. -/
def higher {α : Type} (level : α → Int) (best : Nat × Int) (item : α × Nat) : Nat × Int :=
  if best.2 < level item.1 then (item.2, level item.1) else best

/-- `found` is the first place in `items` with the highest level, `floor` where none is above it. -/
structure FirstHighest {α : Type} (level : α → Int) (floor : Int) (items : List α) (found : Nat × Int) : Prop where
  least : floor ≤ found.2
  highest : ∀ i y, items[i]? = some y → level y ≤ found.2 ∧ (i < found.1 → level y < found.2)
  held : found = (0, floor) ∨ ∃ y, items[found.1]? = some y ∧ level y = found.2

theorem firstHighest_foldl {α : Type} (level : α → Int) (floor : Int) (items : List α) :
    FirstHighest level floor items (items.zipIdx.foldl (higher level) (0, floor)) := by
  induction items using List.reverseRecOn with
  | nil => exact ⟨Int.le_refl _, fun i y none => by simp at none, .inl rfl⟩
  | append_singleton rest y ih =>
    rw [List.zipIdx_append, List.foldl_append]
    generalize rest.zipIdx.foldl (higher level) (0, floor) = best at ih
    obtain ⟨least, highest, held⟩ := ih
    have within : best.1 ≤ rest.length := by
      rcases held with rfl | ⟨z, there, -⟩
      · exact Nat.zero_le _
      · exact Nat.le_of_lt (List.getElem?_eq_some_iff.1 there).1
    have last {i : Nat} {z : α} (there : (rest ++ [y])[i]? = some z) : rest[i]? = some z ∨ i = rest.length ∧ z = y := by
      rcases Nat.lt_trichotomy i rest.length with before | at_ | after
      · exact .inl (by rwa [List.getElem?_append_left before] at there)
      · subst at_
        exact .inr ⟨rfl, by simpa using there.symm⟩
      · rw [List.getElem?_eq_none (by simp; omega)] at there
        cases there
    show FirstHighest level floor (rest ++ [y]) (higher level best (y, 0 + rest.length))
    rw [Nat.zero_add, higher]
    dsimp only
    split
    · next above =>
      refine ⟨by dsimp only; omega, fun i z there => ?_, .inr ⟨y, by simp, rfl⟩⟩
      rcases last there with old | ⟨rfl, rfl⟩
      · have bound := (highest i z old).1
        exact ⟨by dsimp only; omega, fun _ => by dsimp only; omega⟩
      · exact ⟨Int.le_refl _, fun less => absurd less (Nat.lt_irrefl _)⟩
    · next below =>
      refine ⟨least, fun i z there => ?_, ?_⟩
      · rcases last there with old | ⟨rfl, rfl⟩
        · exact highest i z old
        · exact ⟨by omega, fun less => absurd less (by omega)⟩
      · refine held.imp_right ?_
        rintro ⟨z, there, level⟩
        exact ⟨z, by rw [List.getElem?_append_left (List.getElem?_eq_some_iff.1 there).1]; exact there, level⟩

theorem peak_firstHighest (sums : LocatorSums) : FirstHighest (fun item : Int × Nat => peakLevel item.1 item.2 sums.probe)
    (-70) (List.zip sums.correlation sums.reference) sums.peak := firstHighest_foldl _ _ _

theorem locate_eq (play : Play) (near : Nat) (reference : List Sample) (lineIn probe : Sample) :
    play.locate near reference lineIn probe = { play with locator := play.locator.map fun l => { l with epoch :=
      ⟨l.epoch.correlation.mapIdx fun i c => c + lineIn * reference.getD (near + i) 0,
       l.epoch.reference.mapIdx fun i x => x + (reference.getD (near + i) 0).natAbs ^ 2,
       l.epoch.line + lineIn.natAbs ^ 2, l.epoch.probe + probe.natAbs ^ 2⟩ } } := by
  unfold Play.locate LocatorSums.add
  simp only [List.mapIdx_eq_zipIdx_map]

/-! ### The finding -/

/-- The start of the far window that a finding gives (R97). -/
def Channel.foundStart (c : Channel) (sums : LocatorSums) : Nat :=
  (max 0 (min 4800 ((c.profile.near + sums.peak.1 : Nat) - (c.profile.far / 4 : Nat) : Int))).toNat

/-- The far window that a finding gives (R97). -/
def State.foundWindow (s : State) (n : ChannelNo) (sums : LocatorSums) : FarWindow :=
  if s.config.farFloor ≤ sums.peak.2 then ⟨(s.chan n).foundStart sums, true⟩ else ⟨(s.chan n).window.start, false⟩

/-- The finding is the window that the channel has: the far taps stay (R97). -/
def State.confirms (s : State) (n : ChannelNo) (sums : LocatorSums) : Bool :=
  decide (s.config.farFloor ≤ sums.peak.2 ∧ (s.chan n).window.active = true
    ∧ (s.chan n).window.start = (s.chan n).foundStart sums)

/-- The far taps of a channel at 0. -/
def State.clearFar (s : State) (n : ChannelNo) : State := s.writeLive n .far (List.range (s.chan n).profile.far) fun _ => 0

theorem clearFar_eq (s : State) (n : ChannelNo) : ∃ taps, s.clearFar n = s.setTaps taps := ⟨_, rfl⟩

theorem applyFinding_eq (s : State) (n : ChannelNo) (sums : LocatorSums) : s.applyFinding n sums =
    (if s.confirms n sums then s else s.clearFar n).modChan n fun c => { c with window := s.foundWindow n sums } := by
  unfold State.applyFinding State.confirms State.foundWindow
  dsimp only
  by_cases reached : s.config.farFloor ≤ sums.peak.2
  · rw [if_pos reached, if_pos reached]
    refine congrArg (State.modChan · n _) (if_congr ?_ rfl rfl)
    rw [decide_eq_true_eq]
    exact ⟨fun h => ⟨reached, h⟩, fun h => h.2⟩
  · have refuted : ¬ decide (s.config.farFloor ≤ sums.peak.2 ∧ (s.chan n).window.active = true
        ∧ (s.chan n).window.start = (s.chan n).foundStart sums) = true := fun h => reached (of_decide_eq_true h).1
    rw [if_neg reached, if_neg reached, if_neg refuted]
    exact modChan_congr _ _ _ _ rfl

/-- What the finding leaves: the window, and the taps where the far taps do not stay. -/
theorem applyFinding_cases (s : State) (n : ChannelNo) (sums : LocatorSums) : ∃ taps,
    s.applyFinding n sums = (s.setTaps taps).modChan n (fun c => { c with window := s.foundWindow n sums })
      ∧ taps = if s.confirms n sums then s.pool.taps else (s.clearFar n).pool.taps := by
  rw [applyFinding_eq]
  obtain ⟨taps, cleared⟩ := clearFar_eq s n
  rw [cleared]
  split
  · exact ⟨_, rfl, rfl⟩
  · exact ⟨_, rfl, rfl⟩

/-! ### The end of a play -/

theorem modChan_of_eq {s : State} {n : ChannelNo} {f : Channel → Channel} (same : f (s.chan n) = s.chan n) :
    s.modChan n f = s := by
  have kept : s.channels.set n (s.chan n) = s.channels := Vector.set_getElem_self _
  rw [State.modChan, same, kept]

/-- The state that an end of play leaves before the grants (R95). -/
def State.playEnded (s : State) (k : PlayerNo) (play : Play) : State :=
  ((s.findOf play).setPlay k none).modChan play.channel Channel.settle

/-- The window that an end of play leaves its channel. -/
def State.windowOf (s : State) (play : Play) : FarWindow :=
  match play.locator with
  | some l => s.foundWindow play.channel l.takeEpoch.running
  | none => (s.chan play.channel).window

/-- The taps that an end of play leaves. -/
def State.tapsOf (s : State) (play : Play) : Memory :=
  match play.locator with
  | some l => if s.confirms play.channel l.takeEpoch.running then s.pool.taps else (s.clearFar play.channel).pool.taps
  | none => s.pool.taps

theorem findOf_eq (s : State) (play : Play) : s.findOf play =
    (s.setTaps (s.tapsOf play)).modChan play.channel fun c => { c with window := s.windowOf play } := by
  unfold State.findOf State.tapsOf State.windowOf
  cases play.locator with
  | none => exact (modChan_of_eq rfl).symm
  | some l =>
    obtain ⟨taps, found, written⟩ := applyFinding_cases s play.channel l.takeEpoch.running
    dsimp only
    rw [found, written]

theorem playEnded_chan (s : State) (k : PlayerNo) (play : Play) (m : ChannelNo) : (s.playEnded k play).chan m =
    if play.channel = m then
      { s.chan m with
        state := .training .settling, goodRun := 0, badRun := 0, player := none, window := s.windowOf play }
    else s.chan m := by
  rw [State.playEnded, chan_modChan, chan_setPlay, findOf_eq, chan_modChan]
  split <;> rfl

theorem playEnded_play (s : State) (k j : PlayerNo) (play : Play) :
    (s.playEnded k play).play j = if k = j then none else s.play j := by
  rw [State.playEnded, play_modChan, play_setPlay, findOf_eq]
  rfl

/-- What an end of play leaves beside channels, players and taps. -/
theorem playEnded_frame (s : State) (k : PlayerNo) (play : Play) : let u := s.playEnded k play
    s.Within u ∧ u.ports = s.ports ∧ u.probeQueue = s.probeQueue ∧ u.mover = s.mover ∧ u.cache = s.cache
      ∧ u.parkCounter = s.parkCounter ∧ u.pool.free = s.pool.free ∧ u.pool.taps = s.tapsOf play := by
  unfold State.playEnded
  rw [findOf_eq]
  exact ⟨⟨rfl, rfl, rfl, rfl, rfl, rfl, .of_ports rfl⟩, rfl, rfl, rfl, rfl, rfl, rfl, rfl⟩

theorem endOfPlay_eq {s : State} {k : PlayerNo} {play : Play} (holds : s.play k = some play) (ended : play.remaining = 0) :
    s.endOfPlay k = (s.playEnded k play).grants := endOfPlay_of_ended holds (beq_iff_eq.2 ended)

/-- Where one player alone is IDLE, the oldest channel takes it. -/
theorem grants_of_single {u : State} {k : PlayerNo} (single : ∀ j, u.play j = none ↔ j = k) {m : ChannelNo}
    {rest : List ChannelNo} (queue : u.probeQueue = m :: rest) :
    u.grants.play k = some (startPlay m (u.chan m).profile)
      ∧ u.grants.chan m = { (u.chan m).enter (.training .probing) with player := some k } := by
  have idle : u.idlePlayer = some k := by
    cases found : u.idlePlayer with
    | none => exact absurd ((single k).2 rfl) ((idlePlayer_eq_none_iff u).1 found k)
    | some j => rw [(single j).1 (idlePlayer_idle found)]
  have grant : u.grantOne = ((u.setProbeQueue rest).setPlay k (some (startPlay m (u.chan m).profile))).modChan m fun c =>
      { c.enter (.training .probing) with player := some k } := by
    unfold State.grantOne
    rw [queue, idle]
  have plays (j : PlayerNo) :
      u.grantOne.play j = if k = j then some (startPlay m (u.chan m).profile) else u.play j := by
    rw [grant, play_modChan, play_setPlay]
    rfl
  have busy : u.grantOne.idlePlayer = none := by
    refine (idlePlayer_eq_none_iff _).2 fun j => ?_
    rw [plays]
    split
    · exact Option.some_ne_none _
    · next other => exact fun none => other ((single j).1 none).symm
  have same : u.grants = u.grantOne := by
    rw [State.grants, grantOne_of_no_idle _ busy, grantOne_of_no_idle _ busy, grantOne_of_no_idle _ busy]
  rw [same, plays, if_pos rfl]
  refine ⟨rfl, ?_⟩
  rw [grant, chan_modChan_self]
  rfl

theorem grants_parkCounter (s : State) : s.grants.parkCounter = s.parkCounter := by
  have one (u : State) : u.grantOne.parkCounter = u.parkCounter := by
    unfold State.grantOne
    split <;> rfl
  rw [State.grants, one, one, one, one]

/-! ### The taps that an end of play leaves -/

theorem clearFar_outside {s : State} (wf : s.pool.taps.wf = true) (n : ChannelNo) {x : Nat} (outside : x / 32 ∉ (s.chan n).live) :
    (s.clearFar n).pool.taps.read x = s.pool.taps.read x :=
  read_writeLive_outside wf n .far (List.range (s.chan n).profile.far) (fun _ => 0) outside

theorem tapsOf_outside {s : State} (wf : s.pool.taps.wf = true) (play : Play) {x : Nat}
    (outside : x / 32 ∉ (s.chan play.channel).live) : (s.tapsOf play).read x = s.pool.taps.read x := by
  unfold State.tapsOf
  split
  · split
    · rfl
    · exact clearFar_outside wf play.channel outside
  · rfl

/-- The far taps at 0, and the taps of the other banks as they were. -/
theorem clearFar_taps {s : State} {n : ChannelNo} (h : s.LaidOut n) :
    (∀ i, i < (s.chan n).profile.far → (s.clearFar n).tap n .live .far i = 0)
      ∧ (∀ i, i < (s.chan n).profile.near → (s.clearFar n).tap n .live .near i = s.tap n .live .near i)
      ∧ ∀ j, j < (s.chan n).profile.eq → (s.clearFar n).tap n .live .equal j = s.tap n .live .equal j := by
  have range : ∀ i ∈ List.range (s.chan n).profile.far, i < (s.chan n).profile.far := fun _ hi => List.mem_range.1 hi
  refine ⟨fun i hi => ?_, fun i hi => ?_, fun j hj => ?_⟩
  · exact tap_writeLive_self (bank := .far) h (by decide) List.nodup_range range _ (List.mem_range.2 hi)
  · exact tap_writeLive_of_other (bank := .far) h (by decide) range _ (other := .near) (by decide) hi nofun
  · exact tap_writeLive_of_other (bank := .far) h (by decide) range _ (other := .equal) (by decide) hj nofun

/-- The live taps after an end of play with far taps, `t` having the layout of `s` and the taps of the end of play. -/
theorem tapsOf_taps {s t : State} {play : Play} {l : Locator} (locator : play.locator = some l)
    (h : s.LaidOut play.channel) (profile : (t.chan play.channel).profile = (s.chan play.channel).profile)
    (live : (t.chan play.channel).live = (s.chan play.channel).live) (taps : t.pool.taps = s.tapsOf play) :
    (∀ i, i < (s.chan play.channel).profile.far → t.tap play.channel .live .far i =
        if s.confirms play.channel l.takeEpoch.running = true then s.tap play.channel .live .far i else 0)
      ∧ (∀ i, i < (s.chan play.channel).profile.near → t.tap play.channel .live .near i = s.tap play.channel .live .near i)
      ∧ ∀ j, j < (s.chan play.channel).profile.eq → t.tap play.channel .live .equal j = s.tap play.channel .live .equal j := by
  rw [State.tapsOf, locator] at taps
  dsimp only at taps
  split at taps
  · next confirmed =>
    have same := tap_congr profile live taps
    exact ⟨fun i _ => (same .far i).trans (if_pos confirmed).symm, fun i _ => same .near i, fun j _ => same .equal j⟩
  · next refuted =>
    have same := tap_congr (s := s.clearFar play.channel) profile live taps
    obtain ⟨far, near, equal⟩ := clearFar_taps h
    exact ⟨fun i hi => ((same .far i).trans (far i hi)).trans (if_neg refuted).symm,
      fun i hi => (same .near i).trans (near i hi), fun j hj => (same .equal j).trans (equal j hj)⟩

/-- Settles O31: the locator's sums and peak, and the end of play as `playEnded_chan` and `playEnded_frame` give it, followed
by the grants. -/
theorem endOfPlaySettles : Obligations.EndOfPlaySettles := by
  refine ⟨fun n profile => rfl, locate_eq, fun l => ⟨rfl, rfl⟩, peakLevel_eq, fun sums => ?_, ?_⟩
  · intro found
    refine ⟨fun i c x hc hx => (peak_firstHighest sums).highest i (c, x) (List.getElem?_zip_eq_some.2 ⟨hc, hx⟩), ?_⟩
    refine (peak_firstHighest sums).held.imp_right ?_
    rintro ⟨⟨c, x⟩, there, level⟩
    obtain ⟨hc, hx⟩ := List.getElem?_zip_eq_some.1 there
    exact ⟨c, x, hc, hx, level⟩
  · intro s k play holds ended
    have record := playEnded_chan s k play
    have plays (j : PlayerNo) := playEnded_play s k j play
    obtain ⟨within, ports, queue, mover, cache, counter, free, taps⟩ := playEnded_frame s k play
    rw [exec_endOfPlay, endOfPlay_eq holds ended]
    generalize s.playEnded k play = u at *
    have own := (record play.channel).trans (if_pos rfl)
    have layout : (u.chan play.channel).profile = (s.chan play.channel).profile
        ∧ (u.chan play.channel).live = (s.chan play.channel).live := by
      rw [own]
      exact ⟨rfl, rfl⟩
    have finalTaps : u.grants.pool.taps = s.tapsOf play := by rw [grants_pool, taps]
    refine ⟨u.grants, rfl, within.trans (grants_within u), fun out => ⟨s.windowOf play, ?_, fun none => ?_, fun l some => ?_⟩,
      fun m ne => ?_, fun empty => ?_, fun m rest waiting busy => ?_, by rw [grants_ports, ports], by rw [grants_pool, free],
      by rw [grants_mover, mover], by rw [grants_cache, cache], ?_, fun none => ?_, fun x wf outside => ?_,
      fun l some wf nodup length => ?_⟩
    · rw [(grants_chan_of_not_queued u (by rw [queue]; exact out)).1, own]
    · rw [State.windowOf, none]
    · rw [State.windowOf, some]
      rfl
    · have granted := grants_chan u m
      rw [record, if_neg (Ne.symm ne)] at granted
      exact granted
    · rw [grants_of_empty u (queue.trans empty), plays, if_pos rfl]
    · have single (j : PlayerNo) : u.play j = Option.none ↔ j = k := by
        rw [plays]
        split
        · next same => exact iff_of_true rfl same.symm
        · next other => exact iff_of_false ((idlePlayer_eq_none_iff s).1 busy j) (Ne.symm other)
      obtain ⟨started, granted⟩ := grants_of_single single (queue.trans waiting)
      have profile : (u.chan m).profile = (s.chan m).profile := by
        rw [record]
        split <;> rfl
      rw [started, granted, profile]
      exact ⟨rfl, rfl, rfl⟩
    · rw [grants_parkCounter, counter]
    · rw [finalTaps, State.tapsOf, none]
    · rw [finalTaps]
      exact tapsOf_outside wf play outside
    · obtain ⟨profile, live⟩ := (grants_chan u play.channel).layout
      obtain ⟨far, others⟩ := tapsOf_taps some ⟨wf, nodup, length⟩ (profile.trans layout.1) (live.trans layout.2) finalTaps
      refine ⟨fun i hi => (far i hi).trans (if_congr ?_ rfl rfl), others⟩
      rw [State.confirms, decide_eq_true_eq]
      rfl

end Sys2Proof.Machine

/-! The arithmetic of an update (R67): rounded division, and the correction of pairs of samples. -/

namespace Sys2Proof.Machine

/-! ### Rounded division -/

/-- A quotient of naturals rounded half up. -/
theorem halfUp_bounds (m : Nat) {b : Nat} (pos : 0 < b) :
    2 * ((2 * m + b) / (2 * b)) * b ≤ 2 * m + b ∧ 2 * m < 2 * ((2 * m + b) / (2 * b)) * b + b := by
  have split := Nat.div_add_mod (2 * m + b) (2 * b)
  have bound := Nat.mod_lt (2 * m + b) (by omega : 0 < 2 * b)
  generalize (2 * m + b) / (2 * b) = q at *
  have assoc : 2 * b * q = 2 * q * b := by ring
  rw [assoc] at split
  omega

theorem roundDiv_bounds (a : Int) {b : Nat} (pos : 0 < b) :
    2 * (a - roundDiv a b * b).natAbs ≤ b
      ∧ (2 * (a - roundDiv a b * b).natAbs = b → a.natAbs ≤ (roundDiv a b).natAbs * b) := by
  obtain ⟨upper, lower⟩ := halfUp_bounds a.natAbs pos
  unfold roundDiv
  dsimp only
  generalize (2 * a.natAbs + b) / (2 * b) = q at *
  have product : 2 * q * b = 2 * (q * b) := Nat.mul_assoc 2 q b
  have cast : ((q * b : Nat) : Int) = (q : Int) * b := Nat.cast_mul q b
  rw [product] at upper lower
  split
  · next negative =>
    rw [Int.natAbs_neg, Int.natAbs_natCast, neg_mul, ← cast]
    generalize q * b = x at *
    omega
  · next positive =>
    rw [Int.natAbs_natCast, ← cast]
    generalize q * b = x at *
    omega

/-! ### The greatest number of so many bits -/

theorem largest_bounds (ok : Nat → Bool) (bits q : Nat) : q ≤ largest ok bits q ∧ largest ok bits q < q + 2 ^ bits := by
  induction bits generalizing q with
  | zero => exact ⟨Nat.le_refl _, Nat.lt_succ_self _⟩
  | succ bits ih =>
    rw [largest, Nat.pow_succ]
    split
    · have next := ih (q + 2 ^ bits)
      omega
    · have next := ih q
      omega

theorem largest_ok {ok : Nat → Bool} (bits : Nat) {q : Nat} (start : ok q = true) : ok (largest ok bits q) = true := by
  induction bits generalizing q with
  | zero => exact start
  | succ bits ih =>
    rw [largest]
    split
    · next more => exact ih more
    · exact ih start

/-- The number after the one found fails, unless the bits are spent. -/
theorem largest_next (ok : Nat → Bool) (bits q : Nat) :
    ok (largest ok bits q + 1) = false ∨ largest ok bits q + 1 = q + 2 ^ bits := by
  induction bits generalizing q with
  | zero => exact .inr rfl
  | succ bits ih =>
    rw [largest, Nat.pow_succ]
    split
    · rcases ih (q + 2 ^ bits) with fails | spent
      · exact .inl fails
      · exact .inr (by omega)
    · next fewer =>
      rcases ih q with fails | spent
      · exact .inl fails
      · rw [spent]
        exact .inl (Bool.eq_false_iff.2 fewer)

/-! ### The correction of pairs -/

/-- The inequality of Cauchy and Schwarz for a list of pairs. -/
theorem sum_mul_sq_le (pairs : List (Int × Int)) :
    ((pairs.map fun p => p.1 * p.2).sum) ^ 2 ≤ (pairs.map fun p => p.1 ^ 2).sum * (pairs.map fun p => p.2 ^ 2).sum := by
  induction pairs with
  | nil => exact Int.le_refl 0
  | cons p rest ih =>
    simp only [List.map_cons, List.sum_cons]
    have square (f : Int × Int → Int) : 0 ≤ (rest.map fun p => f p ^ 2).sum :=
      List.sum_nonneg fun _ hx => by
        obtain ⟨_, -, rfl⟩ := List.mem_map.1 hx
        exact sq_nonneg _
    have nonnegA := square Prod.fst
    have nonnegB := square Prod.snd
    generalize (rest.map fun p => p.1 * p.2).sum = c at *
    generalize (rest.map fun p => p.1 ^ 2).sum = a at *
    generalize (rest.map fun p => p.2 ^ 2).sum = b at *
    have cross : 2 * (c * (p.1 * p.2)) ≤ a * p.2 ^ 2 + b * p.1 ^ 2 := by
      refine (le_abs_self _).trans (abs_le_of_sq_le_sq ?_ (by positivity))
      have scaled := mul_le_mul_of_nonneg_right ih (sq_nonneg (p.1 * p.2))
      nlinarith [sq_nonneg (a * p.2 ^ 2 - b * p.1 ^ 2)]
    nlinarith [cross]

theorem foldl_add_eq_sum {α : Type} (f : α → Int) (items : List α) (start : Int) :
    items.foldl (fun acc a => acc + f a) start = start + (items.map f).sum := by
  induction items generalizing start with
  | nil => simp
  | cons a rest ih => rw [List.foldl_cons, ih, List.map_cons, List.sum_cons, add_assoc]

theorem foldl_natAbs_eq_sum {α : Type} (f : α → Int) (items : List α) (start : Nat) :
    ((items.foldl (fun acc a => acc + (f a).natAbs ^ 2) start : Nat) : Int) = start + (items.map fun a => f a ^ 2).sum := by
  induction items generalizing start with
  | nil => simp
  | cons a rest ih => rw [List.foldl_cons, ih, List.map_cons, List.sum_cons, Nat.cast_add, Nat.cast_pow, Int.natAbs_sq, add_assoc]

theorem correctionOf_zero (c : Int) {a b : Nat} (zero : a * b = 0) : correctionOf c a b = 0 := if_pos zero

/-- Whether `q` does not exceed the rounded quotient of R67, `n` and `m` being the squares' roots of numerator and denominator. -/
def withinQuotient (n m q : Nat) : Bool := decide ((2 * q - 1) ^ 2 * m ≤ 4 * n ^ 2)

/-- The magnitude of a correction, where neither energy is 0. -/
theorem correctionOf_some {c : Int} {a b : Nat} (some : a * b ≠ 0) :
    ∃ q : Nat, correctionOf c a b = (if c < 0 then -(q : Int) else q) ∧ q ≤ 32767
      ∧ (2 * q - 1) ^ 2 * (a * b) ≤ 4 * (32767 * c.natAbs) ^ 2
      ∧ (q = 32767 ∨ 4 * (32767 * c.natAbs) ^ 2 < (2 * q + 1) ^ 2 * (a * b)) := by
  have bounds := largest_bounds (withinQuotient (32767 * c.natAbs) (a * b)) 15 0
  have fits := largest_ok (ok := withinQuotient (32767 * c.natAbs) (a * b)) 15 (q := 0) (by simp [withinQuotient])
  have beyond := largest_next (withinQuotient (32767 * c.natAbs) (a * b)) 15 0
  have eq : correctionOf c a b = if c < 0 then -(largest (withinQuotient (32767 * c.natAbs) (a * b)) 15 0 : Int)
      else largest (withinQuotient (32767 * c.natAbs) (a * b)) 15 0 := if_neg some
  generalize largest (withinQuotient (32767 * c.natAbs) (a * b)) 15 0 = q at *
  refine ⟨q, eq, by omega, of_decide_eq_true fits, ?_⟩
  rcases beyond with fails | spent
  · refine .inr ?_
    rw [withinQuotient, decide_eq_false_iff_not, Nat.not_le] at fails
    exact fails
  · exact .inl (by omega)

/-- The correction of pairs is the rounded quotient of R67. -/
theorem correctionOfPairs_bounds (pairs : List (Sample × Sample)) :
    let c := (pairs.map fun p => p.1 * p.2).sum
    let ab := (pairs.map fun p => p.1 ^ 2).sum * (pairs.map fun p => p.2 ^ 2).sum
    let q := correctionOfPairs pairs
    (ab = 0 → q = 0)
      ∧ (ab ≠ 0 → (0 ≤ c → 0 ≤ q) ∧ (c ≤ 0 → q ≤ 0) ∧ q.natAbs ≤ 32767
        ∧ 4 * (32767 * c) ^ 2 < (2 * q.natAbs + 1) ^ 2 * ab
        ∧ (q ≠ 0 → (2 * q.natAbs - 1) ^ 2 * ab ≤ 4 * (32767 * c) ^ 2)) := by
  have schwarz := sum_mul_sq_le pairs
  have energyA := foldl_natAbs_eq_sum (fun p : Sample × Sample => p.1) pairs 0
  have energyB := foldl_natAbs_eq_sum (fun p : Sample × Sample => p.2) pairs 0
  have product := foldl_add_eq_sum (fun p : Sample × Sample => p.1 * p.2) pairs 0
  rw [Nat.cast_zero, zero_add] at energyA energyB
  rw [zero_add] at product
  dsimp only
  unfold correctionOfPairs
  rw [← energyA, ← energyB] at schwarz
  rw [product, ← energyA, ← energyB]
  generalize (pairs.map fun p => p.1 * p.2).sum = c at *
  generalize pairs.foldl (fun acc p => acc + p.1.natAbs ^ 2) 0 = a at *
  generalize pairs.foldl (fun acc p => acc + p.2.natAbs ^ 2) 0 = b at *
  refine ⟨fun zero => correctionOf_zero c (by exact_mod_cast zero), fun some => ?_⟩
  have nonzero : a * b ≠ 0 := by exact_mod_cast some
  have positive : 0 < a * b := Nat.pos_of_ne_zero nonzero
  obtain ⟨q, eq, bound, lower, upper⟩ := correctionOf_some (c := c) nonzero
  have square : ((32767 * c.natAbs : Nat) : Int) ^ 2 = (32767 * c) ^ 2 := by
    rw [Nat.cast_mul, mul_pow, mul_pow, Int.natCast_natAbs, sq_abs]
    rfl
  have magnitude : (if c < 0 then -(q : Int) else q).natAbs = q := by split <;> simp
  rw [eq, magnitude]
  refine ⟨fun nonneg => ?_, fun nonpos => ?_, bound, ?_, fun moved => ?_⟩
  · rw [if_neg (not_lt.2 nonneg)]
    exact Int.natCast_nonneg q
  · split
    · exact Int.neg_nonpos_of_nonneg (Int.natCast_nonneg q)
    · next nonneg =>
      have zero : c = 0 := le_antisymm nonpos (not_lt.1 nonneg)
      rw [zero, Int.natAbs_zero, Nat.mul_zero] at lower
      have none : (2 * q - 1) ^ 2 = 0 := (Nat.mul_eq_zero.1 (Nat.eq_zero_of_le_zero lower)).resolve_right nonzero
      have small : 2 * q - 1 = 0 := (pow_eq_zero_iff two_ne_zero).1 none
      omega
  · rw [← square]
    rcases upper with rfl | upper
    · have scaled : ((32767 * c.natAbs : Nat) : Int) ^ 2 ≤ 32767 ^ 2 * ((a : Int) * b) := by
        rw [square, mul_pow]
        exact mul_le_mul_of_nonneg_left schwarz (by norm_num)
      have pos : (0 : Int) < (a : Int) * b := by exact_mod_cast positive
      push_cast at scaled ⊢
      linarith
    · exact_mod_cast upper
  · rw [← square]
    have some : q ≠ 0 := fun zero => moved (by rw [zero]; simp)
    have cast : ((2 * q - 1 : Nat) : Int) = 2 * (q : Int) - 1 := by omega
    rw [← cast]
    exact_mod_cast lower

end Sys2Proof.Machine

/-! The update epoch of a channel (R61 steps 4 to 6, R63, R67, R68, R73, R74). -/

namespace Sys2Proof.Machine

theorem countEpoch_eq (guard₀ : Option Nat) (c : Channel) : c.countEpoch guard₀ = { c with
    trainingEpochs := if c.state = .training .probing ∨ c.state = .training .settling then min 3000 (c.trainingEpochs + 1)
      else c.trainingEpochs
    proving := if c.state = .tracking then c.proving.map fun k => k - 1 else c.proving
    guard := if c.state = .tracking ∧ c.guard = guard₀ then c.guard.bind fun k => if k ≤ 1 then none else some (k - 1)
      else c.guard } := by
  have guard : countGuard c.guard = c.guard.bind fun k => if k ≤ 1 then none else some (k - 1) := by
    cases c.guard with
    | none => rfl
    | some k => rfl
  have trains (state : c.state = .training .probing ∨ c.state = .training .settling) : c.state ≠ .tracking := by
    rcases state with h | h <;> rw [h] <;> decide
  have other (rests : ¬ (c.state = .training .probing ∨ c.state = .training .settling)) (untracked : c.state ≠ .tracking) :
      c = { c with
        trainingEpochs := if c.state = .training .probing ∨ c.state = .training .settling then min 3000 (c.trainingEpochs + 1)
          else c.trainingEpochs
        proving := if c.state = .tracking then c.proving.map fun k => k - 1 else c.proving
        guard := if c.state = .tracking ∧ c.guard = guard₀ then countGuard c.guard else c.guard } := by
    rw [if_neg rests, if_neg untracked, if_neg fun h => untracked h.1]
  rw [← guard]
  unfold Channel.countEpoch
  split
  · next h => rw [if_pos (.inl h), if_neg (trains (.inl h)), if_neg fun both => trains (.inl h) both.1]
  · next h => rw [if_pos (.inr h), if_neg (trains (.inr h)), if_neg fun both => trains (.inr h) both.1]
  · next h =>
    have same : (c.state = .tracking ∧ c.guard = guard₀) ↔ c.guard = guard₀ := and_iff_right h
    rw [if_neg fun state => trains state h, if_pos h, if_congr same rfl rfl]
  all_goals next h => exact other (by rw [h]; decide) (by rw [h]; decide)

theorem moveRuns_eq (threshold figure : Int) (good bad : Nat) : moveRuns threshold figure good bad =
    (if threshold ≤ figure then min 255 (good + 1) else 0, if figure < threshold - 9 then min 255 (bad + 1) else 0) := by
  unfold moveRuns
  by_cases high : threshold ≤ figure
  · rw [if_pos high, if_pos high, if_neg (by omega)]
  · rw [if_neg high, if_neg high]
    by_cases kept : threshold - 9 ≤ figure
    · rw [if_pos kept, if_neg (by omega)]
    · rw [if_neg kept, if_pos (by omega)]

theorem stepExponent_eq (cfg : SharedConfig) (state : CallState) : stepExponent cfg state =
    if state = .training .probing ∨ state = .training .settling then cfg.fastStep else cfg.trackingStep := by
  cases state with
  | training phase => cases phase <;> rfl
  | _ => rfl

theorem updateEpoch_iff (s : State) (c₀ : Channel) (n : ChannelNo) : s.updateEpoch c₀ n = true ↔
    c₀.handed ≠ none ∧ c₀.marks.adapting = 80 ∧ c₀.freezeReasons s.config = ⟨false, false, false, false, false⟩
      ∧ s.adaptingNow n = true := by
  rw [State.updateEpoch, Bool.and_eq_true, Bool.and_eq_true, Bool.and_eq_true, Option.isSome_iff_ne_none, beq_iff_eq,
    beq_iff_eq, and_assoc, and_assoc]
  rfl

/-! ### The taps -/

/-- The taps of the near bank moved by their corrections. -/
def State.nearMoved (s : State) (n : ChannelNo) : State :=
  s.writeLive n .near (List.range (s.chan n).profile.near) fun i =>
    stepTap (s.tap n .live .near i) (correctionOfPairs ((s.chan n).referencePairs i)) (stepExponent s.config (s.chan n).state)

/-- The taps of the far bank in `u` moved by the corrections of `s`. -/
def State.farMoved (s u : State) (n : ChannelNo) : State :=
  u.writeLive n .far (List.range (s.chan n).profile.far) fun i =>
    stepTap (s.tap n .live .far i) (correctionOfPairs ((s.chan n).referencePairs ((s.chan n).window.start + i)))
      (stepExponent s.config (s.chan n).state)

/-- The places of the equalizer bank but for the centre. -/
def Profile.offCentre (p : Profile) : List Nat := (List.range p.eq).filter fun j => j ≠ p.eq / 2

/-- The taps of the equalizer bank in `u` but for the centre moved by the corrections of `s`. -/
def State.equalMoved (s u : State) (n : ChannelNo) : State :=
  u.writeLive n .equal (s.chan n).profile.offCentre fun j =>
    stepTap (s.tap n .live .equal j)
      (-(correctionOfPairs ((s.chan n).residualPairs ((j : Int) - ((s.chan n).profile.eq / 2 : Nat)).natAbs)))
      (stepExponent s.config (s.chan n).state)

theorem updateTaps_eq (s : State) (n : ChannelNo) : s.updateTaps n =
    s.equalMoved (if (s.chan n).window.active then s.farMoved (s.nearMoved n) n else s.nearMoved n) n := rfl

theorem nearMoved_eq (s : State) (n : ChannelNo) : ∃ taps, s.nearMoved n = s.setTaps taps := ⟨_, rfl⟩
theorem farMoved_eq (s u : State) (n : ChannelNo) : ∃ taps, s.farMoved u n = u.setTaps taps := ⟨_, rfl⟩
theorem equalMoved_eq (s u : State) (n : ChannelNo) : ∃ taps, s.equalMoved u n = u.setTaps taps := ⟨_, rfl⟩

theorem updateTaps_setTaps (s : State) (n : ChannelNo) : ∃ taps, s.updateTaps n = s.setTaps taps := by
  obtain ⟨near, first⟩ := nearMoved_eq s n
  obtain ⟨far, second⟩ := farMoved_eq s (s.nearMoved n) n
  rw [updateTaps_eq]
  split
  · obtain ⟨equal, third⟩ := equalMoved_eq s (s.farMoved (s.nearMoved n) n) n
    exact ⟨equal, by rw [third, second, first]; rfl⟩
  · obtain ⟨equal, third⟩ := equalMoved_eq s (s.nearMoved n) n
    exact ⟨equal, by rw [third, first]; rfl⟩

theorem updateTaps_outside {s : State} (wf : s.pool.taps.wf = true) (n : ChannelNo) {x : Nat}
    (outside : x / 32 ∉ (s.chan n).live) : (s.updateTaps n).pool.taps.read x = s.pool.taps.read x := by
  have near : (s.nearMoved n).pool.taps.read x = s.pool.taps.read x := read_writeLive_outside wf n .near _ _ outside
  have nearWf : (s.nearMoved n).pool.taps.wf = true := writeLive_canonical wf n .near _ _
  have nearChan : (s.nearMoved n).chan n = s.chan n := rfl
  have farWf : (s.farMoved (s.nearMoved n) n).pool.taps.wf = true := writeLive_canonical nearWf n .far _ _
  have farChan : (s.farMoved (s.nearMoved n) n).chan n = s.chan n := rfl
  rw [updateTaps_eq]
  split
  · exact (read_writeLive_outside farWf n .equal _ _ (by rw [farChan]; exact outside)).trans
      ((read_writeLive_outside nearWf n .far _ _ (by rw [nearChan]; exact outside)).trans near)
  · exact (read_writeLive_outside nearWf n .equal _ _ (by rw [nearChan]; exact outside)).trans near

/-- A live tap of a bank and place, moved by a correction (R67). -/
def State.movedTap (s : State) (n : ChannelNo) (bank : Bank) (i : Nat) (correction : Int) : Tap :=
  stepTap (s.tap n .live bank i) correction (stepExponent s.config (s.chan n).state)

/-- The live taps after the update, bank by bank. -/
structure State.Updated (s t : State) (n : ChannelNo) : Prop where
  near : ∀ i, i < (s.chan n).profile.near → t.tap n .live .near i =
    s.movedTap n .near i (correctionOfPairs ((s.chan n).referencePairs i))
  far : ∀ i, i < (s.chan n).profile.far → t.tap n .live .far i =
    if (s.chan n).window.active then
      s.movedTap n .far i (correctionOfPairs ((s.chan n).referencePairs ((s.chan n).window.start + i)))
    else s.tap n .live .far i
  equal : ∀ j, j < (s.chan n).profile.eq → t.tap n .live .equal j =
    if j = (s.chan n).profile.eq / 2 then s.tap n .live .equal j
    else s.movedTap n .equal j
      (-(correctionOfPairs ((s.chan n).residualPairs ((j : Int) - ((s.chan n).profile.eq / 2 : Nat)).natAbs)))

section Updated

variable {s u : State} {n : ChannelNo}

theorem mem_range_lt {k : Nat} : ∀ i ∈ List.range k, i < k := fun _ hi => List.mem_range.1 hi

theorem mem_offCentre {p : Profile} {j : Nat} : j ∈ p.offCentre ↔ j < p.eq ∧ j ≠ p.eq / 2 := by
  rw [Profile.offCentre, List.mem_filter, List.mem_range, decide_eq_true_eq]

/-- The move of the equalizer taps after the other banks have moved, `u` being the state with these. -/
theorem equalMoved_updated (laid : u.LaidOut n) (same : u.chan n = s.chan n)
    (near : ∀ i, i < (s.chan n).profile.near → u.tap n .live .near i =
      s.movedTap n .near i (correctionOfPairs ((s.chan n).referencePairs i)))
    (far : ∀ i, i < (s.chan n).profile.far → u.tap n .live .far i =
      if (s.chan n).window.active then
        s.movedTap n .far i (correctionOfPairs ((s.chan n).referencePairs ((s.chan n).window.start + i)))
      else s.tap n .live .far i)
    (equal : ∀ j, j < (s.chan n).profile.eq → u.tap n .live .equal j = s.tap n .live .equal j) :
    s.Updated (s.equalMoved u n) n := by
  have inBank : ∀ j ∈ (s.chan n).profile.offCentre, j < (u.chan n).profile.bankTaps .equal := fun j hj => by
    rw [same]
    exact (mem_offCentre.1 hj).1
  refine ⟨fun i hi => ?_, fun i hi => ?_, fun j hj => ?_⟩
  · exact (tap_writeLive_of_other (bank := .equal) laid (by decide) inBank _ (other := .near) (by decide)
      (by rw [same]; exact hi) nofun).trans (near i hi)
  · exact (tap_writeLive_of_other (bank := .equal) laid (by decide) inBank _ (other := .far) (by decide)
      (by rw [same]; exact hi) nofun).trans (far i hi)
  · split
    · next centre =>
      exact (tap_writeLive_of_other (bank := .equal) laid (by decide) inBank _ (other := .equal) (by decide)
        (by rw [same]; exact hj) fun _ held => (mem_offCentre.1 held).2 centre).trans (equal j hj)
    · next off =>
      exact tap_writeLive_self (bank := .equal) laid (by decide) (List.nodup_range.filter _) inBank _
        (mem_offCentre.2 ⟨hj, off⟩)

theorem updateTaps_updated (h : s.LaidOut n) : s.Updated (s.updateTaps n) n := by
  have nearLaid : (s.nearMoved n).LaidOut n := h.writeLive .near _ _
  have farLaid : (s.farMoved (s.nearMoved n) n).LaidOut n := nearLaid.writeLive .far _ _
  have nearNear (i : Nat) (hi : i < (s.chan n).profile.near) : (s.nearMoved n).tap n .live .near i =
      s.movedTap n .near i (correctionOfPairs ((s.chan n).referencePairs i)) :=
    tap_writeLive_self (bank := .near) h (by decide) List.nodup_range mem_range_lt _ (List.mem_range.2 hi)
  have nearFar (i : Nat) (hi : i < (s.chan n).profile.far) : (s.nearMoved n).tap n .live .far i = s.tap n .live .far i :=
    tap_writeLive_of_other (bank := .near) h (by decide) mem_range_lt _ (other := .far) (by decide) hi nofun
  have nearEqual (j : Nat) (hj : j < (s.chan n).profile.eq) :
      (s.nearMoved n).tap n .live .equal j = s.tap n .live .equal j :=
    tap_writeLive_of_other (bank := .near) h (by decide) mem_range_lt _ (other := .equal) (by decide) hj nofun
  rw [updateTaps_eq]
  split
  · next active =>
    refine equalMoved_updated farLaid rfl (fun i hi => ?_) (fun i hi => ?_) fun j hj => ?_
    · exact (tap_writeLive_of_other (bank := .far) nearLaid (by decide) mem_range_lt _ (other := .near) (by decide) hi
        nofun).trans (nearNear i hi)
    · rw [if_pos active]
      exact tap_writeLive_self (bank := .far) nearLaid (by decide) List.nodup_range mem_range_lt _ (List.mem_range.2 hi)
    · exact (tap_writeLive_of_other (bank := .far) nearLaid (by decide) mem_range_lt _ (other := .equal) (by decide) hj
        nofun).trans (nearEqual j hj)
  · next inactive =>
    refine equalMoved_updated nearLaid rfl nearNear (fun i hi => ?_) nearEqual
    rw [if_neg inactive]
    exact nearFar i hi

end Updated

/-! ### The budget and the run counters -/

/-- A MANUAL channel spends one of its budget (R73). -/
def Channel.spend (c : Channel) : Channel :=
  { c with budget := if c.policy.mode = .manual then c.budget - 1 else c.budget }

/-- What the spending of the budget leaves (R73). -/
theorem spendBudget_cases (s : State) (n : ChannelNo) : ∃ ports,
    s.spendBudget n = { s.modChan n Channel.spend with ports := ports }
      ∧ (((s.chan n).policy.mode ≠ .manual ∨ (s.chan n).budget ≠ 1) → ports = s.ports)
      ∧ ∀ p, (s.chan n).policy.mode = .manual → (s.chan n).budget = 1 → (s.chan n).lessee = some p →
        (s.port p).joined = true → (({ s with ports := ports } : State).port p).Told ⟨.budgetSpent, some n, []⟩ := by
  unfold State.spendBudget
  dsimp only
  by_cases manual : (s.chan n).policy.mode = .manual
  · have spent : s.modChan n Channel.spend = s.modChan n fun c => { c with budget := c.budget - 1 } :=
      modChan_congr _ _ _ _ (by rw [Channel.spend, if_pos manual])
    rw [if_pos manual, spent]
    by_cases last : (s.chan n).budget = 1
    · rw [if_pos last]
      obtain ⟨ports, told⟩ := notifyLessee_eq (s.modChan n fun c => { c with budget := c.budget - 1 }) (s.chan n).lessee
        ⟨.budgetSpent, some n, []⟩
      refine ⟨ports, told, fun other => absurd other (by simp [manual, last]), fun p _ _ lessee joined => ?_⟩
      have heard := told_notifyLessee (s := s.modChan n fun c => { c with budget := c.budget - 1 }) (p := p) joined
        ⟨.budgetSpent, some n, []⟩
      rw [← lessee, told] at heard
      exact heard
    · rw [if_neg last]
      exact ⟨s.ports, rfl, fun _ => rfl, fun p _ spent => absurd spent last⟩
  · rw [if_neg manual]
    have kept : s.modChan n Channel.spend = s := modChan_of_eq (by rw [Channel.spend, if_neg manual])
    rw [kept]
    exact ⟨s.ports, rfl, fun _ => rfl, fun p auto => absurd auto manual⟩

/-! ### The update epoch -/

/-- The record that an update epoch leaves (R73, R74). -/
def Channel.adapted (threshold : Int) (c : Channel) : Channel :=
  { c with
    budget := if c.policy.mode = .manual then c.budget - 1 else c.budget
    goodRun := if threshold ≤ c.figure then min 255 (c.goodRun + 1) else 0
    badRun := if c.figure < threshold - 9 then min 255 (c.badRun + 1) else 0 }

/-- An update epoch changes taps, the channel's record and the lessee's notices. -/
theorem adaptChannel_of_update {s : State} {c₀ : Channel} {n : ChannelNo} (update : s.updateEpoch c₀ n = true) :
    ∃ ports, s.adaptChannel c₀ n =
        { (s.updateTaps n).modChan n (Channel.adapted s.config.convergence) with ports := ports }
      ∧ (((s.chan n).policy.mode ≠ .manual ∨ (s.chan n).budget ≠ 1) → ports = s.ports)
      ∧ ∀ p, (s.chan n).policy.mode = .manual → (s.chan n).budget = 1 → (s.chan n).lessee = some p →
        (s.port p).joined = true → (({ s with ports := ports } : State).port p).Told ⟨.budgetSpent, some n, []⟩ := by
  obtain ⟨taps, updated⟩ := updateTaps_setTaps s n
  obtain ⟨ports, spent, same, told⟩ := spendBudget_cases (s.setTaps taps) n
  have counted (c : Channel) : c.spend.countRuns s.config.convergence c.spend.figure = c.adapted s.config.convergence := by
    rw [Channel.countRuns, moveRuns_eq]
    rfl
  refine ⟨ports, ?_, same, told⟩
  rw [State.adaptChannel, if_pos update, updated, spent]
  have twice := modChan_modChan (s.setTaps taps) n Channel.spend (fun c => c.countRuns s.config.convergence c.figure)
  have record := modChan_congr (s.setTaps taps) n (fun c => c.spend.countRuns s.config.convergence c.spend.figure)
    (Channel.adapted s.config.convergence) (counted ((s.setTaps taps).chan n))
  exact congrArg (fun u : State => { u with ports := ports }) (twice.trans record)

/-- Settles O33: the arithmetic (`roundDiv_bounds`, `correctionOfPairs_bounds`), the counts (`countEpoch_eq`), and the update
epoch as `adaptChannel_of_update` and `updateTaps_updated` give it. -/
theorem updateEpochActs : Obligations.UpdateEpochActs := by
  refine ⟨fun a b pos => roundDiv_bounds a pos, correctionOfPairs_bounds, countEpoch_eq, fun s c₀ n => ?_⟩
  intro c manual t
  refine ⟨updateEpoch_iff s c₀ n, fun still => if_neg (by rw [still]; exact Bool.false_ne_true), fun update => ?_⟩
  obtain ⟨ports, adapted, same, told⟩ := adaptChannel_of_update update
  obtain ⟨taps, updated⟩ := updateTaps_setTaps s n
  have outside (wf : s.pool.taps.wf = true) (x : Nat) (out : x / 32 ∉ (s.chan n).live) := updateTaps_outside wf n out
  have moved (laid : s.LaidOut n) := updateTaps_updated laid
  have is_manual : manual = true ↔ c.policy.mode = .manual := decide_eq_true_iff
  have record (m : ChannelNo) : t.chan m = if n = m then (s.chan m).adapted s.config.convergence else s.chan m := by
    rw [show t = _ from adapted, updated]
    exact chan_modChan (s.setTaps taps) n m _
  have own := (record n).trans (if_pos rfl)
  have pool : t.pool = (s.updateTaps n).pool := by rw [show t = _ from adapted]; rfl
  have frame : t.ports = ports ∧ t.pool.free = s.pool.free ∧ t.mover = s.mover ∧ t.players = s.players
      ∧ t.probeQueue = s.probeQueue := by
    rw [show t = _ from adapted, updated]
    exact ⟨rfl, rfl, rfl, rfl, rfl⟩
  clear_value t
  obtain ⟨heard, frame⟩ := frame
  refine ⟨?_, fun p spends last lessee joined => ?_, fun keeps => ?_, fun m ne => ?_, fun wf x out => ?_,
    fun wf nodup length => ?_, frame⟩
  · rw [own, Channel.adapted, if_congr is_manual rfl rfl]
  · have notice := told p (is_manual.1 spends) last lessee joined
    simp only [State.port, heard] at notice ⊢
    exact notice
  · rw [heard]
    exact same (keeps.imp_left fun no yes => by rw [is_manual.2 yes] at no; cases no)
  · rw [record, if_neg (Ne.symm ne)]
  · rw [pool]
    exact outside wf x out
  · obtain ⟨near, far, equal⟩ := moved ⟨wf, nodup, length⟩
    have layout := tap_congr (s := s.updateTaps n) (t := t) (n := n) (by rw [own, updated]; rfl) (by rw [own, updated]; rfl)
      (congrArg Pool.taps pool)
    simp only [State.movedTap, stepExponent_eq] at near far equal
    refine ⟨fun i hi => (layout .near i).trans (near i hi), fun i hi => (layout .far i).trans (far i hi),
      fun j hj => (layout .equal j).trans (equal j hj)⟩

end Sys2Proof.Machine

/-! The LOCKED frame (R28 to R30, R37): what it forms for one channel, and that the channels' parts of it do not disturb one
another. -/

namespace Sys2Proof.Machine

/-! ### Histories -/

theorem trimZeros_getD (history : List Sample) (i : Nat) : (trimZeros history).getD i 0 = history.getD i 0 := by
  induction history generalizing i with
  | nil => rfl
  | cons x rest ih =>
    unfold trimZeros
    split
    · next empty =>
      have zeros (j : Nat) : rest.getD j 0 = 0 := by rw [← ih, empty]; rfl
      split
      · next zero =>
        cases i with
        | zero => exact zero.symm
        | succ j => exact (zeros j).symm
      · cases i with
        | zero => rfl
        | succ j => exact (zeros j).symm
    · next y older kept =>
      cases i with
      | zero => rfl
      | succ j =>
        have next := ih j
        rw [kept] at next
        exact next

theorem pushSample_getD (limit : Nat) (x : Sample) (history : List Sample) (i : Nat) :
    (pushSample limit x history).getD i 0 = if i < limit then (x :: history).getD i 0 else 0 := by
  rw [pushSample, trimZeros_getD]
  simp only [List.getD_eq_getElem?_getD, List.getElem?_take]
  split <;> rfl

/-! ### One channel's part -/

/-- The player that plays a code for the channel in this frame, with what it holds (R94). -/
def State.playingOf (s : State) (n : ChannelNo) : Option (PlayerNo × Play) := (s.playerOf n).filter fun x => !x.2.paused

/-- The sample that the frame sends to the line (R30). -/
def State.sourceOf (s : State) (n : ChannelNo) (pumpIn : Sample) : Sample := (s.playingOf n).elim pumpIn fun x => x.2.playCode.1

/-- The reference history with the frame's own sample. -/
def State.referenceOf (s : State) (n : ChannelNo) (pumpIn : Sample) : List Sample :=
  pushSample 5440 (s.sourceOf n pumpIn) (s.chan n).reference

/-- What the frame forms for the channel. -/
def State.formedOf (s : State) (n : ChannelNo) (lineIn pumpIn : Sample) : Formed := s.form n (s.referenceOf n pumpIn) lineIn

/-- The record that the frame leaves of the channel. -/
def State.framedOf (s : State) (n : ChannelNo) (lineIn pumpIn : Sample) : Channel :=
  { s.chan n with
    reference := s.referenceOf n pumpIn, residuals := (s.formedOf n lineIn pumpIn).residuals
    sums := (s.chan n).sums.add lineIn (s.formedOf n lineIn pumpIn).estimate (s.formedOf n lineIn pumpIn).residual
    marks := { (s.chan n).marks with
      adapting := (s.chan n).marks.adapting + boolCode (s.adaptingNow n)
      paused := (s.chan n).marks.paused || s.foundPaused n } }

/-- A play that plays one code in the frame (R94, R96). -/
def State.playedOf (s : State) (n : ChannelNo) (lineIn pumpIn : Sample) (play : Play) : Play :=
  play.playCode.2.locate (s.chan n).profile.near (s.referenceOf n pumpIn) lineIn play.playCode.1

/-- The players after the channel's part of the frame. -/
def State.playersOf (s : State) (n : ChannelNo) (lineIn pumpIn : Sample) : State :=
  match s.playingOf n with
  | some (k, play) => s.setPlay k (some (s.playedOf n lineIn pumpIn play))
  | none => s

theorem frameCall_eq (s : State) (n : ChannelNo) (lineIn pumpIn : Sample) : s.frameCall n lineIn pumpIn =
    ((s.playersOf n lineIn pumpIn).modChan n fun _ => s.framedOf n lineIn pumpIn).putSlots n (s.sourceOf n pumpIn)
      (s.formedOf n lineIn pumpIn).pumpOut := by
  have source : ((s.probeOf n).map fun x => x.2.1).getD pumpIn = s.sourceOf n pumpIn := by
    rw [probeOf_eq, State.sourceOf, State.playingOf]
    cases (s.playerOf n).filter fun x => !x.2.paused with
    | none => rfl
    | some x => rfl
  unfold State.frameCall
  dsimp only
  rw [source, probeOf_eq]
  unfold State.playersOf State.framedOf State.formedOf State.playedOf State.referenceOf State.playingOf
  cases (s.playerOf n).filter fun x => !x.2.paused with
  | none => exact congrArg (State.putSlots · n _ _) (modChan_congr _ _ _ _ rfl)
  | some x => exact congrArg (State.putSlots · n _ _) (modChan_congr _ _ _ _ rfl)

theorem lineOut_putSlots (s : State) (n m : ChannelNo) (lineOut pumpOut : Sample) :
    (s.putSlots n lineOut pumpOut).highway.lineOut.get m = if n = m then lineOut else s.highway.lineOut.get m := by
  by_cases own : n = m
  · subst own
    rw [if_pos rfl]
    exact vector_get_set_self s.highway.lineOut n lineOut
  · rw [if_neg own]
    exact vector_get_set_of_ne s.highway.lineOut lineOut own

theorem pumpOut_putSlots (s : State) (n m : ChannelNo) (lineOut pumpOut : Sample) :
    (s.putSlots n lineOut pumpOut).highway.pumpOut.get m = if n = m then pumpOut else s.highway.pumpOut.get m := by
  by_cases own : n = m
  · subst own
    rw [if_pos rfl]
    exact vector_get_set_self s.highway.pumpOut n pumpOut
  · rw [if_neg own]
    exact vector_get_set_of_ne s.highway.pumpOut pumpOut own

/-- The players leave the rest as it was. -/
theorem playersOf_eq (s : State) (n : ChannelNo) (lineIn pumpIn : Sample) :
    ∃ players, s.playersOf n lineIn pumpIn = { s with players := players } := by
  unfold State.playersOf
  split
  · exact ⟨_, rfl⟩
  · exact ⟨s.players, rfl⟩

theorem playerOf_names {s : State} {n : ChannelNo} {k : PlayerNo} {play : Play} (h : s.playerOf n = some (k, play)) :
    (s.chan n).state = .training .probing ∧ (s.chan n).player = some k ∧ s.play k = some play := by
  unfold State.playerOf at h
  split at h
  · next probing =>
    obtain ⟨j, names, held⟩ := Option.bind_eq_some_iff.1 h
    obtain ⟨x, plays, same⟩ := Option.map_eq_some_iff.1 held
    cases same
    exact ⟨probing, names, plays⟩
  · cases h

theorem playersOf_play_of_other (s : State) (n : ChannelNo) (lineIn pumpIn : Sample) {k : PlayerNo}
    (other : (s.chan n).state = .training .probing → (s.chan n).player ≠ some k) :
    (s.playersOf n lineIn pumpIn).play k = s.play k := by
  unfold State.playersOf
  split
  · next j play playing =>
    obtain ⟨probing, names, -⟩ := playerOf_names (Option.filter_eq_some_iff.1 playing).1
    rw [play_setPlay, if_neg]
    rintro rfl
    exact other probing names
  · rfl

theorem playersOf_play {s : State} {n : ChannelNo} {k : PlayerNo} {play : Play} (holds : s.playerOf n = some (k, play))
    (lineIn pumpIn : Sample) : (s.playersOf n lineIn pumpIn).play k =
      some (if play.paused then play else s.playedOf n lineIn pumpIn play) := by
  unfold State.playersOf State.playingOf
  rw [holds]
  cases paused : play.paused with
  | true =>
    rw [Option.filter_some_neg (by simp [paused])]
    exact (playerOf_names holds).2.2
  | false =>
    rw [Option.filter_some_pos (by simp [paused])]
    exact play_setPlay_self s k _

section Frame

variable (lineIn pumpIn : Vector Slot 48)

/-- The channel's part of the frame leaves the other channels, their slots, and the players they name. -/
theorem frameChannel_others (s : State) {n m : ChannelNo} (ne : n ≠ m) :
    (s.frameChannel lineIn pumpIn n).chan m = s.chan m
      ∧ (s.frameChannel lineIn pumpIn n).highway.lineOut.get m = s.highway.lineOut.get m
      ∧ (s.frameChannel lineIn pumpIn n).highway.pumpOut.get m = s.highway.pumpOut.get m := by
  unfold State.frameChannel
  split
  · exact ⟨rfl, (lineOut_putSlots s n m 0 0).trans (if_neg ne), (pumpOut_putSlots s n m 0 0).trans (if_neg ne)⟩
  · rw [frameCall_eq]
    obtain ⟨players, same⟩ := playersOf_eq s n (lineIn.get n).toInt (pumpIn.get n).toInt
    rw [same]
    exact ⟨chan_modChan_of_ne { s with players := players } (fun _ => s.framedOf n _ _) ne, (lineOut_putSlots _ n m _ _).trans (if_neg ne),
      (pumpOut_putSlots _ n m _ _).trans (if_neg ne)⟩

theorem frameChannel_play (s : State) {n : ChannelNo} {k : PlayerNo}
    (other : (s.chan n).state = .training .probing → (s.chan n).player ≠ some k) :
    (s.frameChannel lineIn pumpIn n).play k = s.play k := by
  unfold State.frameChannel
  split
  · rfl
  · rw [frameCall_eq]
    exact playersOf_play_of_other s n _ _ other

/-- A series of other channels' parts. -/
theorem frameChannels_others {items : List ChannelNo} (s : State) {m : ChannelNo} (out : m ∉ items) :
    (items.foldl (State.frameChannel lineIn pumpIn) s).chan m = s.chan m
      ∧ (items.foldl (State.frameChannel lineIn pumpIn) s).highway.lineOut.get m = s.highway.lineOut.get m
      ∧ (items.foldl (State.frameChannel lineIn pumpIn) s).highway.pumpOut.get m = s.highway.pumpOut.get m := by
  induction items generalizing s with
  | nil => exact ⟨rfl, rfl, rfl⟩
  | cons n rest ih =>
    rw [List.mem_cons, not_or] at out
    obtain ⟨chan, line, pump⟩ := frameChannel_others lineIn pumpIn s (Ne.symm out.1)
    obtain ⟨chan', line', pump'⟩ := ih (s.frameChannel lineIn pumpIn n) out.2
    exact ⟨chan'.trans chan, line'.trans line, pump'.trans pump⟩

theorem frameChannels_play {items : List ChannelNo} (nodup : items.Nodup) (s : State) {k : PlayerNo}
    (others : ∀ m ∈ items, (s.chan m).state = .training .probing → (s.chan m).player ≠ some k) :
    (items.foldl (State.frameChannel lineIn pumpIn) s).play k = s.play k := by
  induction items generalizing s with
  | nil => rfl
  | cons n rest ih =>
    rw [List.nodup_cons] at nodup
    refine (ih nodup.2 (s.frameChannel lineIn pumpIn n) fun m held => ?_).trans
      (frameChannel_play lineIn pumpIn s (others n List.mem_cons_self))
    have ne : n ≠ m := fun same => nodup.1 (same ▸ held)
    rw [(frameChannel_others lineIn pumpIn s ne).1]
    exact others m (List.mem_cons_of_mem n held)

/-- The channel's own part. -/
theorem frameChannel_own {s : State} {n : ChannelNo} (live : (s.chan n).state ≠ .vacant) :
    let u := s.frameChannel lineIn pumpIn n
    u.chan n = s.framedOf n (lineIn.get n).toInt (pumpIn.get n).toInt
      ∧ u.highway.lineOut.get n = s.sourceOf n (pumpIn.get n).toInt
      ∧ u.highway.pumpOut.get n = (s.formedOf n (lineIn.get n).toInt (pumpIn.get n).toInt).pumpOut
      ∧ ∀ k play, s.playerOf n = some (k, play) → u.play k =
        some (if play.paused then play else s.playedOf n (lineIn.get n).toInt (pumpIn.get n).toInt play) := by
  unfold State.frameChannel
  rw [if_neg live, frameCall_eq]
  generalize (lineIn.get n).toInt = line
  generalize (pumpIn.get n).toInt = pump
  refine ⟨chan_modChan_self (s.playersOf n line pump) n fun _ => s.framedOf n line pump,
    (lineOut_putSlots _ n n _ _).trans (if_pos rfl), (pumpOut_putSlots _ n n _ _).trans (if_pos rfl), fun k play holds => ?_⟩
  exact playersOf_play holds line pump

theorem frameChannel_vacant {s : State} {n : ChannelNo} (vacant : (s.chan n).state = .vacant) :
    s.frameChannel lineIn pumpIn n = s.putSlots n 0 0 := if_pos vacant

end Frame

/-! ### The whole frame -/

/-- What the frame forms for a channel rests on the channel, its player and the taps. -/
theorem framed_congr {s u : State} {n : ChannelNo} (chan : u.chan n = s.chan n) (pool : u.pool = s.pool)
    (player : u.playerOf n = s.playerOf n) (lineIn pumpIn : Sample) : u.sourceOf n pumpIn = s.sourceOf n pumpIn
      ∧ u.formedOf n lineIn pumpIn = s.formedOf n lineIn pumpIn ∧ u.framedOf n lineIn pumpIn = s.framedOf n lineIn pumpIn
      ∧ ∀ play, u.playedOf n lineIn pumpIn play = s.playedOf n lineIn pumpIn play := by
  have source : u.sourceOf n pumpIn = s.sourceOf n pumpIn := by rw [State.sourceOf, State.playingOf, player]; rfl
  have reference : u.referenceOf n pumpIn = s.referenceOf n pumpIn := by rw [State.referenceOf, source, chan]; rfl
  have formed : u.formedOf n lineIn pumpIn = s.formedOf n lineIn pumpIn := by
    unfold State.formedOf State.form State.echoEstimate State.conditioned State.bankSum State.tap
    rw [reference, chan, pool]
  refine ⟨source, formed, ?_, fun play => ?_⟩
  · unfold State.framedOf
    rw [reference, formed, chan, adaptingNow_eq, adaptingNow_eq, foundPaused_eq, foundPaused_eq, player, chan]
  · rw [State.playedOf, reference, chan]
    rfl

/-- What the frame leaves of a channel and of its player, where no two channels name one player. -/
theorem frame_channel {s : State} (sound : s.PlayersSound) (lineIn pumpIn : Vector Slot 48) (n : ChannelNo) :
    let t := s.frame lineIn pumpIn
    ((s.chan n).state = .vacant → t.chan n = s.chan n ∧ t.highway.lineOut.get n = 0 ∧ t.highway.pumpOut.get n = 0)
      ∧ ((s.chan n).state ≠ .vacant →
        t.chan n = s.framedOf n (lineIn.get n).toInt (pumpIn.get n).toInt
          ∧ t.highway.lineOut.get n = s.sourceOf n (pumpIn.get n).toInt
          ∧ t.highway.pumpOut.get n = (s.formedOf n (lineIn.get n).toInt (pumpIn.get n).toInt).pumpOut
          ∧ ∀ k play, s.playerOf n = some (k, play) → t.play k =
            some (if play.paused then play else s.playedOf n (lineIn.get n).toInt (pumpIn.get n).toInt play)) := by
  obtain ⟨before, after, split⟩ := List.append_of_mem (mem_allChannels n)
  have nodup := nodup_allChannels
  rw [split, List.nodup_append, List.nodup_cons] at nodup
  obtain ⟨nodupBefore, ⟨notAfter, nodupAfter⟩, apart⟩ := nodup
  have notBefore : n ∉ before := fun held => apart n held n List.mem_cons_self rfl
  have lone {m : ChannelNo} (ne : m ≠ n) {k : PlayerNo} (names : (s.chan n).player = some k) : (s.chan m).player ≠ some k :=
    fun other => ne (Option.some_inj.1 ((sound m k other).symm.trans (sound n k names)))
  have first := frameChannels_others lineIn pumpIn s notBefore
  have firstPlay {k : PlayerNo} (names : (s.chan n).player = some k) :=
    frameChannels_play lineIn pumpIn nodupBefore s fun m held _ => lone (fun same => notBefore (same ▸ held)) names
  obtain ⟨channels, players, lineOut, pumpOut, frame⟩ := frameChannels_eq lineIn pumpIn before s
  have pool : (before.foldl (State.frameChannel lineIn pumpIn) s).pool = s.pool := by rw [frame]
  have later {m : ChannelNo} (held : m ∈ after) :
      (((before.foldl (State.frameChannel lineIn pumpIn) s).frameChannel lineIn pumpIn n).chan m).player = (s.chan m).player := by
    have ne : n ≠ m := fun same => notAfter (same ▸ held)
    have away : m ∉ before := fun early => apart m early m (List.mem_cons_of_mem n held) rfl
    rw [(frameChannel_others lineIn pumpIn _ ne).1, (frameChannels_others lineIn pumpIn s away).1]
  have whole : s.frame lineIn pumpIn = (after.foldl (State.frameChannel lineIn pumpIn)
      ((before.foldl (State.frameChannel lineIn pumpIn) s).frameChannel lineIn pumpIn n)).modHighway
        fun h => { h with epochFrames := h.epochFrames + 1 } := by
    rw [State.frame, split, List.foldl_append, List.foldl_cons]
  generalize before.foldl (State.frameChannel lineIn pumpIn) s = u at *
  obtain ⟨chan, -, -⟩ := first
  have last := frameChannels_others lineIn pumpIn (u.frameChannel lineIn pumpIn n) notAfter
  have lastPlay {k : PlayerNo} (names : (s.chan n).player = some k) :=
    frameChannels_play lineIn pumpIn nodupAfter (u.frameChannel lineIn pumpIn n) (k := k) fun m held _ => by
      rw [later held]
      exact lone (fun same => notAfter (same ▸ held)) names
  rw [whole]
  generalize after.foldl (State.frameChannel lineIn pumpIn) (u.frameChannel lineIn pumpIn n) = v at *
  obtain ⟨lastChan, lastLine, lastPump⟩ := last
  refine ⟨fun vacant => ?_, fun live => ?_⟩
  · rw [frameChannel_vacant lineIn pumpIn (by rw [chan]; exact vacant)] at lastChan lastLine lastPump
    exact ⟨lastChan.trans chan, lastLine.trans ((lineOut_putSlots u n n 0 0).trans (if_pos rfl)),
      lastPump.trans ((pumpOut_putSlots u n n 0 0).trans (if_pos rfl))⟩
  · have player : u.playerOf n = s.playerOf n := by
      unfold State.playerOf
      rw [chan]
      cases names : (s.chan n).player with
      | none => rfl
      | some k => simp only [Option.bind_some, firstPlay names]
    obtain ⟨ownChan, ownLine, ownPump, ownPlay⟩ := frameChannel_own lineIn pumpIn (s := u) (n := n) (by rw [chan]; exact live)
    obtain ⟨source, formed, framed, played⟩ := framed_congr chan pool player (lineIn.get n).toInt (pumpIn.get n).toInt
    rw [framed] at ownChan
    rw [source] at ownLine
    rw [formed] at ownPump
    refine ⟨lastChan.trans ownChan, lastLine.trans ownLine, lastPump.trans ownPump, fun k play holds => ?_⟩
    have plays := ownPlay k play (player.trans holds)
    rw [played] at plays
    exact (lastPlay (playerOf_names holds).2.1).trans plays

/-- Table 2-1's Pump-out and the residual path, by whether the echo is cancelled. -/
theorem formedOf_eq (s : State) (n : ChannelNo) (lineIn pumpIn : Sample) :
    let c := s.chan n
    let reference := s.referenceOf n pumpIn
    let near := ((List.range c.profile.near).map fun i => s.tap n .live .near i * reference.getD i 0).sum
    let far := if c.window.active then
      ((List.range c.profile.far).map fun i => s.tap n .live .far i * reference.getD (c.window.start + i) 0).sum else 0
    let estimate := clampSample (roundDiv (near + far) 32767)
    let cancelled := decide (c.state ≠ .stranded)
    let residual := if cancelled then clampSample (lineIn - estimate) else lineIn
    let residuals := pushSample 144 residual c.residuals
    let equalized := ((List.range c.profile.eq).map fun j => s.tap n .live .equal j * residuals.getD j 0).sum
    s.formedOf n lineIn pumpIn =
      ⟨if cancelled then clampSample (roundDiv equalized 32767) else lineIn, if cancelled then estimate else 0, residual,
        residuals⟩ := by
  dsimp only
  unfold State.formedOf State.form
  dsimp only
  by_cases stranded : (s.chan n).state = .stranded
  · rw [if_pos stranded, decide_eq_false (not_not_intro stranded)]
    rfl
  · rw [if_neg stranded, decide_eq_true stranded]
    rfl

/-- The record that the frame leaves, once it is known what it forms. -/
theorem framedOf_of_formed {s : State} {n : ChannelNo} {lineIn pumpIn pumpOut estimate residual : Sample}
    {residuals : List Sample} {cancelled : Bool}
    (formed : s.formedOf n lineIn pumpIn = ⟨pumpOut, if cancelled then estimate else 0, residual, residuals⟩) :
    s.framedOf n lineIn pumpIn = { s.chan n with
      reference := s.referenceOf n pumpIn, residuals := residuals
      sums := ⟨(s.chan n).sums.line + lineIn.natAbs ^ 2,
        (s.chan n).sums.estimate + (if cancelled then estimate.natAbs ^ 2 else 0),
        (s.chan n).sums.residual + residual.natAbs ^ 2, (s.chan n).sums.frames + 1⟩
      marks := { (s.chan n).marks with
        adapting := (s.chan n).marks.adapting + (if ((s.playingOf n).isSome || (s.chan n).state == .training .settling
          || (s.chan n).state == .training .stalled || (s.chan n).state == .tracking) then 1 else 0)
        paused := (s.chan n).marks.paused || (s.playerOf n).any fun x => x.2.paused } } := by
  unfold State.framedOf
  rw [formed, adaptingNow_eq, foundPaused_eq]
  cases cancelled
  · rfl
  · rfl

/-- Settles O52: what one channel's part of the frame forms (`frame_channel`, `formedOf_eq`). -/
theorem lockedFrameForms : Obligations.LockedFrameForms := by
  refine ⟨pushSample_getD, fun s lineIn pumpIn quiet locked sound => ?_⟩
  have formed : exec (.lockedFrame lineIn pumpIn) s = .next (s.frame lineIn pumpIn) := by
    rw [exec_lockedFrame, execLockedFrame, settle_of_quiet quiet]
    exact if_pos locked
  obtain ⟨channels, players, lineOut, pumpOut, frame⟩ := frame_eq s lineIn pumpIn
  have plays (k : PlayerNo) (others : ∀ n, (s.chan n).state = .training .probing → (s.chan n).player ≠ some k) :
      (s.frame lineIn pumpIn).play k = s.play k := by
    rw [State.frame, play_modHighway]
    exact frameChannels_play lineIn pumpIn nodup_allChannels s fun m _ => others m
  refine ⟨s.frame lineIn pumpIn, formed, ?_, ?_, plays, ?_⟩
  · generalize s.frame lineIn pumpIn = t at frame
    subst frame
    rfl
  · generalize s.frame lineIn pumpIn = t at frame
    subst frame
    rfl
  intro n
  obtain ⟨vacant, live⟩ := frame_channel sound lineIn pumpIn n
  intro c
  split
  · next state => exact vacant state
  · next state =>
    obtain ⟨chan, line, pump, player⟩ := live state
    have parts := formedOf_eq s n (lineIn.get n).toInt (pumpIn.get n).toInt
    dsimp only at parts
    have record := framedOf_of_formed parts
    intro lineSample found playing source adapting reference near far estimate cancelled residual residuals equalized
    have sent : s.sourceOf n (pumpIn.get n).toInt = source := rfl
    have history : s.referenceOf n (pumpIn.get n).toInt = reference := rfl
    rw [history] at parts record
    refine ⟨line.trans sent, pump.trans (congrArg Formed.pumpOut parts), chan.trans record, fun k play holds => ?_⟩
    rw [player k play holds, State.playedOf, history]

end Sys2Proof.Machine

/-! What each block's work at an epoch end touches (R36, R61, R96, R115, R156): the engine and the level supervisor one
channel's record, the players the locator sums, the mover taps and the ends of orders. -/

namespace Sys2Proof.Machine

/-! ### Work on one channel -/

/-- Orders as the engine enqueues them (R85). -/
def RollbackOrders (orders : List Order) : Prop := ∀ o ∈ orders, o.origin = .internal ∧ o.rollback = true ∧ o.progress = 0

theorem RollbackOrders.append {a b : List Order} (h : RollbackOrders a) (h' : RollbackOrders b) : RollbackOrders (a ++ b) :=
  fun o ho => (List.mem_append.1 ho).elim (h o) (h' o)

/-- The fields of a channel that the engine's first steps write: measurements, freeze reasons, detector (R62, R64, R69). -/
def Channel.watch (c : Channel) : Option Measurements × FreezeSet × Bool × Nat :=
  (c.measured, c.freeze, c.contentionLive, c.hangover)

/-- Work on channel `n`: no other record changes, rollback orders may join, and segments, players and cache stay. -/
structure State.ActsOn (s t : State) (n : ChannelNo) : Prop where
  others : ∀ m, m ≠ n → t.chan m = s.chan m
  lessee : (t.chan n).lessee = (s.chan n).lessee
  live : (t.chan n).live = (s.chan n).live
  players : t.players = s.players
  mover : ∃ joined, RollbackOrders joined ∧ t.mover = s.mover ++ joined
  free : t.pool.free = s.pool.free
  flag : t.pool.flag = s.pool.flag
  cache : t.cache = s.cache
  parkCounter : t.parkCounter = s.parkCounter

/-- Work on channel `n` that leaves its measurements, freeze reasons, detector and level. -/
structure State.Moves (s t : State) (n : ChannelNo) : Prop extends s.ActsOn t n where
  watch : (t.chan n).watch = (s.chan n).watch
  level : (t.chan n).level = (s.chan n).level

section Acts

variable {s t u : State} {n : ChannelNo}

theorem State.ActsOn.refl (s : State) (n : ChannelNo) : s.ActsOn s n :=
  ⟨fun _ _ => rfl, rfl, rfl, rfl, ⟨[], fun _ none => (List.not_mem_nil none).elim, (List.append_nil _).symm⟩, rfl, rfl, rfl, rfl⟩

theorem State.ActsOn.trans (h : s.ActsOn t n) (h' : t.ActsOn u n) : s.ActsOn u n := by
  obtain ⟨a, rollbackA, moverA⟩ := h.mover
  obtain ⟨b, rollbackB, moverB⟩ := h'.mover
  exact ⟨fun m ne => (h'.others m ne).trans (h.others m ne), h'.lessee.trans h.lessee, h'.live.trans h.live,
    h'.players.trans h.players, ⟨a ++ b, rollbackA.append rollbackB, by rw [moverB, moverA, List.append_assoc]⟩,
    h'.free.trans h.free, h'.flag.trans h.flag, h'.cache.trans h.cache, h'.parkCounter.trans h.parkCounter⟩

theorem modChan_actsOn (s : State) (n : ChannelNo) (f : Channel → Channel) (lessee : (f (s.chan n)).lessee = (s.chan n).lessee)
    (live : (f (s.chan n)).live = (s.chan n).live) : s.ActsOn (s.modChan n f) n where
  others := fun _ ne => chan_modChan_of_ne s f (Ne.symm ne)
  lessee := by rw [chan_modChan_self, lessee]
  live := by rw [chan_modChan_self, live]
  players := rfl
  mover := ⟨[], fun _ none => (List.not_mem_nil none).elim, (List.append_nil _).symm⟩
  free := rfl
  flag := rfl
  cache := rfl
  parkCounter := rfl

theorem State.Moves.refl (s : State) (n : ChannelNo) : s.Moves s n := ⟨.refl s n, rfl, rfl⟩

theorem State.Moves.trans (h : s.Moves t n) (h' : t.Moves u n) : s.Moves u n :=
  ⟨h.toActsOn.trans h'.toActsOn, h'.watch.trans h.watch, h'.level.trans h.level⟩

theorem modChan_moves (s : State) (n : ChannelNo) (f : Channel → Channel) (lessee : (f (s.chan n)).lessee = (s.chan n).lessee)
    (live : (f (s.chan n)).live = (s.chan n).live) (watch : (f (s.chan n)).watch = (s.chan n).watch)
    (level : (f (s.chan n)).level = (s.chan n).level) : s.Moves (s.modChan n f) n :=
  ⟨modChan_actsOn s n f lessee live, by rw [chan_modChan_self, watch], by rw [chan_modChan_self, level]⟩

/-- An update that leaves the channels, the players and the stores but for the taps. -/
theorem State.Moves.of_same (n : ChannelNo) (channels : t.channels = s.channels) (players : t.players = s.players)
    (mover : t.mover = s.mover) (free : t.pool.free = s.pool.free) (flag : t.pool.flag = s.pool.flag)
    (cache : t.cache = s.cache) (counter : t.parkCounter = s.parkCounter) : s.Moves t n := by
  have chan (m : ChannelNo) : t.chan m = s.chan m := congrArg (fun v : Vector Channel 48 => v.get m) channels
  exact ⟨⟨fun m _ => chan m, by rw [chan], by rw [chan], players,
    ⟨[], fun _ none => (List.not_mem_nil none).elim, mover.trans (List.append_nil _).symm⟩, free, flag, cache, counter⟩,
    by rw [chan], by rw [chan]⟩

theorem notifyLessee_moves (s : State) (n : ChannelNo) (lessee : Option Port) (x : Notice) :
    s.Moves (s.notifyLessee lessee x) n := by
  obtain ⟨ports, e⟩ := notifyLessee_eq s lessee x
  rw [e]
  exact .of_same n rfl rfl rfl rfl rfl rfl rfl

theorem enterQueued_moves (s : State) (n : ChannelNo) : s.Moves (s.enterQueued n) n :=
  (State.Moves.of_same n rfl rfl rfl rfl rfl rfl rfl : s.Moves (s.setProbeQueue (s.probeQueue ++ [n])) n).trans
    (modChan_moves _ n _ rfl rfl rfl rfl)

theorem enqueueRollback_moves (s : State) (n : ChannelNo) (p : Port) (c : Channel) (r : Snapshot) :
    s.Moves (s.enqueue (rollbackOrder n p c r)) n := by
  obtain ⟨⟨marks, own⟩, others⟩ := enqueueRollback_chan (u := s) (n := n) p c r
  obtain ⟨channels, e⟩ := enqueue_eq s (rollbackOrder n p c r)
  have frame : (s.enqueue (rollbackOrder n p c r)).players = s.players ∧ (s.enqueue (rollbackOrder n p c r)).pool = s.pool
      ∧ (s.enqueue (rollbackOrder n p c r)).cache = s.cache ∧ (s.enqueue (rollbackOrder n p c r)).parkCounter = s.parkCounter := by
    rw [e]
    exact ⟨rfl, rfl, rfl, rfl⟩
  obtain ⟨players, pool, cache, counter⟩ := frame
  refine ⟨⟨others, by rw [own], by rw [own], players, ⟨[rollbackOrder n p c r], fun o ho => ?_, enqueue_mover s _⟩,
    by rw [pool], by rw [pool], cache, counter⟩, by rw [own]; rfl, by rw [own]⟩
  rw [List.mem_singleton.1 ho]
  exact ⟨rfl, rfl, rfl⟩

end Acts

/-! ### The engine -/

section Engine

variable (s : State) (n : ChannelNo)

theorem retrainDiverged_moves : s.Moves (s.retrainDiverged n) n :=
  (enterQueued_moves s n).trans (notifyLessee_moves _ n _ _)

theorem diverge_moves : s.Moves (s.diverge n) n := by
  unfold State.diverge
  dsimp only
  split
  · exact (modChan_moves s n _ rfl rfl rfl rfl).trans (notifyLessee_moves _ n _ _)
  · exact retrainDiverged_moves s n
  · split
    · exact retrainDiverged_moves s n
    · split
      · split
        · exact ((modChan_moves s n _ rfl rfl rfl rfl).trans (enqueueRollback_moves _ n _ _ _)).trans
            (notifyLessee_moves _ n _ _)
        · exact retrainDiverged_moves s n
      · exact retrainDiverged_moves s n

theorem judgeProving_moves : s.Moves (s.judgeProving n) n := by
  unfold State.judgeProving
  dsimp only
  split
  · exact (modChan_moves s n _ rfl rfl rfl rfl).trans (notifyLessee_moves _ n _ _)
  · split
    · exact (enterQueued_moves s n).trans (notifyLessee_moves _ n _ _)
    · exact .refl s n

theorem converge_moves : s.Moves (s.converge n) n :=
  (modChan_moves s n _ rfl rfl rfl rfl).trans (notifyLessee_moves _ n _ _)

theorem stall_moves : s.Moves (s.stall n) n :=
  (modChan_moves s n _ rfl rfl rfl rfl).trans (notifyLessee_moves _ n _ _)

theorem judgeChannel_moves : s.Moves (s.judgeChannel n) n := by
  unfold State.judgeChannel
  dsimp only
  split
  · split
    · exact converge_moves s n
    · split
      · exact stall_moves s n
      · exact .refl s n
  · split
    · exact converge_moves s n
    · exact .refl s n
  · split
    · exact judgeProving_moves s n
    · split
      · exact diverge_moves s n
      · exact .refl s n
  all_goals exact .refl s n

theorem countEpoch_moves (guard₀ : Option Nat) : s.Moves (s.modChan n (Channel.countEpoch guard₀)) n := by
  have counted := countEpoch_eq guard₀ (s.chan n)
  refine modChan_moves s n _ ?_ ?_ ?_ ?_
  · rw [counted]
  · rw [counted]
  · rw [counted]; rfl
  · rw [counted]

theorem adaptChannel_moves (c₀ : Channel) : s.Moves (s.adaptChannel c₀ n) n := by
  cases update : s.updateEpoch c₀ n with
  | false =>
    have still : s.adaptChannel c₀ n = s := if_neg (by rw [update]; exact Bool.false_ne_true)
    rw [still]
    exact .refl s n
  | true =>
    obtain ⟨ports, adapted, -⟩ := adaptChannel_of_update update
    obtain ⟨taps, updated⟩ := updateTaps_setTaps s n
    rw [adapted, updated]
    refine ((State.Moves.of_same n rfl rfl rfl rfl rfl rfl rfl : s.Moves (s.setTaps taps) n).trans
      (modChan_moves _ n (Channel.adapted s.config.convergence) rfl rfl rfl rfl)).trans ?_
    exact .of_same n rfl rfl rfl rfl rfl rfl rfl

end Engine

/-! ### Measurements, detector and freeze reasons -/

/-- The measurements after an epoch end (R62). -/
def Channel.measuredAfter (c : Channel) : Option Measurements :=
  match c.handed with
  | some m => some m
  | none => c.measured

/-- The detector after an epoch end (R69). -/
def Channel.detectorAfter (cfg : SharedConfig) (c : Channel) : Bool × Nat :=
  if c.state ≠ .tracking then (false, 0)
  else match c.handed with
    | none => (c.contentionLive, c.hangover)
    | some m => if cfg.contentionMargin < m.receive - m.estimate then (true, 4) else (false, c.hangover - 1)

/-- Freeze reasons and detector after an epoch end (R62, R64, R69). -/
def Channel.freezeAfter (cfg : SharedConfig) (c : Channel) : FreezeSet × Bool × Nat :=
  if c.state = .vacant ∨ c.state = .stranded then (c.freeze, c.contentionLive, c.hangover)
  else (c.freezeReasons cfg, c.detectorAfter cfg)

/-- What the engine's first steps leave of the fields they write. -/
def Channel.watchAfter (cfg : SharedConfig) (c : Channel) : Option Measurements × FreezeSet × Bool × Nat :=
  (c.measuredAfter, c.freezeAfter cfg)

theorem record_measured (c₀ c : Channel) (same : c.measured = c₀.measured) :
    c.record c₀.handed = { c with measured := c₀.measuredAfter } := by
  unfold Channel.record Channel.measuredAfter
  cases c₀.handed with
  | none => rw [same]; rfl
  | some m => rfl

theorem detect_actsOn (s : State) (n : ChannelNo) (handed : Option Measurements) : s.ActsOn (s.detect n handed) n := by
  unfold State.detect
  dsimp only
  split
  · split
    · exact .refl s n
    · split
      · split
        · exact modChan_actsOn s n _ rfl rfl
        · exact (modChan_actsOn s n _ rfl rfl).trans (notifyLessee_moves _ n _ _).toActsOn
      · exact modChan_actsOn s n _ rfl rfl
  · exact modChan_actsOn s n _ rfl rfl

/-- The detector changes its own two fields, as the record that the epoch end found gives them. -/
theorem detect_chan {s : State} {n : ChannelNo} {c₀ : Channel} (state : (s.chan n).state = c₀.state)
    (live : (s.chan n).contentionLive = c₀.contentionLive) (hangover : (s.chan n).hangover = c₀.hangover) :
    (s.detect n c₀.handed).chan n = { s.chan n with
      contentionLive := (c₀.detectorAfter s.config).1, hangover := (c₀.detectorAfter s.config).2 } := by
  unfold Channel.detectorAfter
  by_cases tracking : c₀.state = .tracking
  · have tracks : (s.chan n).state = .tracking := state.trans tracking
    rw [if_neg (not_not_intro tracking)]
    cases c₀.handed with
    | none =>
      rw [detect_of_unmeasured tracks, ← live, ← hangover]
    | some m =>
      rw [detect_of_tracking tracks]
      dsimp only
      split
      · split
        · rw [chan_modChan_self]
        · rw [chan_notifyLessee, chan_modChan_self]
      · rw [chan_modChan_self, hangover]
  · rw [if_pos tracking, detect_of_other (by rw [state]; exact tracking), chan_modChan_self]

/-- The engine's work for a channel that is neither VACANT nor STRANDED: the steps of R61. -/
theorem engineWork_of_call {s : State} {n : ChannelNo} (occupied : (s.chan n).state ≠ .vacant)
    (connected : (s.chan n).state ≠ .stranded) (u : State) : s.engineWork u n =
      ((((((u.modChan n (Channel.record (s.chan n).handed)).detect n (s.chan n).handed).modChan n
        fun c => { c with freeze := (s.chan n).freezeReasons s.config }).adaptChannel (s.chan n) n).modChan n
          (Channel.countEpoch (s.chan n).guard)).judgeChannel n) := by
  unfold State.engineWork
  dsimp only
  split
  · next vacant => exact absurd vacant occupied
  · next stranded => exact absurd stranded connected
  all_goals rfl

/-- The engine's work for channel `n`, in a state `u` that still has the channel's state and watched fields from `s`. -/
theorem engineWork_effect {s u : State} {n : ChannelNo} (occupied : (s.chan n).state ≠ .vacant) (config : u.config = s.config)
    (state : (u.chan n).state = (s.chan n).state) (watch : (u.chan n).watch = (s.chan n).watch) :
    u.ActsOn (s.engineWork u n) n ∧ ((s.engineWork u n).chan n).watch = (s.chan n).watchAfter s.config
      ∧ ((s.engineWork u n).chan n).level = (u.chan n).level := by
  simp only [Channel.watch, Prod.mk.injEq] at watch
  obtain ⟨measured, freeze, live, hangover⟩ := watch
  have recorded := record_measured (s.chan n) (u.chan n) measured
  have acting : u.ActsOn (u.modChan n (Channel.record (s.chan n).handed)) n := modChan_actsOn u n _ rfl rfl
  by_cases stranded : (s.chan n).state = .stranded
  · rw [engineWork_of_stranded stranded]
    refine ⟨acting, ?_, by rw [chan_modChan_self]; rfl⟩
    rw [chan_modChan_self, recorded, Channel.watchAfter, Channel.freezeAfter, if_pos (.inr stranded), ← freeze, ← live, ← hangover]
    rfl
  · rw [engineWork_of_call occupied stranded]
    have first : (u.modChan n (Channel.record (s.chan n).handed)).chan n = { u.chan n with measured := (s.chan n).measuredAfter } :=
      (chan_modChan_self u n _).trans recorded
    have detected := detect_chan (s := u.modChan n (Channel.record (s.chan n).handed)) (n := n) (c₀ := s.chan n)
      (by rw [first]; exact state) (by rw [first]; exact live) (by rw [first]; exact hangover)
    have detecting := acting.trans (detect_actsOn (u.modChan n (Channel.record (s.chan n).handed)) n (s.chan n).handed)
    rw [first, show (u.modChan n (Channel.record (s.chan n).handed)).config = s.config from config] at detected
    generalize (u.modChan n (Channel.record (s.chan n).handed)).detect n (s.chan n).handed = v at *
    have frozen := chan_modChan_self v n fun c => { c with freeze := (s.chan n).freezeReasons s.config }
    have freezing := detecting.trans
      (modChan_actsOn v n (fun c => { c with freeze := (s.chan n).freezeReasons s.config }) rfl rfl)
    rw [detected] at frozen
    generalize v.modChan n (fun c => { c with freeze := (s.chan n).freezeReasons s.config }) = w at *
    have moves := ((adaptChannel_moves w n (s.chan n)).trans (countEpoch_moves _ n (s.chan n).guard)).trans
      (judgeChannel_moves _ n)
    refine ⟨freezing.trans moves.toActsOn, ?_, ?_⟩
    · rw [moves.watch, frozen, Channel.watchAfter, Channel.freezeAfter,
        if_neg fun no => no.elim occupied stranded]
      rfl
    · rw [moves.level, frozen]

/-- The level supervisor's work for channel `n`, in a state that still has the channel's level from `s`. -/
theorem levelWork_effect {s u : State} {n : ChannelNo} (occupied : (s.chan n).state ≠ .vacant)
    (level : (u.chan n).level = (s.chan n).level) : u.ActsOn (s.levelWork u n) n
      ∧ ((s.levelWork u n).chan n).state = (u.chan n).state ∧ ((s.levelWork u n).chan n).watch = (u.chan n).watch
      ∧ ((s.levelWork u n).chan n).level = (s.chan n).levelAfter s.config := by
  cases handed : (s.chan n).handed with
  | none =>
    have idle : s.levelWork u n = u := by
      unfold State.levelWork
      dsimp only
      rw [handed]
      split
      · rfl
      · rfl
      · next given _ => cases given
    have kept : (s.chan n).levelAfter s.config = (s.chan n).level := by
      unfold Channel.levelAfter
      rw [handed]
    rw [idle, kept]
    exact ⟨.refl u n, rfl, rfl, level⟩
  | some m =>
    have acting : u.ActsOn (u.modChan n fun c => { c with level := (s.chan n).levelAfter s.config }) n :=
      modChan_actsOn u n _ rfl rfl
    have own := chan_modChan_self u n fun c => { c with level := (s.chan n).levelAfter s.config }
    rw [levelWork_of_handed u handed occupied]
    generalize u.modChan n (fun c => { c with level := (s.chan n).levelAfter s.config }) = v at *
    split
    · exact ⟨acting, by rw [own], by rw [own]; rfl, by rw [own]⟩
    · refine ⟨acting.trans (notifyLessee_moves v n _ _).toActsOn, ?_, ?_, ?_⟩
      · rw [chan_notifyLessee, own]
      · rw [chan_notifyLessee, own]; rfl
      · rw [chan_notifyLessee, own]

/-! ### The players and the mover -/

/-- The queue after the order at the head has gone on by 256 offsets (R115). -/
def advancedQueue : List Order → List Order
  | [] => []
  | o :: rest => if o.total ≤ o.progress + 256 then rest else { o with progress := o.progress + 256 } :: rest

theorem advancedQueue_append {a b : List Order} (some : a ≠ []) : advancedQueue (a ++ b) = advancedQueue a ++ b := by
  cases a with
  | nil => exact absurd rfl some
  | cons o rest =>
    simp only [List.cons_append, advancedQueue]
    split <;> rfl

/-- The taps alone change as the order in flight goes on. -/
theorem moveOffsets_eq (w : Work) (first : Nat) (offsets : List Nat) (s : State) :
    ∃ taps, offsets.foldl (fun u i => u.moveOffset w (first + i)) s = s.setTaps taps := by
  induction offsets generalizing s with
  | nil => exact ⟨s.pool.taps, rfl⟩
  | cons i rest ih =>
    obtain ⟨taps, others⟩ := ih (s.moveOffset w (first + i))
    have one : ∃ taps, s.moveOffset w (first + i) = s.setTaps taps := by
      unfold State.moveOffset
      dsimp only
      split
      · exact ⟨_, rfl⟩
      · exact ⟨s.pool.taps, rfl⟩
    obtain ⟨taps', head⟩ := one
    exact ⟨taps, by rw [List.foldl_cons, others, head]; rfl⟩

theorem advanceHead_goes_on {s : State} {o : Order} {rest : List Order} (queue : s.mover = o :: rest)
    (more : o.progress + 256 < o.total) : s.advanceHead =
      { (List.range (min 256 (o.total - o.progress))).foldl (fun u i => u.moveOffset o.work (o.progress + i)) s with
        mover := { o with progress := o.progress + 256 } :: rest } := by
  have count : min 256 (o.total - o.progress) = 256 := by omega
  have left : ¬ o.total ≤ o.progress + min 256 (o.total - o.progress) := by omega
  unfold State.advanceHead
  rw [queue]
  dsimp only
  rw [if_neg left, count]
  rfl

theorem advanceHead_completes {s : State} {o : Order} {rest : List Order} (queue : s.mover = o :: rest)
    (last : o.total ≤ o.progress + 256) :
    ((List.range (min 256 (o.total - o.progress))).foldl (fun u i => u.moveOffset o.work (o.progress + i)) s).Completed
      s.advanceHead o rest := by
  have done : o.total ≤ o.progress + min 256 (o.total - o.progress) := by omega
  have eq : s.advanceHead = (((List.range (min 256 (o.total - o.progress))).foldl
      (fun u i => u.moveOffset o.work (o.progress + i)) s).setMover
        ({ o with progress := o.progress + min 256 (o.total - o.progress) } :: rest)).completeHead := by
    unfold State.advanceHead
    rw [queue]
    exact if_pos done
  rw [eq]
  generalize (List.range (min 256 (o.total - o.progress))).foldl (fun u i => u.moveOffset o.work (o.progress + i)) s = v
  have completed := completeHead_completed (s := v.setMover
    ({ o with progress := o.progress + min 256 (o.total - o.progress) } :: rest)) rfl
  generalize (v.setMover ({ o with progress := o.progress + min 256 (o.total - o.progress) } :: rest)).completeHead = t at *
  obtain ⟨within, orders, told, raised, pool, players, queue', cache, counter, chan⟩ := completed
  obtain ⟨pending, freeIndex, claim, config, highway, timebase, heard⟩ := within
  exact ⟨⟨pending, freeIndex, claim, config, highway, timebase, heard⟩, orders, told, raised, pool, players, queue', cache,
    counter, chan⟩

/-- What the mover's work leaves of a channel's state, holder, watched fields and level. -/
structure Channel.Watched (c d : Channel) : Prop where
  state : d.state = c.state
  lessee : d.lessee = c.lessee
  live : d.live = c.live
  watch : d.watch = c.watch
  level : d.level = c.level

/-- The mover's work: taps, records, windows, guards and marks apart, the queue alone changes. -/
theorem advanceHead_effect (s : State) : (∀ m, (s.chan m).Watched (s.advanceHead.chan m)) ∧ s.advanceHead.players = s.players
    ∧ s.advanceHead.mover = advancedQueue s.mover ∧ s.advanceHead.pool.free = s.pool.free
    ∧ s.advanceHead.pool.flag = s.pool.flag ∧ s.advanceHead.cache = s.cache
    ∧ s.advanceHead.parkCounter = s.parkCounter := by
  cases queue : s.mover with
  | nil =>
    have idle : s.advanceHead = s := by
      unfold State.advanceHead
      rw [queue]
    rw [idle]
    exact ⟨fun m => ⟨rfl, rfl, rfl, rfl, rfl⟩, rfl, queue, rfl, rfl, rfl, rfl⟩
  | cons o rest =>
    obtain ⟨taps, moved⟩ := moveOffsets_eq o.work o.progress (List.range (min 256 (o.total - o.progress))) s
    by_cases last : o.total ≤ o.progress + 256
    · have completed := advanceHead_completes queue last
      rw [moved] at completed
      refine ⟨fun m => ?_, completed.players, ?_, ?_, ?_, completed.cache, completed.parkCounter⟩
      · rw [completed.chan]
        exact ⟨rfl, rfl, rfl, rfl, rfl⟩
      · rw [completed.orders, advancedQueue, if_pos last]
      · rw [completed.pool]; rfl
      · rw [completed.pool]; rfl
    · rw [advanceHead_goes_on queue (Nat.not_le.1 last), moved]
      refine ⟨fun m => ⟨rfl, rfl, rfl, rfl, rfl⟩, rfl, ?_, rfl, rfl, rfl, rfl⟩
      rw [advancedQueue, if_neg last]

end Sys2Proof.Machine

/-! The epoch end as a whole (R36): the blocks' work in whatever order, then the next epoch's marks and the grants. -/

namespace Sys2Proof.Machine

/-! ### The work done so far -/

/-- What stands in `v` once the works `done` of the epoch end of `s` have been taken. -/
structure State.EpochRun (s v : State) (done : List EpochWork) : Prop where
  config : v.config = s.config
  state : ∀ n, EpochWork.engine n ∉ done → (v.chan n).state = (s.chan n).state
  lessee : ∀ n, (v.chan n).lessee = (s.chan n).lessee
  live : ∀ n, (v.chan n).live = (s.chan n).live
  watch : ∀ n, (v.chan n).watch = if .engine n ∈ done then (s.chan n).watchAfter s.config else (s.chan n).watch
  level : ∀ n, (v.chan n).level = if .level n ∈ done then (s.chan n).levelAfter s.config else (s.chan n).level
  play : ∀ k, v.play k = if .players ∈ done then (s.play k).map Play.takeEpoch else s.play k
  mover : ∃ joined, RollbackOrders joined
    ∧ v.mover = (if .mover ∈ done then advancedQueue s.mover else s.mover) ++ joined
  free : v.pool.free = s.pool.free
  flag : v.pool.flag = s.pool.flag
  cache : v.cache = s.cache
  parkCounter : v.parkCounter = s.parkCounter

theorem mem_append_singleton_of_ne {α : Type} {a b : α} (ne : a ≠ b) (items : List α) : a ∈ items ++ [b] ↔ a ∈ items := by
  rw [List.mem_append, List.mem_singleton, or_iff_left ne]

theorem not_mem_of_append {α : Type} {a b : α} {items : List α} (h : a ∉ items ++ [b]) : a ∉ items :=
  fun held => h (List.mem_append_left _ held)

section Run

variable {s v : State} {done : List EpochWork}

/-- The engine's work for a channel that it has not worked on. -/
theorem State.EpochRun.engine (h : s.EpochRun v done) {n : ChannelNo} (fresh : EpochWork.engine n ∉ done)
    (occupied : (s.chan n).state ≠ .vacant) : s.EpochRun (s.engineWork v n) (done ++ [.engine n]) := by
  have watched := h.watch n
  rw [if_neg fresh] at watched
  obtain ⟨acts, watch, level⟩ := engineWork_effect occupied h.config (h.state n fresh) watched
  have config : (s.engineWork v n).config = s.config := (engineWork_within s v n).config.trans h.config
  obtain ⟨joined, rollback, mover⟩ := h.mover
  obtain ⟨joins, rollback', mover'⟩ := acts.mover
  have inDone {m : ChannelNo} (ne : m ≠ n) : EpochWork.engine m ∈ done ++ [.engine n] ↔ .engine m ∈ done :=
    mem_append_singleton_of_ne (fun same => ne (EpochWork.engine.inj same)) done
  refine ⟨config, fun m out => ?_, fun m => ?_, fun m => ?_, fun m => ?_, fun m => ?_, fun k => ?_,
    ⟨joined ++ joins, rollback.append rollback', ?_⟩,
    acts.free.trans h.free, acts.flag.trans h.flag, acts.cache.trans h.cache, acts.parkCounter.trans h.parkCounter⟩
  · have ne : m ≠ n := fun same => out (List.mem_append_right _ (List.mem_singleton.2 (congrArg _ same)))
    rw [acts.others m ne]
    exact h.state m (not_mem_of_append out)
  · by_cases own : m = n
    · rw [own, acts.lessee, h.lessee]
    · rw [acts.others m own, h.lessee]
  · by_cases own : m = n
    · rw [own, acts.live, h.live]
    · rw [acts.others m own, h.live]
  · by_cases own : m = n
    · rw [own, watch, if_pos (List.mem_append_right _ (List.mem_singleton_self _))]
    · rw [acts.others m own, h.watch, if_congr (inDone own) rfl rfl]
  · rw [if_congr (mem_append_singleton_of_ne (nofun : EpochWork.level m ≠ .engine n) done) rfl rfl, ← h.level]
    by_cases own : m = n
    · rw [own, level]
    · rw [acts.others m own]
  · rw [if_congr (mem_append_singleton_of_ne (nofun : EpochWork.players ≠ .engine n) done) rfl rfl, ← h.play,
      State.play, acts.players]
    rfl
  · rw [if_congr (mem_append_singleton_of_ne (nofun : EpochWork.mover ≠ .engine n) done) rfl rfl, mover', mover,
      List.append_assoc]

/-- The level supervisor's work for a channel that it has not worked on. -/
theorem State.EpochRun.levelStep (h : s.EpochRun v done) {n : ChannelNo} (fresh : EpochWork.level n ∉ done)
    (occupied : (s.chan n).state ≠ .vacant) : s.EpochRun (s.levelWork v n) (done ++ [.level n]) := by
  have before := h.level n
  rw [if_neg fresh] at before
  obtain ⟨acts, state, watch, level⟩ := levelWork_effect occupied before
  have config : (s.levelWork v n).config = s.config := (levelWork_within s v n).config.trans h.config
  obtain ⟨joined, rollback, mover⟩ := h.mover
  obtain ⟨joins, rollback', mover'⟩ := acts.mover
  have inDone {m : ChannelNo} (ne : m ≠ n) : EpochWork.level m ∈ done ++ [.level n] ↔ .level m ∈ done :=
    mem_append_singleton_of_ne (fun same => ne (EpochWork.level.inj same)) done
  refine ⟨config, fun m out => ?_, fun m => ?_, fun m => ?_, fun m => ?_, fun m => ?_, fun k => ?_,
    ⟨joined ++ joins, rollback.append rollback', ?_⟩,
    acts.free.trans h.free, acts.flag.trans h.flag, acts.cache.trans h.cache, acts.parkCounter.trans h.parkCounter⟩
  · have kept := h.state m (not_mem_of_append out)
    by_cases own : m = n
    · rw [own] at kept ⊢
      rw [state, kept]
    · rw [acts.others m own, kept]
  · by_cases own : m = n
    · rw [own, acts.lessee, h.lessee]
    · rw [acts.others m own, h.lessee]
  · by_cases own : m = n
    · rw [own, acts.live, h.live]
    · rw [acts.others m own, h.live]
  · rw [if_congr (mem_append_singleton_of_ne (nofun : EpochWork.engine m ≠ .level n) done) rfl rfl, ← h.watch]
    by_cases own : m = n
    · rw [own, watch]
    · rw [acts.others m own]
  · by_cases own : m = n
    · rw [own, level, if_pos (List.mem_append_right _ (List.mem_singleton_self _))]
    · rw [acts.others m own, h.level, if_congr (inDone own) rfl rfl]
  · rw [if_congr (mem_append_singleton_of_ne (nofun : EpochWork.players ≠ .level n) done) rfl rfl, ← h.play,
      State.play, acts.players]
    rfl
  · rw [if_congr (mem_append_singleton_of_ne (nofun : EpochWork.mover ≠ .level n) done) rfl rfl, mover', mover,
      List.append_assoc]

/-- The players' work. -/
theorem State.EpochRun.playersStep (h : s.EpochRun v done) (fresh : EpochWork.players ∉ done) :
    s.EpochRun v.playersWork (done ++ [.players]) := by
  have plays (k : PlayerNo) : v.playersWork.play k = (v.play k).map Play.takeEpoch := modAllPlays_play v _ k
  obtain ⟨players, eq⟩ := modAllPlays_eq v Play.takeEpoch
  have chan (m : ChannelNo) : v.playersWork.chan m = v.chan m := by rw [State.playersWork, eq]; rfl
  have frame : v.playersWork.config = v.config ∧ v.playersWork.mover = v.mover ∧ v.playersWork.pool = v.pool
      ∧ v.playersWork.cache = v.cache ∧ v.playersWork.parkCounter = v.parkCounter := by
    rw [State.playersWork, eq]
    exact ⟨rfl, rfl, rfl, rfl, rfl⟩
  obtain ⟨config, mover, pool, cache, counter⟩ := frame
  obtain ⟨joined, rollback, queue⟩ := h.mover
  refine ⟨config.trans h.config, fun m out => ?_, fun m => by rw [chan, h.lessee], fun m => by rw [chan, h.live],
    fun m => ?_, fun m => ?_, fun k => ?_,
    ⟨joined, rollback, ?_⟩, by rw [pool, h.free], by rw [pool, h.flag], cache.trans h.cache, counter.trans h.parkCounter⟩
  · rw [chan, h.state m (not_mem_of_append out)]
  · rw [chan, h.watch, if_congr (mem_append_singleton_of_ne (nofun : EpochWork.engine m ≠ .players) done) rfl rfl]
  · rw [chan, h.level, if_congr (mem_append_singleton_of_ne (nofun : EpochWork.level m ≠ .players) done) rfl rfl]
  · rw [plays, h.play, if_neg fresh, if_pos (List.mem_append_right _ (List.mem_singleton_self _))]
  · rw [mover, queue, if_congr (mem_append_singleton_of_ne (nofun : EpochWork.mover ≠ .players) done) rfl rfl]

/-- The mover's work, where an order was in flight as the epoch ended. -/
theorem State.EpochRun.moverStep (h : s.EpochRun v done) (fresh : EpochWork.mover ∉ done) :
    s.EpochRun (s.moverWork v) (done ++ [.mover]) := by
  have config : (s.moverWork v).config = s.config := (runWork_within s v .mover).config.trans h.config
  obtain ⟨joined, rollback, queue⟩ := h.mover
  rw [if_neg fresh] at queue
  have inDone : EpochWork.mover ∈ done ++ [.mover] := List.mem_append_right _ (List.mem_singleton_self _)
  have effect : (∀ m, (v.chan m).Watched ((s.moverWork v).chan m)) ∧ (s.moverWork v).players = v.players
      ∧ (s.moverWork v).mover = advancedQueue s.mover ++ joined ∧ (s.moverWork v).pool.free = v.pool.free
      ∧ (s.moverWork v).pool.flag = v.pool.flag ∧ (s.moverWork v).cache = v.cache
      ∧ (s.moverWork v).parkCounter = v.parkCounter := by
    unfold State.moverWork
    split
    · next empty =>
      exact ⟨fun m => ⟨rfl, rfl, rfl, rfl, rfl⟩, rfl, by rw [queue, empty]; rfl, rfl, rfl, rfl, rfl⟩
    · next some =>
      obtain ⟨chan, players, mover, rest⟩ := advanceHead_effect v
      exact ⟨chan, players, by rw [mover, queue, advancedQueue_append some], rest⟩
  obtain ⟨chan, players, mover, free, flag, cache, counter⟩ := effect
  refine ⟨config, fun m out => ?_, fun m => by rw [(chan m).lessee, h.lessee], fun m => by rw [(chan m).live, h.live],
    fun m => ?_, fun m => ?_, fun k => ?_,
    ⟨joined, rollback, by rw [mover, if_pos inDone]⟩, free.trans h.free, flag.trans h.flag, cache.trans h.cache,
    counter.trans h.parkCounter⟩
  · rw [(chan m).state, h.state m (not_mem_of_append out)]
  · rw [(chan m).watch, h.watch, if_congr (mem_append_singleton_of_ne (nofun : EpochWork.engine m ≠ .mover) done) rfl rfl]
  · rw [(chan m).level, h.level, if_congr (mem_append_singleton_of_ne (nofun : EpochWork.level m ≠ .mover) done) rfl rfl]
  · rw [if_congr (mem_append_singleton_of_ne (nofun : EpochWork.players ≠ .mover) done) rfl rfl, ← h.play, State.play, players]
    rfl

theorem State.EpochRun.step (h : s.EpochRun v done) {w : EpochWork} (fresh : w ∉ done) (due : w ∈ s.epochWorks) :
    s.EpochRun (s.runWork v w) (done ++ [w]) := by
  have occupied {n : ChannelNo} (due : EpochWork.engine n ∈ s.epochWorks ∨ EpochWork.level n ∈ s.epochWorks) :
      (s.chan n).state ≠ .vacant := by
    simpa [State.epochWorks, mem_allChannels] using due
  cases w with
  | engine n => exact h.engine fresh (occupied (.inl due))
  | level n => exact h.levelStep fresh (occupied (.inr due))
  | players => exact h.playersStep fresh
  | mover => exact h.moverStep fresh

theorem State.EpochRun.run (h : s.EpochRun v done) {works : List EpochWork} (nodup : (done ++ works).Nodup)
    (due : ∀ w ∈ works, w ∈ s.epochWorks) : s.EpochRun (works.foldl s.runWork v) (done ++ works) := by
  induction works generalizing v done with
  | nil => rwa [List.append_nil]
  | cons w rest ih =>
    rw [List.append_cons] at nodup ⊢
    have fresh : w ∉ done := fun held =>
      (List.nodup_append.1 (List.nodup_append.1 nodup).1).2.2 w held w (List.mem_singleton_self w) rfl
    exact ih (h.step fresh (due w List.mem_cons_self)) nodup fun x hx => due x (List.mem_cons_of_mem w hx)

end Run

/-! ### The works of an epoch end -/

theorem nodup_epochWorks (s : State) : s.epochWorks.Nodup := by
  have calls : (allChannels.filter fun n => decide ((s.chan n).state ≠ .vacant)).Nodup := nodup_allChannels.filter _
  unfold State.epochWorks
  dsimp only
  refine List.nodup_append.2 ⟨List.nodup_append.2 ⟨?_, ?_, fun a ha b hb => ?_⟩, by decide, fun a ha b hb => ?_⟩
  · exact calls.map fun _ _ same => EpochWork.engine.inj same
  · exact calls.map fun _ _ same => EpochWork.level.inj same
  · obtain ⟨n, -, rfl⟩ := List.mem_map.1 ha
    obtain ⟨m, -, rfl⟩ := List.mem_map.1 hb
    exact nofun
  · rcases List.mem_append.1 ha with engine | level
    · obtain ⟨n, -, rfl⟩ := List.mem_map.1 engine
      rcases List.mem_pair.1 hb with rfl | rfl
      · exact nofun
      · exact nofun
    · obtain ⟨n, -, rfl⟩ := List.mem_map.1 level
      rcases List.mem_pair.1 hb with rfl | rfl
      · exact nofun
      · exact nofun

theorem mem_epochWorks_engine (s : State) (n : ChannelNo) : EpochWork.engine n ∈ s.epochWorks ↔ (s.chan n).state ≠ .vacant := by
  simp [State.epochWorks, mem_allChannels]

theorem mem_epochWorks_level (s : State) (n : ChannelNo) : EpochWork.level n ∈ s.epochWorks ↔ (s.chan n).state ≠ .vacant := by
  simp [State.epochWorks, mem_allChannels]

/-- Every work done, in whatever order. -/
theorem worked_run (s : State) {works : List EpochWork} (perm : works.Perm s.epochWorks) : s.EpochRun (s.worked works) works := by
  have opened : s.EpochRun (s.modHighway Highway.nextEpoch) [] :=
    ⟨rfl, fun _ _ => rfl, fun _ => rfl, fun _ => rfl, fun _ => rfl, fun _ => rfl, fun _ => rfl,
      ⟨[], fun _ none => (List.not_mem_nil none).elim, (List.append_nil _).symm⟩, rfl, rfl, rfl, rfl⟩
  exact opened.run (done := []) (perm.nodup_iff.2 (nodup_epochWorks s)) fun w hw => perm.mem_iff.1 hw

end Sys2Proof.Machine

/-! The epoch end (R36): the marks of the next epoch, the grants, and what stands once all work is done. -/

namespace Sys2Proof.Machine

theorem handed_eq (c : Channel) : c.handed =
    if c.sums.frames ≠ 80 then none
    else if c.state = .stranded then some ⟨0, levelOfEnergy c.sums.line, -70⟩
    else some ⟨max 0 (min 60 (levelOfEnergy c.sums.line - levelOfEnergy c.sums.residual)), levelOfEnergy c.sums.line,
      levelOfEnergy c.sums.estimate⟩ := by
  unfold Channel.handed EpochSums.measurements
  dsimp only
  by_cases full : c.sums.frames = 80
  · rw [if_pos full, if_neg (not_not_intro full), Option.map_some]
    split
    · rfl
    · rfl
  · rw [if_neg full, if_pos full, Option.map_none]

/-- A player that plays is granted to no other channel. -/
theorem grants_play_of_playing {s : State} {k : PlayerNo} {play : Play} (plays : s.play k = some play) :
    s.grants.play k = some play := by
  have one {u : State} (plays : u.play k = some play) : u.grantOne.play k = some play := by
    obtain ⟨-, same⟩ | ⟨n, rest, j, -, idle, grant⟩ := grantOne_cases u
    · rw [same, plays]
    · have ne : j ≠ k := fun same => by rw [same, plays] at idle; cases idle
      rw [grant, play_modChan, play_setPlay_of_ne _ _ ne]
      exact plays
  exact one (one (one (one plays)))

/-- The state before the grants, `u` being the state with all work done. -/
def State.nextOpened (u : State) : State := (u.modAllChannels Channel.nextEpoch).markHead

theorem nextOpened_chan {u : State} (locked : u.highway.sync = .locked) (n : ChannelNo) : u.nextOpened.chan n =
    { u.chan n with sums := .zero, marks := ⟨0, false, u.mover.head?.any fun o => o.work.touchesLive n⟩ } := by
  obtain ⟨channels, cleared⟩ := modAllChannels_eq u Channel.nextEpoch
  have own : (u.modAllChannels Channel.nextEpoch).chan n = (u.chan n).nextEpoch := modAllChannels_chan u Channel.nextEpoch n
  have sync : (u.modAllChannels Channel.nextEpoch).highway.sync = .locked := by rw [cleared]; exact locked
  have mover : (u.modAllChannels Channel.nextEpoch).mover = u.mover := by rw [cleared]
  rw [State.nextOpened, markHead_chan, own, sync, mover]
  cases u.mover.head?.any fun o => o.work.touchesLive n
  · rfl
  · rfl

theorem nextOpened_eq (u : State) : ∃ channels, u.nextOpened = { u with channels := channels } := by
  obtain ⟨channels, cleared⟩ := modAllChannels_eq u Channel.nextEpoch
  obtain ⟨marked, mark⟩ := markHead_eq (u.modAllChannels Channel.nextEpoch)
  exact ⟨marked, by rw [State.nextOpened, mark, cleared]⟩

/-- An epoch end leaves the free count, so the pool is not compared. -/
theorem epochEnd_grants {s : State} {works : List EpochWork} (order : s.workOrder = works)
    (free : (s.spendFree.worked works).pool.free = s.pool.free) :
    s.epochEnd = (s.spendFree.worked works).nextOpened.grants := by
  obtain ⟨channels, opened⟩ := nextOpened_eq (s.spendFree.worked works)
  have pool : (s.spendFree.worked works).nextOpened.grants.pool.free = s.pool.free := by rw [grants_pool, opened, free]
  rw [epochEnd_eq, order, epochEndIn_eq]
  exact if_pos (congrArg List.length pool)

/-- The fields that an epoch end fixes, whether or not the channel is granted a player. -/
theorem Channel.GrantedOr.epoch {c d : Channel} (h : c.GrantedOr d) : d.sums = c.sums ∧ d.marks = c.marks ∧ d.lessee = c.lessee
    ∧ d.live = c.live ∧ d.watch = c.watch ∧ d.level = c.level := by
  rcases h with rfl | ⟨k, rfl⟩
  · exact ⟨rfl, rfl, rfl, rfl, rfl, rfl⟩
  · exact ⟨rfl, rfl, rfl, rfl, rfl, rfl⟩

/-- The watched fields once all work is done, of VACANT channels too. -/
theorem State.EpochRun.freeze {s v : State} {works : List EpochWork} (h : s.EpochRun v works) (perm : works.Perm s.epochWorks)
    (n : ChannelNo) : (v.chan n).watch.2 = (s.chan n).freezeAfter s.config := by
  have due := (perm.mem_iff (a := .engine n)).trans (mem_epochWorks_engine s n)
  rw [h.watch]
  by_cases occupied : (s.chan n).state ≠ .vacant
  · rw [if_pos (due.2 occupied)]
    rfl
  · rw [if_neg fun held => occupied (due.1 held), Channel.freezeAfter, if_pos (.inl (not_not.1 occupied))]
    rfl

theorem State.EpochRun.measured {s v : State} {works : List EpochWork} (h : s.EpochRun v works)
    (perm : works.Perm s.epochWorks) {n : ChannelNo} (occupied : (s.chan n).state ≠ .vacant) :
    (v.chan n).measured = (s.chan n).measuredAfter ∧ (v.chan n).level = (s.chan n).levelAfter s.config := by
  have watch := h.watch n
  have level := h.level n
  rw [if_pos ((perm.mem_iff (a := .engine n)).2 ((mem_epochWorks_engine s n).2 occupied))] at watch
  rw [if_pos ((perm.mem_iff (a := .level n)).2 ((mem_epochWorks_level s n).2 occupied))] at level
  exact ⟨congrArg Prod.fst watch, level⟩

theorem levelAfter_eq (cfg : SharedConfig) (c : Channel) : c.levelAfter cfg =
    match c.handed with
    | some m => c.level.judge cfg c.policy.lossCode m.receive
    | none => c.level := by
  unfold Channel.levelAfter
  cases c.handed <;> rfl

theorem settle_of_due {s : State} (playing : ∀ k play, s.play k = some play → play.remaining ≠ 0)
    (due : s.epochDue = true) : s.settle = s.epochEnd := by
  have still (k : PlayerNo) : s.endOfPlay k = s := by
    refine endOfPlay_of_not_ended s k ?_
    cases holds : s.play k with
    | none => rfl
    | some play => exact beq_eq_false_iff_ne.2 (playing k play holds)
  have all : allPlayers.foldl State.endOfPlay s = s := by
    simp only [allPlayers, List.foldl_cons, List.foldl_nil, still]
  unfold State.settle
  rw [all]
  exact if_pos due

/-- Settles O55: levels and the single steps, and the work of an epoch end in whatever order (`worked_run`). -/
theorem epochEnds : Obligations.EpochEnds := by
  refine ⟨levelOfEnergy_eq, handed_eq, fun s u n occupied connected => ?_, fun s o rest queue => ?_,
    fun s playing locked frames => ?_⟩
  · intro c₀ measured frozen
    have recorded : u.modChan n (Channel.record c₀.handed) = measured := by
      refine modChan_congr u n _ _ ?_
      unfold Channel.record
      cases c₀.handed with
      | none => rfl
      | some m => rfl
    rw [engineWork_of_call occupied connected, recorded]
  · exact ⟨fun more => advanceHead_goes_on queue more, fun last => advanceHead_completes queue last⟩
  · have due : s.epochDue = true := by simp [State.epochDue, locked, frames]
    have perm : s.workOrder.Perm s.epochWorks := rankSort_perm _ _
    have run := worked_run s.spendFree (works := s.workOrder) perm
    have within := epochEnd_within s
    have ended := epochEnd_grants (s := s) rfl run.free
    have sync : (s.spendFree.worked s.workOrder).highway.sync = .locked := by
      have worked := within_foldl s.spendFree.runWork (fun t w => runWork_within s.spendFree t w) s.workOrder
        (s.spendFree.modHighway Highway.nextEpoch)
      exact (congrArg Highway.sync worked.highway).trans locked
    have record (n : ChannelNo) := nextOpened_chan sync n
    obtain ⟨channels, opened⟩ := nextOpened_eq (s.spendFree.worked s.workOrder)
    have granted (n : ChannelNo) := grants_chan (s.spendFree.worked s.workOrder).nextOpened n
    have works : s.spendFree.worked s.workOrder
        = s.workOrder.foldl s.spendFree.runWork (s.spendFree.modHighway Highway.nextEpoch) := rfl
    rw [exec_epochEnd, settle_of_due playing due]
    generalize s.workOrder = order at *
    generalize s.spendFree.worked order = u at *
    have frame : s.epochEnd.ports = u.ports ∧ s.epochEnd.pool = u.pool ∧ s.epochEnd.mover = u.mover
        ∧ s.epochEnd.cache = u.cache ∧ s.epochEnd.parkCounter = u.parkCounter := by
      rw [ended, grants_ports, grants_pool, grants_mover, grants_cache, grants_parkCounter, opened]
      exact ⟨rfl, rfl, rfl, rfl, rfl⟩
    obtain ⟨ports, pool, mover, cache, counter⟩ := frame
    obtain ⟨joined, rollback, queue⟩ := run.mover
    rw [if_pos (perm.mem_iff.2 (by simp [State.epochWorks]))] at queue
    have plays (k : PlayerNo) (play : Play) (holds : s.play k = some play) : s.epochEnd.play k = some play.takeEpoch := by
      have after := run.play k
      rw [if_pos (perm.mem_iff.2 (by simp [State.epochWorks])), show s.spendFree.play k = some play from holds] at after
      rw [ended]
      refine grants_play_of_playing ?_
      rw [opened]
      exact after
    have chan (n : ChannelNo) : Channel.GrantedOr { u.chan n with
        sums := .zero, marks := ⟨0, false, s.epochEnd.mover.head?.any fun o => o.work.touchesLive n⟩ } (s.epochEnd.chan n) := by
      rw [mover, ← record, ended]
      exact granted n
    have close : s.epochEnd.Granted := by
      rw [ended]
      exact grants_granted _
    have highway : s.epochEnd.highway = { s.highway with epochFrames := 0, epochCounter := s.highway.epochCounter + 1 } :=
      within.highway
    generalize s.epochEnd = t at *
    refine ⟨t, rfl, highway, within.heard, within.pending, within.claim, within.config, within.timebase,
      cache.trans run.cache, counter.trans run.parkCounter, (congrArg Pool.free pool).trans run.free,
      (congrArg Pool.flag pool).trans run.flag, fun n => ?_, fun n => ?_, plays, ?_, joined, rollback, ?_⟩
    · obtain ⟨sums, marks, lessee, live, watch, level⟩ := (chan n).epoch
      refine ⟨sums, by rw [marks], by rw [marks], lessee.trans (run.lessee n), live.trans (run.live n), fun occupied => ?_⟩
      obtain ⟨measured, judged⟩ := run.measured perm occupied
      exact ⟨(congrArg Prod.fst watch).trans measured, (level.trans judged).trans (levelAfter_eq s.config (s.chan n))⟩
    · obtain ⟨-, -, -, -, watch, -⟩ := (chan n).epoch
      exact (congrArg Prod.snd watch).trans (run.freeze perm n)
    · refine ⟨order, u, perm, ?_, ports, pool, mover, close, chan⟩
      rw [highway, works]
      refine List.foldl_ext _ _ _ fun v w _ => ?_
      cases w <;> rfl
    · rw [mover, queue]
      rfl

end Sys2Proof.Machine

/-! One channel given up in the loss of its port (R140 steps 3 and 4): what a completed release, a drop at the hold limit and
an orphaning leave of the orders, the other channels, the stores and the notices. -/

namespace Sys2Proof.Machine

/-! ### Orders that touch a channel or not -/

theorem touchesLive_touches {w : Work} {n : ChannelNo} (apart : w.touches n = false) : w.touchesLive n = false := by
  rw [Work.touches, List.any_eq_false] at apart
  rw [Work.touchesLive, List.any_eq_false]
  exact fun r hr both => apart r hr (Bool.and_eq_true_iff.1 both).1

theorem snapshots_touch {w : Work} {n : ChannelNo} {id : Nat} (named : (n, id) ∈ w.snapshots) : w.touches n = true := by
  have shorter (names : List (ChannelNo × Nat)) (x : ChannelNo × Nat) (h : x ∈ match names with
      | [a, b] => if a = b then [a] else [a, b]
      | other => other) : x ∈ names := by
    split at h
    · next a b =>
      split at h
      · exact List.mem_cons.2 (.inl (List.mem_singleton.1 h))
      · exact h
    · exact h
  obtain ⟨r, held, is⟩ := List.mem_filterMap.1 (shorter _ _ named)
  refine List.any_eq_true.2 ⟨r, held, beq_iff_eq.2 ?_⟩
  split at is
  · cases is; rfl
  · cases is

theorem touches_channel (w : Work) : w.touches w.channel = true := by
  cases w <;> simp [Work.touches, Work.channel, Work.regions]

theorem touches_capture {n m : ChannelNo} {id : Nat} : (Work.capture n id).touches m = true ↔ n = m := by
  simp [Work.touches, Work.regions]

/-- Orders that do not touch a channel leave its record. -/
theorem afterAborts_untouched {orders : List Order} {n : ChannelNo} (apart : ∀ o ∈ orders, o.work.touches n = false)
    (c : Channel) : c.afterAborts orders n = c := by
  have ring : (c.ring.filter fun r => !orders.any fun o => o.work == .capture n r.id) = c.ring := by
    refine List.filter_eq_self.2 fun r _ => ?_
    rw [Bool.not_eq_true', List.any_eq_false]
    intro o ho is
    have touched : o.work.touches n = true := by rw [beq_iff_eq.1 is]; exact touches_capture.2 rfl
    rw [apart o ho] at touched
    cases touched
  have pins (r : Snapshot) : orders.countP (fun o => decide ((n, r.id) ∈ o.work.snapshots)) = 0 := by
    refine List.countP_eq_zero.2 fun o ho named => ?_
    have touched := snapshots_touch (of_decide_eq_true named)
    rw [apart o ho] at touched
    cases touched
  have rollback : orders.any (fun o => o.rollback && o.work.channel == n) = false := by
    refine List.any_eq_false.2 fun o ho own => ?_
    have touched := touches_channel o.work
    rw [beq_iff_eq.1 (Bool.and_eq_true_iff.1 own).2, apart o ho] at touched
    cases touched
  have map : c.ring.map (fun r => { r with pins := r.pins - 0 }) = c.ring := List.map_id _
  unfold Channel.afterAborts
  simp only [ring, pins, rollback, map]
  rfl

theorem abortOrders_untouched {s : State} {n : ChannelNo} (apart : ∀ o ∈ s.mover, o.work.touches n = false)
    (which : Order → Bool) : (s.abortOrders which).chan n = s.chan n := by
  have mover : ((s.mover.filter which).foldl (State.endEarly .aborted) (s.setMover (s.mover.filter fun o => !which o))).mover
      = s.mover.filter fun o => !which o := mover_foldl _ (fun s o => endEarly_mover .aborted s o) _ _
  have head : ((s.mover.filter which).foldl (State.endEarly .aborted)
      (s.setMover (s.mover.filter fun o => !which o))).mover.head?.any (fun o => o.work.touchesLive n) = false := by
    rw [mover]
    cases first : (s.mover.filter fun o => !which o).head? with
    | none => rfl
    | some o => exact touchesLive_touches (apart o (List.mem_of_mem_filter (List.mem_of_mem_head? first)))
  rw [State.abortOrders, markHead_chan, head, if_neg fun h => Bool.false_ne_true h.2, endEarlyAll_chan]
  exact afterAborts_untouched (fun o ho => apart o (List.mem_of_mem_filter ho)) (s.chan n)

/-! ### The segments of discarded records -/

theorem mem_discarded {c : Channel} {orders : List Order} {n : ChannelNo} {x : Nat} : x ∈ c.discarded orders n ↔
    ∃ r ∈ c.ring, (∃ o ∈ orders, o.work = .capture n r.id) ∧ x ∈ r.segments := by
  simp only [Channel.discarded, List.mem_flatMap, List.mem_filter, List.any_eq_true, beq_iff_eq, and_assoc]

/-- What orders discard of a channel, those of the first list first. -/
theorem mem_discarded_append (c : Channel) (n : ChannelNo) (a b : List Order) (x : Nat) :
    x ∈ c.discarded a n ∨ x ∈ (c.afterAborts a n).discarded b n ↔ x ∈ c.discarded (a ++ b) n := by
  simp only [mem_discarded, List.mem_append]
  constructor
  · rintro (⟨r, held, ⟨o, ho, is⟩, hx⟩ | ⟨_, held, ⟨o, ho, is⟩, hx⟩)
    · exact ⟨r, held, ⟨o, .inl ho, is⟩, hx⟩
    · obtain ⟨r, kept, rfl⟩ := List.mem_map.1 held
      exact ⟨r, List.mem_of_mem_filter kept, ⟨o, .inr ho, is⟩, hx⟩
  · rintro ⟨r, held, ⟨o, ho, is⟩, hx⟩
    by_cases early : ∃ o ∈ a, o.work = .capture n r.id
    · exact .inl ⟨r, held, early, hx⟩
    · refine .inr ⟨_, List.mem_map.2 ⟨r, List.mem_filter.2 ⟨held, ?_⟩, rfl⟩, ⟨o, ?_, is⟩, hx⟩
      · rw [Bool.not_eq_true', List.any_eq_false]
        exact fun o ho is => early ⟨o, ho, beq_iff_eq.1 is⟩
      · exact ho.resolve_left fun first => early ⟨o, first, is⟩

/-- The aborts return the segments of the records of aborted CAPTUREs, of whatever channel (R54, R117). -/
theorem abortOrders_returns_all (s : State) (which : Order → Bool) :
    s.Returns (s.abortOrders which) (allChannels.flatMap fun n => (s.chan n).discarded (s.mover.filter which) n) := by
  have one (u : State) (o : Order) :
      u.Returns (State.endEarly .aborted u o) (allChannels.flatMap fun n => (u.chan n).discarded [o] n) := by
    refine (endEarly_returns .aborted u o o.work.channel (touches_channel o.work)).congr fun x => ?_
    rw [List.mem_flatMap]
    constructor
    · exact fun h => ⟨_, mem_allChannels _, h⟩
    · rintro ⟨n, -, h⟩
      have is : o.work.channel = n := by
        obtain ⟨r, -, ⟨o', single, capture⟩, -⟩ := mem_discarded.1 h
        rw [← List.mem_singleton.1 single, capture]
        rfl
      rw [is]
      exact h
  have fold (orders : List Order) (u : State) : u.Returns (orders.foldl (State.endEarly .aborted) u)
      (allChannels.flatMap fun n => (u.chan n).discarded orders n) := by
    induction orders generalizing u with
    | nil =>
      refine (State.Returns.of_pool (s := u) rfl).congr fun x => iff_of_false List.not_mem_nil fun h => ?_
      obtain ⟨n, -, held⟩ := List.mem_flatMap.1 h
      simp [Channel.discarded] at held
    | cons o rest ih =>
      refine ((one u o).trans (ih (State.endEarly .aborted u o))).congr fun x => ?_
      rw [List.mem_append, List.mem_flatMap, List.mem_flatMap, List.mem_flatMap, ← exists_or]
      refine exists_congr fun n => ?_
      rw [← and_or_left, endEarly_afterAborts, mem_discarded_append]
      rfl
  exact (fold (s.mover.filter which) (s.setMover (s.mover.filter fun o => !which o))).same (markHead_pool _)

end Sys2Proof.Machine

/-! What one channel leaves that the loss of its port gives up (R140 steps 3 and 4): a release completed, a call dropped at the
hold limit, a call orphaned. -/

namespace Sys2Proof.Machine

/-! ### Orders that end in several steps -/

/-- Of the orders that end early, those that touch a channel decide what is left of its record, in whatever order. -/
theorem afterAborts_congr {orders orders' : List Order} {n : ChannelNo}
    (same : (orders.filter fun o => o.work.touches n).Perm (orders'.filter fun o => o.work.touches n)) (c : Channel) :
    c.afterAborts orders n = c.afterAborts orders' n := by
  have count {f : Order → Bool} (touching : ∀ o, f o = true → o.work.touches n = true) :
      orders.countP f = orders'.countP f := by
    have here (l : List Order) : l.countP f = (l.filter fun o => o.work.touches n).countP f := by
      rw [List.countP_filter]
      refine List.countP_congr fun o _ => ?_
      rw [Bool.and_eq_true]
      exact ⟨fun h => ⟨h, touching o h⟩, And.left⟩
    rw [here, here orders', same.countP_eq]
  have any {f : Order → Bool} (touching : ∀ o, f o = true → o.work.touches n = true) : orders.any f = orders'.any f := by
    rw [Bool.eq_iff_iff, List.any_eq_true, List.any_eq_true, ← List.countP_pos_iff, ← List.countP_pos_iff, count touching]
  have ring (r : Snapshot) : orders.any (fun o => o.work == .capture n r.id) = orders'.any fun o => o.work == .capture n r.id :=
    any fun o is => by rw [beq_iff_eq.1 is]; exact touches_capture.2 rfl
  have pins (r : Snapshot) : orders.countP (fun o => decide ((n, r.id) ∈ o.work.snapshots))
      = orders'.countP fun o => decide ((n, r.id) ∈ o.work.snapshots) :=
    count fun o named => snapshots_touch (of_decide_eq_true named)
  have rollback : orders.any (fun o => o.rollback && o.work.channel == n)
      = orders'.any fun o => o.rollback && o.work.channel == n :=
    any fun o own => by rw [← beq_iff_eq.1 (Bool.and_eq_true_iff.1 own).2]; exact touches_channel _
  unfold Channel.afterAborts
  simp only [ring, pins, rollback]

theorem Channel.OrdersEnded.congr {orders orders' : List Order} {n : ChannelNo} {c d : Channel}
    (h : c.OrdersEnded orders n d)
    (same : (orders.filter fun o => o.work.touches n).Perm (orders'.filter fun o => o.work.touches n)) :
    c.OrdersEnded orders' n d := by
  obtain ⟨marks, rfl⟩ := h
  exact ⟨marks, by rw [afterAborts_congr same]⟩

theorem Channel.OrdersEnded.trans {a b : List Order} {n : ChannelNo} {c d e : Channel} (h : c.OrdersEnded a n d)
    (h' : d.OrdersEnded b n e) : c.OrdersEnded (a ++ b) n e := by
  obtain ⟨marks, rfl⟩ := h
  obtain ⟨marks', rfl⟩ := h'
  exact ⟨marks', by rw [← afterAborts_append]; rfl⟩

/-- The orders that a first test takes, and of the rest those that a second takes, are those that either takes. -/
theorem filter_append_filter_perm (orders : List Order) (a b : Order → Bool) :
    (orders.filter a ++ (orders.filter fun o => !a o).filter b).Perm (orders.filter fun o => a o || b o) := by
  have first : (orders.filter fun o => a o || b o).filter a = orders.filter a := by
    rw [List.filter_filter]
    exact List.filter_congr fun o _ => by cases a o <;> simp
  have rest : (orders.filter fun o => a o || b o).filter (fun o => !a o) = (orders.filter fun o => !a o).filter b := by
    rw [List.filter_filter, List.filter_filter]
    exact List.filter_congr fun o _ => by cases a o <;> simp
  rw [← first, ← rest]
  exact List.filter_append_perm a _

/-! ### Notices that stay told -/

theorem told_foldl {α : Type} {q : Port} {x : Notice} (f : State → α → State)
    (h : ∀ (s : State) (a : α), (s.port q).Told x → ((f s a).port q).Told x) (items : List α) (s : State)
    (told : (s.port q).Told x) : ((items.foldl f s).port q).Told x := by
  induction items generalizing s with
  | nil => exact told
  | cons a rest ih => exact ih (f s a) (h s a told)

theorem endEarly_keeps_told {s : State} {q : Port} {x : Notice} (done : x.kind ≠ .moveDone) (how : OrderEnd) (o : Order)
    (told : (s.port q).Told x) : ((State.endEarly how s o).port q).Told x := by
  let u := (s.giveUp o.work).dropRollback o
  have same : u.port q = s.port q := by simp only [u, State.port, dropRollback_ports, giveUp_ports]
  show ((u.notifyLessee (some o.port) (moveDone o how o.progress)).port q).Told x
  exact told_notifyLessee_of_ne (by rw [same]; exact told) _ (key_ne_of_kind_ne (Ne.symm done))

theorem abortOrders_keeps_told {s : State} {q : Port} {x : Notice} (done : x.kind ≠ .moveDone) (which : Order → Bool)
    (told : (s.port q).Told x) : ((s.abortOrders which).port q).Told x := by
  have ended := told_foldl (State.endEarly .aborted) (fun _ o => endEarly_keeps_told done .aborted o) (s.mover.filter which)
    (s.setMover (s.mover.filter fun o => !which o)) told
  rw [State.abortOrders, State.port, markHead_ports]
  exact ended

theorem stripped_keeps_told {s : State} {q : Port} {x : Notice} (done : x.kind ≠ .moveDone) (n : ChannelNo)
    (told : (s.port q).Told x) : ((s.stripped n).port q).Told x := by
  rw [State.stripped, State.port, freePlayer_ports]
  exact abortOrders_keeps_told done _ told

theorem evict_keeps_told {s : State} {q : Port} {x : Notice} (evicted : x.kind ≠ .cacheEvicted) (reason : EvictReason)
    (e : CacheEntry) (told : (s.port q).Told x) : ((State.evict reason s e).port q).Told x := by
  unfold State.evict
  exact told_broadcast_of_ne (s := (s.setCache (s.cache.filter fun x => x.routeTag ≠ e.routeTag)).returnSegments e.segments) told
    (key_ne_of_kind_ne (Ne.symm evicted))

theorem roomFor_keeps_told {s : State} {q : Port} {x : Notice} (evicted : x.kind ≠ .cacheEvicted) (tag : Nat)
    (told : (s.port q).Told x) : ((s.roomFor tag).port q).Told x := by
  rw [State.roomFor, makeRoom_eq, evictSame_eq]
  exact told_foldl _ (fun _ e => evict_keeps_told evicted .full e) _ _
    (told_foldl _ (fun _ e => evict_keeps_told evicted .replaced e) _ _ told)

theorem vacate_keeps_told {s : State} {q : Port} {x : Notice} (done : x.kind ≠ .moveDone) (evicted : x.kind ≠ .cacheEvicted)
    (n : ChannelNo) (park : Bool) (told : (s.port q).Told x) : ((s.vacate n park).port q).Told x := by
  have stripped := stripped_keeps_told done n told
  rw [vacate_eq, State.port, modChan_ports, returnSegments_ports]
  generalize s.stripped n = u at stripped ⊢
  cases park with
  | false => exact stripped
  | true => exact roomFor_keeps_told evicted (u.chan n).policy.routeTag stripped

/-- Notices of two channels, not both of orders, have two keys (R166). -/
theorem key_ne_of_channel_ne {x y : Notice} (done : y.kind ≠ .moveDone) (other : x.channel ≠ y.channel) : x.key ≠ y.key := by
  by_cases same : x.kind = y.kind
  · unfold Notice.key
    rw [if_neg done, if_neg (by rw [same]; exact done)]
    intro key
    exact other (congrArg (fun k => k.2.1) key)
  · exact key_ne_of_kind_ne same

/-! ### What every channel given up leaves of the rest -/

/-- `t` is left where channel `n` was given up in `s`: every order that touches it gone, its place in the queue too, the other
channels as the orders leave them, and one that no order touches as it was. -/
structure State.GivesUp (s t : State) (n : ChannelNo) : Prop where
  within : s.Within t
  mover : t.mover = s.mover.filter fun o => !o.work.touches n
  others : ∀ m, m ≠ n → (s.chan m).OrdersEnded (s.ordersOn n) m (t.chan m)
  records : ∀ m, m ≠ n → (t.chan m).records = (s.chan m).records
  untouched : ∀ m, m ≠ n → (∀ o ∈ s.mover, o.work.touches m = false) → t.chan m = s.chan m
  unqueued : n ∉ t.probeQueue
  queue : ∀ m, m ∈ t.probeQueue → m ∈ s.probeQueue
  flag : t.pool.flag = s.pool.flag
  told : ∀ q x, x.kind ≠ .moveDone → x.kind ≠ .cacheEvicted → x.channel ≠ some n → (s.port q).Told x → (t.port q).Told x

/-- A broadcast about the channel itself. -/
theorem State.GivesUp.broadcast {s t : State} {n : ChannelNo} (h : s.GivesUp t n) {x : Notice} (own : x.channel = some n) :
    s.GivesUp (t.broadcast x) n where
  within := h.within.trans (broadcast_within t x)
  mover := by rw [broadcast_mover]; exact h.mover
  others m ne := by rw [chan_broadcast]; exact h.others m ne
  records m ne := by rw [chan_broadcast]; exact h.records m ne
  untouched m ne apart := by rw [chan_broadcast]; exact h.untouched m ne apart
  unqueued := by rw [broadcast_probeQueue]; exact h.unqueued
  queue m queued := h.queue m (by rwa [broadcast_probeQueue] at queued)
  flag := by rw [broadcast_pool]; exact h.flag
  told q y done evicted other told := by
    exact told_broadcast_of_ne (h.told q y done evicted other told)
      (key_ne_of_channel_ne done (by rw [own]; exact Ne.symm other))

theorem stripped_queue (s : State) (n : ChannelNo) :
    (s.stripped n).probeQueue = s.probeQueue.filter fun m => m ≠ n := by
  unfold State.stripped
  rw [freePlayer_probeQueue]
  show ((s.abortOrders fun o => o.work.touches n).probeQueue.filter fun m => m ≠ n) = _
  rw [(abortOrders_keeps s fun o => o.work.touches n).probeQueue]

theorem vacate_queue (s : State) (n : ChannelNo) (park : Bool) :
    (s.vacate n park).probeQueue = s.probeQueue.filter fun m => m ≠ n := by
  have stripped := stripped_queue s n
  rw [vacate_eq, modChan_probeQueue, returnSegments_probeQueue]
  generalize s.stripped n = u at stripped ⊢
  cases park with
  | false => exact stripped
  | true =>
    obtain ⟨-, -, queue, -⟩ := roomFor_calls u (u.chan n).policy.routeTag
    exact queue.trans stripped

theorem stripped_untouched {s : State} {n m : ChannelNo} (other : m ≠ n) (apart : ∀ o ∈ s.mover, o.work.touches m = false) :
    (s.stripped n).chan m = s.chan m := by
  unfold State.stripped
  rw [freePlayer_chan, if_neg (Ne.symm other)]
  exact abortOrders_untouched apart _

theorem vacate_givesUp (s : State) (n : ChannelNo) (park : Bool) : s.GivesUp (s.vacate n park) n := by
  have both : (∀ m, m ≠ n → (s.chan m).OrdersEnded (s.ordersOn n) m ((s.vacate n park).chan m)
      ∧ ((s.vacate n park).chan m).records = (s.chan m).records)
      ∧ (s.vacate n park).mover = s.mover.filter fun o => !o.work.touches n := by
    cases park with
    | false =>
      obtain ⟨-, others, mover, -⟩ := vacate_free s n
      exact ⟨others, mover⟩
    | true =>
      obtain ⟨-, others, mover, -⟩ := vacate_park s n
      exact ⟨others, mover⟩
  obtain ⟨others, mover⟩ := both
  refine ⟨vacate_within s n park, mover, fun m ne => (others m ne).1, fun m ne => (others m ne).2, fun m ne apart => ?_, ?_,
    fun m queued => ?_, vacate_flag s n park, fun q x done evicted _ told => vacate_keeps_told done evicted n park told⟩
  · rw [vacate_chan, if_neg (Ne.symm ne)]
    exact stripped_untouched ne apart
  · rw [vacate_queue]
    simp
  · rw [vacate_queue] at queued
    exact List.mem_of_mem_filter queued

/-! ### Orphaning -/

theorem freePlayer_leaveQueue (s : State) (n : ChannelNo) : (s.leaveQueue n).freePlayer n = (s.freePlayer n).leaveQueue n := by
  have chan : (s.leaveQueue n).chan n = s.chan n := rfl
  unfold State.freePlayer
  rw [chan]
  split
  · rfl
  · rfl

/-- An orphaning as a change of the record that `State.stripped` leaves. -/
theorem orphan_stripped (s : State) (p : Port) (n : ChannelNo) :
    s.orphan p n = ((s.stripped n).modChan n Channel.orphaned).broadcast ⟨.channelOrphaned, some n,
        [(p.val : Int), (s.chan n).state.item, ((s.chan n).holdCount + 1 : Nat), ((s.chan n).policy.holdLimit : Int)]⟩ := by
  rw [orphan_eq, ← freePlayer_leaveQueue]
  rfl

theorem stripped_flag (s : State) (n : ChannelNo) : (s.stripped n).pool.flag = s.pool.flag := by
  unfold State.stripped
  rw [freePlayer_pool]
  exact abortOrders_flag s _

theorem orphan_givesUp (s : State) (p : Port) (n : ChannelNo) : s.GivesUp (s.orphan p n) n := by
  obtain ⟨mover, unqueued, -, -⟩ := stripped_frame s n
  obtain ⟨-, others⟩ := stripped_chan s n
  obtain ⟨back, ends⟩ := stripped_ends s n
  have changed (m : ChannelNo) (ne : m ≠ n) : ((s.stripped n).modChan n Channel.orphaned).chan m = (s.stripped n).chan m :=
    chan_modChan_of_ne _ _ (Ne.symm ne)
  rw [orphan_stripped]
  refine State.GivesUp.broadcast ⟨(stripped_within s n).trans (modChan_within _ n _), mover, fun m ne => ?_, fun m ne => ?_,
    fun m ne apart => ?_, unqueued, fun m queued => ?_, stripped_flag s n, fun q x done _ _ told => ?_⟩ rfl
  · rw [changed m ne]; exact others m ne
  · rw [changed m ne]; exact ends.records m ne
  · rw [changed m ne]; exact stripped_untouched ne apart
  · rw [modChan_probeQueue, stripped_queue] at queued
    exact List.mem_of_mem_filter queued
  · rw [State.port, modChan_ports]
    exact stripped_keeps_told done n told

end Sys2Proof.Machine

/-! One channel of a lost port given up, in the words of `State.PortLost` (R140 to R143): its record, what it parks, what it
frees, what is told. -/

namespace Sys2Proof.Machine

/-! ### A channel given up -/

/-- The channel is in a release of the port. -/
def Channel.releaseOf (c : Channel) (p : Port) : Bool := c.lessee == some p && c.state == .releasing

/-- The channel is one that the loss of the port gives up. -/
def Channel.lostWith (c : Channel) (p : Port) : Bool := c.releaseOf p || c.isCallOf p

/-- The loss parks what the channel's live list holds. -/
def Channel.parksFor (c : Channel) (p : Port) : Bool := c.releaseOf p && c.parkEligible == some true

/-- The notice of a call that is lost: dropped at the hold limit, orphaned below it. -/
def Channel.lossNotice (c : Channel) (p : Port) (n : ChannelNo) : Notice :=
  if c.holdCount = c.policy.holdLimit then channelDropped n .holdLimit c.state.item c.holdCount
  else ⟨.channelOrphaned, some n, [(p.val : Int), c.state.item, (c.holdCount + 1 : Nat), (c.policy.holdLimit : Int)]⟩

/-- Steps 3 and 4 of R140 for one channel. -/
def State.giveUpChannel (p : Port) (s : State) (n : ChannelNo) : State :=
  if (s.chan n).releaseOf p = true then s.completeRelease n
  else if (s.chan n).holdCount = (s.chan n).policy.holdLimit then
    (s.vacate n false).broadcast (channelDropped n .holdLimit (s.chan n).state.item (s.chan n).holdCount)
  else s.orphan p n

/-- What giving a channel up leaves of its record: VACANT, or orphaned. -/
def State.GivenUp (s : State) (p : Port) (n : ChannelNo) (d : Channel) : Prop :=
  if (s.chan n).releaseOf p = true ∨ (s.chan n).holdCount = (s.chan n).policy.holdLimit then d = .vacant
  else ∃ c, (s.chan n).OrdersEnded (s.ordersOn n) n c ∧ d = ({ c with player := none } : Channel).orphaned

theorem loseCall_giveUp {p : Port} {s : State} {n : ChannelNo} (call : (s.chan n).releaseOf p = false) (counts : LossCounts) :
    State.loseCall p (s, counts) n = (s.giveUpChannel p n,
      if (s.chan n).holdCount = (s.chan n).policy.holdLimit then { counts with dropped := counts.dropped + 1 }
      else { counts with orphaned := counts.orphaned + 1 }) := by
  rw [loseCall_eq, State.giveUpChannel, call, if_neg Bool.false_ne_true]
  split <;> rfl

theorem giveUpChannel_givesUp (p : Port) (s : State) (n : ChannelNo) : s.GivesUp (s.giveUpChannel p n) n := by
  unfold State.giveUpChannel
  split
  · exact vacate_givesUp s n _
  · split
    · exact (vacate_givesUp s n false).broadcast rfl
    · exact orphan_givesUp s p n

theorem giveUpChannel_own (p : Port) (s : State) (n : ChannelNo) : s.GivenUp p n ((s.giveUpChannel p n).chan n) := by
  unfold State.giveUpChannel State.GivenUp
  by_cases release : (s.chan n).releaseOf p = true
  · rw [if_pos release, if_pos (.inl release), State.completeRelease, vacate_chan, if_pos rfl]
  · rw [if_neg release]
    by_cases limit : (s.chan n).holdCount = (s.chan n).policy.holdLimit
    · rw [if_pos limit, if_pos (.inr limit), chan_broadcast, vacate_chan, if_pos rfl]
    · rw [if_neg limit, if_neg (not_or.2 ⟨release, limit⟩)]
      obtain ⟨⟨c, ended, own⟩, -⟩ := stripped_chan s n
      exact ⟨c, ended, by rw [orphan_stripped, chan_broadcast, chan_modChan_self, own]⟩

theorem giveUpChannel_told {p : Port} {s : State} {n : ChannelNo} (call : (s.chan n).releaseOf p = false) {q : Port}
    (joined : (s.port q).joined = true) : ((s.giveUpChannel p n).port q).Told ((s.chan n).lossNotice p n) := by
  unfold State.giveUpChannel Channel.lossNotice
  rw [call, if_neg Bool.false_ne_true]
  split
  · exact told_broadcast (by rw [(vacate_within s n false).heard.joined]; exact joined) _
  · rw [orphan_stripped]
    exact told_broadcast (by rw [((stripped_within s n).trans (modChan_within _ n _)).heard.joined]; exact joined) _

/-! ### Parks, in the words of the ledger -/

/-- The ledger of a cache and a park counter, nothing parked yet. -/
def State.openLedger (s : State) : ParkLedger := ⟨s.cache, s.parkCounter, [], []⟩

/-- What the loss of the port puts into the ledger for one channel. -/
def State.ledgerFor (s : State) (p : Port) (l : ParkLedger) (n : ChannelNo) : ParkLedger :=
  if (s.chan n).parksFor p = true then l.park s.timebase (s.chan n) else l

theorem roomLeft_eq_tail {entries : List CacheEntry} (tags : (entries.map CacheEntry.routeTag).Nodup) :
    roomLeft entries = if 16 ≤ entries.length then entries.tail else entries := by
  cases entries with
  | nil => rfl
  | cons oldest rest =>
    obtain ⟨alone, -⟩ := List.nodup_cons.1 tags
    have others : rest.filter (fun e => decide (e.routeTag ≠ oldest.routeTag)) = rest :=
      List.filter_eq_self.2 fun e he => decide_eq_true fun same => alone (List.mem_map.2 ⟨e, he, same⟩)
    unfold roomLeft
    dsimp only
    split
    · rw [List.filter_cons_of_neg (by simp), others, List.tail_cons]
    · rfl

/-- The parts of one park. -/
theorem park_eq {s : State} (tags : (s.cache.map CacheEntry.routeTag).Nodup) (c : Channel) :
    (s.openLedger.park s.timebase c).cache = roomLeft (s.cache.filter fun e => e.routeTag ≠ c.policy.routeTag)
        ++ [c.cacheEntry (nextParkNumber s.parkCounter) s.timebase]
      ∧ (s.openLedger.park s.timebase c).counter = nextParkNumber s.parkCounter
      ∧ (∀ x, x ∈ (s.openLedger.park s.timebase c).freed
          ↔ x ∈ (parkedOut s.cache c.policy.routeTag).flatMap (·.segments))
      ∧ (s.openLedger.park s.timebase c).told = parkNotices s.cache c.policy.routeTag := by
  have room := roomLeft_eq_tail (entries := s.cache.filter fun e => decide (e.routeTag ≠ c.policy.routeTag))
    (tags.sublist (List.filter_sublist.map _))
  refine ⟨?_, rfl, fun x => ?_, rfl⟩
  · rw [room]
    rfl
  · show x ∈ [] ++ (s.cache.filter fun e => !(if 16 ≤ (s.cache.filter fun e => decide (e.routeTag ≠ c.policy.routeTag)).length
      then (s.cache.filter fun e => decide (e.routeTag ≠ c.policy.routeTag)).tail
      else s.cache.filter fun e => decide (e.routeTag ≠ c.policy.routeTag)).contains e).flatMap (·.segments) ↔ _
    rw [List.nil_append, ← room, List.mem_flatMap, List.mem_flatMap]
    refine exists_congr fun e => and_congr_left fun _ => ?_
    rw [List.mem_filter, Bool.not_eq_true', List.contains_eq_mem, decide_eq_false_iff_not]
    exact ⟨fun h => gone_parkedOut tags h.1 h.2, parkedOut_gone⟩

/-- A later park goes on from the cache and the counter, and adds to what was freed and told. -/
theorem park_append (l : ParkLedger) (now : Word32) (c : Channel) :
    l.park now c = ⟨((⟨l.cache, l.counter, [], []⟩ : ParkLedger).park now c).cache,
      ((⟨l.cache, l.counter, [], []⟩ : ParkLedger).park now c).counter,
      l.freed ++ ((⟨l.cache, l.counter, [], []⟩ : ParkLedger).park now c).freed,
      l.told ++ ((⟨l.cache, l.counter, [], []⟩ : ParkLedger).park now c).told⟩ := rfl

theorem ledgerFor_append {s : State} {l : ParkLedger} (cache : l.cache = s.cache) (counter : l.counter = s.parkCounter)
    (p : Port) (n : ChannelNo) : s.ledgerFor p l n = ⟨(s.ledgerFor p s.openLedger n).cache,
      (s.ledgerFor p s.openLedger n).counter, l.freed ++ (s.ledgerFor p s.openLedger n).freed,
      l.told ++ (s.ledgerFor p s.openLedger n).told⟩ := by
  unfold State.ledgerFor
  split
  · rw [park_append, cache, counter]
    rfl
  · rw [State.openLedger, ← cache, ← counter, List.append_nil, List.append_nil]

/-! ### What the loss frees of one channel -/

theorem releaseOf_iff {c : Channel} {p : Port} : c.releaseOf p = true ↔ c.lessee = some p ∧ c.state = .releasing := by
  rw [Channel.releaseOf, Bool.and_eq_true, beq_iff_eq, beq_iff_eq]

theorem isCallOf_iff {c : Channel} {p : Port} : c.isCallOf p = true ↔ c.lessee = some p ∧ c.state.inCall = true := by
  rw [Channel.isCallOf, Bool.and_eq_true, beq_iff_eq]

theorem releaseOf_of_call {c : Channel} {p : Port} (call : c.isCallOf p = true) : c.releaseOf p = false := by
  rw [← Bool.not_eq_true, releaseOf_iff]
  rintro ⟨-, releasing⟩
  have inCall := (isCallOf_iff.1 call).2
  rw [releasing] at inCall
  cases inCall

theorem lossFrees_eq (s : State) (p : Port) (n : ChannelNo) : s.lossFrees p n =
    if (s.chan n).releaseOf p = true then
      if (s.chan n).parkEligible = some true then (s.chan n).ringSegments else (s.chan n).segments
    else if (s.chan n).isCallOf p = true ∧ (s.chan n).holdCount = (s.chan n).policy.holdLimit then (s.chan n).segments
    else (s.chan n).discarded (s.lossAborts p) n := by
  unfold State.lossFrees
  simp only [releaseOf_iff]
  rfl

/-- The orders that the loss of a port aborts, one by one. -/
theorem mem_lossAborts {s : State} {p : Port} {o : Order} : o ∈ s.lossAborts p ↔
    o ∈ s.mover ∧ (o.port = p ∨ ∃ n, o.work.touches n = true ∧ (s.chan n).lostWith p = true) := by
  have one (n : ChannelNo) : (o.work.touches n && (s.chan n).lessee == some p
      && ((s.chan n).state == .releasing || (s.chan n).state.inCall)) = (o.work.touches n && (s.chan n).lostWith p) := by
    unfold Channel.lostWith Channel.releaseOf Channel.isCallOf
    cases (s.chan n).lessee == some p <;> simp
  simp only [State.lossAborts, List.mem_filter, Bool.or_eq_true, beq_iff_eq, one, List.any_eq_true, Bool.and_eq_true]
  exact and_congr_right fun _ => or_congr_right (exists_congr fun n => and_iff_right (mem_allChannels n))

/-- The CAPTUREs of a channel decide what is discarded of it. -/
theorem mem_discarded_congr {c : Channel} {a b : List Order} {n : ChannelNo}
    (same : ∀ (o : Order) (id : Nat), o.work = .capture n id → (o ∈ a ↔ o ∈ b)) (x : Nat) :
    x ∈ c.discarded a n ↔ x ∈ c.discarded b n := by
  rw [mem_discarded, mem_discarded]
  exact exists_congr fun r => and_congr_right fun _ => and_congr_left fun _ => exists_congr fun o =>
    and_congr_left fun is => same o r.id is

theorem orphan_returns {p : Port} {s : State} {n : ChannelNo} (lost : (s.chan n).lostWith p = true) :
    s.Returns (s.orphan p n) ((s.chan n).discarded (s.lossAborts p) n) := by
  have pool : (s.orphan p n).pool = (s.abortOrders fun o => o.work.touches n).pool := by
    rw [orphan_stripped, broadcast_pool, modChan_pool, State.stripped, freePlayer_pool]
    rfl
  refine ((abortOrders_returns s n).same pool).congr fun x => mem_discarded_congr (fun o id is => ?_) x
  have touches : o.work.touches n = true := by rw [is]; exact touches_capture.2 rfl
  rw [mem_lossAborts, State.ordersOn, List.mem_filter]
  exact and_congr_right fun _ => iff_of_true touches (.inr ⟨n, touches, lost⟩)

/-! ### The stores -/

/-- What giving a channel up leaves of the stores, where no two entries of the cache have one tag. -/
structure State.StoresGiven (s t : State) (p : Port) (n : ChannelNo) : Prop where
  tags : (t.cache.map CacheEntry.routeTag).Nodup
  cache : t.cache = (s.ledgerFor p s.openLedger n).cache
  counter : t.parkCounter = (s.ledgerFor p s.openLedger n).counter
  returns : s.Returns t ((s.ledgerFor p s.openLedger n).freed ++ s.lossFrees p n)
  raised : ∀ q, (s.port q).joined = true →
    s.Raised t q (abortNotices (s.ordersOn n) q) (s.ledgerFor p s.openLedger n).told

/-- A channel given up with nothing parked. -/
theorem storesGiven_of_kept {s t : State} {p : Port} {n : ChannelNo} (tags : (s.cache.map CacheEntry.routeTag).Nodup)
    (parks : (s.chan n).parksFor p = false) (cache : t.cache = s.cache) (counter : t.parkCounter = s.parkCounter)
    (returns : s.Returns t (s.lossFrees p n))
    (raised : ∀ q, (s.port q).joined = true → s.Raised t q (abortNotices (s.ordersOn n) q) []) : s.StoresGiven t p n := by
  have ledger : s.ledgerFor p s.openLedger n = s.openLedger := by rw [State.ledgerFor, parks, if_neg Bool.false_ne_true]
  refine ⟨by rw [cache]; exact tags, ?_, ?_, ?_, ?_⟩
  · rw [ledger]; exact cache
  · rw [ledger]; exact counter
  · rw [ledger]; exact returns
  · rw [ledger]; exact raised

theorem roomLeft_fresh {entries : List CacheEntry} (tags : (entries.map CacheEntry.routeTag).Nodup) {e : CacheEntry} {tag : Nat}
    (own : e.routeTag = tag) :
    ((roomLeft (entries.filter fun e => decide (e.routeTag ≠ tag)) ++ [e]).map CacheEntry.routeTag).Nodup := by
  have sub := (roomLeft_sublist (entries.filter fun e => decide (e.routeTag ≠ tag)))
  rw [List.map_append, List.nodup_append]
  refine ⟨tags.sublist ((sub.trans List.filter_sublist).map _), List.nodup_singleton _, ?_⟩
  intro a ha b hb same
  obtain ⟨x, hx, rfl⟩ := List.mem_map.1 ha
  have kept := of_decide_eq_true (List.mem_filter.1 (sub.subset hx)).2
  rw [List.map_singleton, List.mem_singleton] at hb
  exact kept (same.trans (hb.trans own))

theorem giveUpChannel_stores {p : Port} {s : State} {n : ChannelNo} (lost : (s.chan n).lostWith p = true)
    (tags : (s.cache.map CacheEntry.routeTag).Nodup) : s.StoresGiven (s.giveUpChannel p n) p n := by
  unfold State.giveUpChannel
  have frees := lossFrees_eq s p n
  by_cases release : (s.chan n).releaseOf p = true
  · rw [if_pos release] at frees ⊢
    rw [completeRelease_eq]
    by_cases park : (s.chan n).parkEligible = some true
    · rw [if_pos park] at frees ⊢
      have parks : (s.chan n).parksFor p = true := by rw [Channel.parksFor, release, park]; rfl
      have ledger : s.ledgerFor p s.openLedger n = s.openLedger.park s.timebase (s.chan n) := by
        rw [State.ledgerFor, if_pos parks]
      obtain ⟨-, -, -, -, returns, cache, counter⟩ := vacate_park s n
      obtain ⟨parkCache, parkCounter, parkFreed, parkTold⟩ := park_eq tags (s.chan n)
      refine ⟨?_, ?_, ?_, ?_, fun q joined => ?_⟩
      · rw [cache]
        exact roomLeft_fresh tags rfl
      · rw [ledger, parkCache, cache]
      · rw [ledger, parkCounter, counter]
      · refine returns.congr fun x => ?_
        rw [ledger, List.mem_append, List.mem_append, parkFreed, frees]
        exact or_comm
      · rw [ledger, parkTold]
        exact vacate_park_raised tags n joined
    · rw [if_neg park] at frees ⊢
      obtain ⟨-, -, -, -, returns, cache, counter⟩ := vacate_free s n
      refine storesGiven_of_kept tags ?_ cache counter (by rw [frees]; exact returns) fun q => vacate_free_raised s n
      rw [Channel.parksFor, release, beq_eq_false_iff_ne.2 park]
      rfl
  · rw [if_neg release] at frees ⊢
    have call : (s.chan n).isCallOf p = true := (Bool.or_eq_true_iff.1 lost).resolve_left release
    have parks : (s.chan n).parksFor p = false := by rw [Channel.parksFor, releaseOf_of_call call]; rfl
    by_cases limit : (s.chan n).holdCount = (s.chan n).policy.holdLimit
    · rw [if_pos ⟨call, limit⟩] at frees
      rw [if_pos limit]
      obtain ⟨-, -, -, -, returns, cache, counter⟩ := vacate_free s n
      refine storesGiven_of_kept tags parks ?_ ?_ ?_ fun q joined => ?_
      · rw [broadcast_cache, cache]
      · rw [broadcast_parkCounter, counter]
      · rw [frees]
        exact returns.same (broadcast_pool _ _)
      · have all := (vacate_free_raised s n joined).trans (broadcast_raises_none (s.vacate n false)
          (n := channelDropped n .holdLimit (s.chan n).state.item (s.chan n).holdCount)
          (by rw [(vacate_within s n false).heard.joined]; exact joined) nofun nofun)
        rwa [List.append_nil, List.append_nil] at all
    · rw [if_neg fun h => limit h.2] at frees
      rw [if_neg limit]
      obtain ⟨-, -, cache, counter⟩ := stripped_frame s n
      refine storesGiven_of_kept tags parks ?_ ?_ ?_ fun q joined => ?_
      · rw [orphan_stripped, broadcast_cache]
        exact cache
      · rw [orphan_stripped, broadcast_parkCounter]
        exact counter
      · rw [frees]
        exact orphan_returns lost
      · have orphaned := (stripped_raised s n joined).then_same (modChan_ports (s.stripped n) n Channel.orphaned)
        rw [orphan_stripped]
        have all := orphaned.trans (broadcast_raises_none ((s.stripped n).modChan n Channel.orphaned)
          (n := ⟨.channelOrphaned, some n, [(p.val : Int), (s.chan n).state.item, ((s.chan n).holdCount + 1 : Nat),
            ((s.chan n).policy.holdLimit : Int)]⟩)
          (by rw [((stripped_within s n).trans (modChan_within _ n _)).heard.joined]; exact joined) nofun nofun)
        rwa [List.append_nil, List.append_nil] at all

end Sys2Proof.Machine

/-! The channels of a lost port given up one after the other (R140 steps 3 and 4): what the releases and calls already given up
have left. -/

namespace Sys2Proof.Machine

/-! ### What the end of orders leaves of the record -/

section

variable {orders : List Order} {n : ChannelNo} {c d : Channel}

theorem Channel.OrdersEnded.releaseOf (h : c.OrdersEnded orders n d) (p : Port) : d.releaseOf p = c.releaseOf p := by
  obtain ⟨_, rfl⟩ := h
  rfl

theorem Channel.OrdersEnded.isCallOf (h : c.OrdersEnded orders n d) (p : Port) : d.isCallOf p = c.isCallOf p := by
  obtain ⟨_, rfl⟩ := h
  rfl

theorem Channel.OrdersEnded.lostWith (h : c.OrdersEnded orders n d) (p : Port) : d.lostWith p = c.lostWith p := by
  obtain ⟨_, rfl⟩ := h
  rfl

theorem Channel.OrdersEnded.lossNotice (h : c.OrdersEnded orders n d) (p : Port) (m : ChannelNo) :
    d.lossNotice p m = c.lossNotice p m := by
  obtain ⟨_, rfl⟩ := h
  rfl

/-- The hold count is at the limit, or not, as it was. -/
theorem Channel.OrdersEnded.limit (h : c.OrdersEnded orders n d) :
    d.holdCount = d.policy.holdLimit ↔ c.holdCount = c.policy.holdLimit := by
  obtain ⟨_, rfl⟩ := h
  exact Iff.rfl

end

theorem ledgerFor_of_ended {s t : State} {orders : List Order} {n : ChannelNo} (h : (s.chan n).OrdersEnded orders n (t.chan n))
    (timebase : t.timebase = s.timebase) (p : Port) (l : ParkLedger) : t.ledgerFor p l n = s.ledgerFor p l n := by
  obtain ⟨_, e⟩ := h
  unfold State.ledgerFor
  rw [e, timebase]
  rfl

theorem ringSegments_of_records {c d : Channel} (h : d.records = c.records) : d.ringSegments = c.ringSegments := by
  have one (c : Channel) : c.ringSegments = c.records.flatMap (·.segments) := by
    rw [Channel.ringSegments, Channel.records, List.flatMap_map]
  rw [one, h, ← one]

theorem discarded_of_records {c d : Channel} (h : d.records = c.records) (orders : List Order) (n : ChannelNo) :
    d.discarded orders n = c.discarded orders n := by
  have one (c : Channel) : c.discarded orders n =
      (c.records.filter fun r => orders.any fun o => o.work == .capture n r.id).flatMap (·.segments) := by
    rw [Channel.discarded, Channel.records, List.filter_map, List.flatMap_map]
    rfl
  rw [one, h, ← one]

/-! ### The channels given up so far -/

/-- The ledger of the parks among channels given up one after the other. -/
def State.lossLedger (s : State) (p : Port) (gone : List ChannelNo) : ParkLedger :=
  gone.foldl (s.ledgerFor p) s.openLedger

/-- `t` is left where the channels `gone` of port `p` were given up in `s`, one after the other. -/
structure State.GaveUp (s t : State) (p : Port) (gone : List ChannelNo) : Prop where
  within : s.Within t
  mover : t.mover = s.mover.filter fun o => !gone.any o.work.touches
  others : ∀ m, m ∉ gone → (s.chan m).OrdersEnded (s.mover.filter fun o => gone.any o.work.touches) m (t.chan m)
  records : ∀ m, m ∉ gone → (t.chan m).records = (s.chan m).records
  own : ∀ m, m ∈ gone → s.GivenUp p m (t.chan m)
  unqueued : ∀ m, m ∈ gone → m ∉ t.probeQueue
  flag : t.pool.flag = s.pool.flag
  told : ∀ m q, m ∈ gone → (s.chan m).isCallOf p = true → (s.port q).joined = true →
    (t.port q).Told ((s.chan m).lossNotice p m)

/-- What the channels given up leave of the stores. -/
structure State.StoresGone (s t : State) (p : Port) (gone : List ChannelNo) : Prop where
  tags : (t.cache.map CacheEntry.routeTag).Nodup
  cache : t.cache = (s.lossLedger p gone).cache
  counter : t.parkCounter = (s.lossLedger p gone).counter
  returns : s.Returns t ((s.lossLedger p gone).freed ++ gone.flatMap (s.lossFrees p))
  raised : ∀ q, (s.port q).joined = true →
    s.Raised t q (abortNotices (abortSequence s.mover gone) q) (s.lossLedger p gone).told

theorem State.GaveUp.refl (s : State) (p : Port) : s.GaveUp s p [] where
  within := .refl s
  mover := (List.filter_eq_self.2 fun _ _ => rfl).symm
  others m _ := ⟨(s.chan m).marks, by
    rw [List.filter_eq_nil_iff.2 fun _ _ => by simp, afterAborts_nil]⟩
  records _ _ := rfl
  own _ h := nomatch h
  unqueued _ h := nomatch h
  flag := rfl
  told _ _ h := nomatch h

theorem State.StoresGone.refl {s : State} (tags : (s.cache.map CacheEntry.routeTag).Nodup) (p : Port) :
    s.StoresGone s p [] :=
  ⟨tags, rfl, rfl, .of_pool rfl, fun _ _ => .of_port rfl⟩

theorem any_append_singleton (gone : List ChannelNo) (n : ChannelNo) (f : ChannelNo → Bool) :
    (gone ++ [n]).any f = (gone.any f || f n) := by
  rw [List.any_append, List.any_cons, List.any_nil, Bool.or_false]

/-- The orders that the channels already given up ended, and those that the next one ends. -/
theorem orders_next {s t : State} {p : Port} {gone : List ChannelNo} (h : s.GaveUp t p gone) (n : ChannelNo) :
    ((s.mover.filter fun o => gone.any o.work.touches) ++ t.ordersOn n).Perm
      (s.mover.filter fun o => (gone ++ [n]).any o.work.touches) := by
  rw [State.ordersOn, h.mover]
  simp only [any_append_singleton]
  exact filter_append_filter_perm s.mover (fun o => gone.any o.work.touches) fun o => o.work.touches n

theorem State.GaveUp.givenUp {s t : State} {p : Port} {gone : List ChannelNo} (h : s.GaveUp t p gone) {n : ChannelNo}
    (fresh : n ∉ gone) {d : Channel} (given : t.GivenUp p n d) : s.GivenUp p n d := by
  have ended := h.others n fresh
  unfold State.GivenUp at given ⊢
  simp only [ended.releaseOf, ended.limit] at given
  split
  · next vacant => rwa [if_pos vacant] at given
  · next orphan =>
    rw [if_neg orphan] at given
    obtain ⟨c, later, own⟩ := given
    refine ⟨c, (ended.trans later).congr ?_, own⟩
    refine ((orders_next h n).filter _).trans (List.Perm.of_eq ?_)
    rw [State.ordersOn, List.filter_filter, List.filter_filter]
    refine List.filter_congr fun o _ => ?_
    rw [any_append_singleton]
    cases o.work.touches n <;> simp

theorem State.GaveUp.next {s t : State} {p : Port} {gone : List ChannelNo} (h : s.GaveUp t p gone) {n : ChannelNo}
    (fresh : n ∉ gone) : s.GaveUp (t.giveUpChannel p n) p (gone ++ [n]) := by
  have given := giveUpChannel_givesUp p t n
  have own := giveUpChannel_own p t n
  have told (call : (t.chan n).releaseOf p = false) {q : Port} (joined : (t.port q).joined = true) :=
    giveUpChannel_told call joined
  generalize t.giveUpChannel p n = u at given own told ⊢
  have apart {m : ChannelNo} (before : m ∈ gone) : ∀ o ∈ t.mover, o.work.touches m = false := by
    intro o ho
    rw [h.mover] at ho
    have none := List.any_eq_false.1 ((Bool.not_eq_true' _).mp (List.mem_filter.1 ho).2) m before
    exact Bool.eq_false_iff.2 none
  have ne {m : ChannelNo} (before : m ∈ gone) : m ≠ n := fun same => fresh (same ▸ before)
  refine ⟨h.within.trans given.within, ?_, fun m after => ?_, fun m after => ?_, fun m before => ?_, fun m before => ?_,
    given.flag.trans h.flag, fun m q before call joined => ?_⟩
  · rw [given.mover, h.mover, List.filter_filter]
    refine List.filter_congr fun o _ => ?_
    rw [any_append_singleton, Bool.not_or, Bool.and_comm]
  · rw [List.mem_append, List.mem_singleton, not_or] at after
    exact ((h.others m after.1).trans (given.others m after.2)).congr ((orders_next h n).filter _)
  · rw [List.mem_append, List.mem_singleton, not_or] at after
    exact (given.records m after.2).trans (h.records m after.1)
  · rcases List.mem_append.1 before with before | last
    · rw [given.untouched m (ne before) (apart before)]
      exact h.own m before
    · rw [List.mem_singleton.1 last]
      exact h.givenUp fresh own
  · rcases List.mem_append.1 before with before | last
    · exact fun queued => h.unqueued m before (given.queue m queued)
    · rw [List.mem_singleton.1 last]
      exact given.unqueued
  · rcases List.mem_append.1 before with before | last
    · refine given.told q _ ?_ ?_ ?_ (h.told m q before call joined)
      · unfold Channel.lossNotice; split <;> exact nofun
      · unfold Channel.lossNotice; split <;> exact nofun
      · have channel : ((s.chan m).lossNotice p m).channel = some m := by unfold Channel.lossNotice; split <;> rfl
        rw [channel]
        exact fun same => ne before (Option.some.inj same)
    · obtain rfl := List.mem_singleton.1 last
      have ended := h.others m fresh
      rw [← ended.lossNotice]
      refine told ?_ (by rw [h.within.heard.joined]; exact joined)
      rw [ended.releaseOf]
      exact releaseOf_of_call call

theorem abortSequence_append (orders : List Order) (gone : List ChannelNo) (n : ChannelNo) :
    abortSequence orders (gone ++ [n]) = abortSequence orders gone
      ++ (orders.filter fun o => !gone.any o.work.touches).filter fun o => o.work.touches n := by
  induction gone generalizing orders with
  | nil => simp [abortSequence]
  | cons m rest ih =>
    have left : (orders.filter fun o => !o.work.touches m).filter (fun o => !rest.any o.work.touches)
        = orders.filter fun o => !(m :: rest).any o.work.touches := by
      rw [List.filter_filter]
      refine List.filter_congr fun o _ => ?_
      rw [List.any_cons, Bool.not_or, Bool.and_comm]
    rw [List.cons_append, abortSequence, ih, left, abortSequence, List.append_assoc]

theorem abortNotices_append (a b : List Order) (q : Port) :
    abortNotices (a ++ b) q = abortNotices a q ++ abortNotices b q := by
  rw [abortNotices, List.filter_append, List.map_append]
  rfl

/-- A channel still to be given up frees what it would have freed first. -/
theorem State.GaveUp.frees {s t : State} {p : Port} {gone : List ChannelNo} (h : s.GaveUp t p gone) {n : ChannelNo}
    (fresh : n ∉ gone) (lost : (s.chan n).lostWith p = true) (x : Nat) : x ∈ t.lossFrees p n ↔ x ∈ s.lossFrees p n := by
  have ended := h.others n fresh
  have records := h.records n fresh
  have ring := ringSegments_of_records records
  have segments : (t.chan n).segments = (s.chan n).segments := by
    show (t.chan n).live ++ (t.chan n).ringSegments = (s.chan n).live ++ (s.chan n).ringSegments
    rw [ring, ended.fields.1]
  have eligible : (t.chan n).parkEligible = (s.chan n).parkEligible := by
    obtain ⟨-, -, -, -, -, -, -, -, -, eligible, -⟩ := ended.fields
    exact eligible
  have discarded : x ∈ (t.chan n).discarded (t.lossAborts p) n ↔ x ∈ (s.chan n).discarded (s.lossAborts p) n := by
    rw [discarded_of_records records]
    refine mem_discarded_congr (fun o id is => ?_) x
    have touches : o.work.touches n = true := by rw [is]; exact touches_capture.2 rfl
    have kept : o ∈ t.mover ↔ o ∈ s.mover := by
      rw [h.mover, List.mem_filter, Bool.not_eq_true', List.any_eq_false]
      refine and_iff_left fun m before touched => fresh ?_
      rw [is] at touched
      rwa [touches_capture.1 touched]
    rw [mem_lossAborts, mem_lossAborts, kept]
    refine and_congr_right fun _ => iff_of_true (.inr ⟨n, touches, ?_⟩) (.inr ⟨n, touches, lost⟩)
    rw [ended.lostWith]
    exact lost
  rw [lossFrees_eq, lossFrees_eq]
  simp only [ended.releaseOf, ended.isCallOf, ended.limit, ring, segments, eligible]
  split
  · exact Iff.rfl
  · split
    · exact Iff.rfl
    · exact discarded

theorem State.StoresGone.next {s t : State} {p : Port} {gone : List ChannelNo} (i : s.StoresGone t p gone)
    (h : s.GaveUp t p gone) {n : ChannelNo} (fresh : n ∉ gone) (lost : (s.chan n).lostWith p = true) :
    s.StoresGone (t.giveUpChannel p n) p (gone ++ [n]) := by
  have ended := h.others n fresh
  have given := giveUpChannel_stores (p := p) (s := t) (n := n) (by rw [ended.lostWith]; exact lost) i.tags
  have ledger : s.lossLedger p (gone ++ [n]) = ⟨(t.ledgerFor p t.openLedger n).cache, (t.ledgerFor p t.openLedger n).counter,
      (s.lossLedger p gone).freed ++ (t.ledgerFor p t.openLedger n).freed,
      (s.lossLedger p gone).told ++ (t.ledgerFor p t.openLedger n).told⟩ := by
    rw [← ledgerFor_append i.cache.symm i.counter.symm, ledgerFor_of_ended ended h.within.timebase, State.lossLedger,
      List.foldl_append]
    rfl
  generalize t.giveUpChannel p n = u at given ⊢
  refine ⟨given.tags, by rw [ledger]; exact given.cache, by rw [ledger]; exact given.counter, ?_, fun q joined => ?_⟩
  · refine (i.returns.trans given.returns).congr fun x => ?_
    have frees := h.frees fresh lost x
    rw [ledger]
    simp only [List.mem_append, List.flatMap_append, List.flatMap_singleton, frees]
    exact or_or_or_comm
  · have raised := (i.raised q joined).trans (given.raised q (by rw [h.within.heard.joined]; exact joined))
    rw [ledger, abortSequence_append, abortNotices_append, ← h.mover]
    exact raised

/-! ### The releases, then the calls -/

/-- A fold that keeps a statement about the items taken so far and the value reached. -/
theorem foldl_taken {α β : Type} (f : β → α → β) (holds : List α → β → Prop) (items : List α)
    (next : ∀ gone v a, a ∈ items → a ∉ gone → holds gone v → holds (gone ++ [a]) (f v a)) (gone : List α) (v : β)
    (distinct : (gone ++ items).Nodup) (start : holds gone v) : holds (gone ++ items) (items.foldl f v) := by
  induction items generalizing gone v with
  | nil => rwa [List.append_nil]
  | cons a rest ih =>
    have fresh : a ∉ gone := fun before => (List.nodup_append.1 distinct).2.2 a before a List.mem_cons_self rfl
    have more := ih (fun gone v b hb => next gone v b (List.mem_cons_of_mem _ hb)) (gone ++ [a]) (f v a)
      (by rwa [List.append_assoc, List.singleton_append]) (next gone v a List.mem_cons_self fresh start)
    rwa [List.append_assoc, List.singleton_append] at more

/-- Channels and stores, where the cache started with a tag for each entry. -/
structure State.LostSoFar (s t : State) (p : Port) (gone : List ChannelNo) : Prop where
  channels : s.GaveUp t p gone
  stores : (s.cache.map CacheEntry.routeTag).Nodup → s.StoresGone t p gone

theorem State.LostSoFar.next {s t : State} {p : Port} {gone : List ChannelNo} (h : s.LostSoFar t p gone) {n : ChannelNo}
    (fresh : n ∉ gone) (lost : (s.chan n).lostWith p = true) : s.LostSoFar (t.giveUpChannel p n) p (gone ++ [n]) :=
  ⟨h.channels.next fresh, fun tags => (h.stores tags).next h.channels fresh lost⟩

theorem releases_lostSoFar {s : State} {p : Port} {releases : List ChannelNo} (distinct : releases.Nodup)
    (all : ∀ n ∈ releases, (s.chan n).releaseOf p = true) :
    s.LostSoFar (releases.foldl State.completeRelease s) p releases := by
  refine foldl_taken State.completeRelease (fun gone t => s.LostSoFar t p gone) releases (fun gone t n here fresh h => ?_) [] s
    distinct ⟨.refl s p, fun tags => .refl tags p⟩
  have release := (h.channels.others n fresh).releaseOf p
  rw [all n here] at release
  have step : t.completeRelease n = t.giveUpChannel p n := by rw [State.giveUpChannel, if_pos release]
  rw [step]
  exact h.next fresh (by rw [Channel.lostWith, all n here]; rfl)

theorem calls_lostSoFar {s t : State} {p : Port} {releases calls : List ChannelNo} (distinct : (releases ++ calls).Nodup)
    (all : ∀ n ∈ calls, (s.chan n).isCallOf p = true) (h : s.LostSoFar t p releases) :
    s.LostSoFar (calls.foldl (State.loseCall p) (t, ⟨0, 0, releases.length⟩)).1 p (releases ++ calls)
      ∧ (calls.foldl (State.loseCall p) (t, ⟨0, 0, releases.length⟩)).2
        = ⟨calls.countP fun n => (s.chan n).holdCount != (s.chan n).policy.holdLimit,
          calls.countP fun n => (s.chan n).holdCount == (s.chan n).policy.holdLimit, releases.length⟩ := by
  have run := foldl_taken (State.loseCall p) (fun gone r => ∃ given, gone = releases ++ given ∧ s.LostSoFar r.1 p gone
    ∧ r.2 = ⟨given.countP fun n => (s.chan n).holdCount != (s.chan n).policy.holdLimit,
      given.countP fun n => (s.chan n).holdCount == (s.chan n).policy.holdLimit, releases.length⟩) calls
    (fun gone r n here fresh i => ?_) releases (t, ⟨0, 0, releases.length⟩) distinct ⟨[], (List.append_nil _).symm, h, rfl⟩
  · obtain ⟨given, split, lost, counts⟩ := run
    rw [← List.append_cancel_left split] at counts
    exact ⟨lost, counts⟩
  · obtain ⟨given, rfl, lost, counts⟩ := i
    obtain ⟨u, c⟩ := r
    dsimp only at lost counts
    subst counts
    have ended := lost.channels.others n fresh
    have call := all n here
    rw [loseCall_giveUp (by rw [ended.releaseOf]; exact releaseOf_of_call call)]
    refine ⟨given ++ [n], List.append_assoc _ _ _, lost.next fresh (by rw [Channel.lostWith, call, Bool.or_true]), ?_⟩
    dsimp only
    simp only [ended.limit, List.countP_append, List.countP_singleton]
    split
    · next limit => simp [limit]
    · next below => simp [below]

end Sys2Proof.Machine

/-! The whole cascade of a port's loss (R140): what its first steps leave, the channels it gives up, and its last steps. -/

namespace Sys2Proof.Machine

/-! ### Steps 1 and 2 -/

/-- The port is off its link, its orders are aborted, and a free value is spent on the order of the releases. -/
def State.lossStart (s : State) (p : Port) : State := (s.lossBegun p).spendFree

/-- The orders of the port itself. -/
def State.ordersOf (s : State) (p : Port) : List Order := s.mover.filter fun o => o.port == p

theorem lossStart_chan (s : State) (p : Port) (n : ChannelNo) :
    (s.chan n).OrdersEnded (s.ordersOf p) n ((s.lossStart p).chan n) :=
  abortOrders_chan (s.modPort p fun r => { r with link := .absent, lease := none }) (fun o => o.port == p) n

theorem lossStart_mover (s : State) (p : Port) : (s.lossStart p).mover = s.mover.filter fun o => !(o.port == p) :=
  abortOrders_mover (s.modPort p fun r => { r with link := .absent, lease := none }) fun o => o.port == p

theorem lossStart_flag (s : State) (p : Port) : (s.lossStart p).pool.flag = s.pool.flag :=
  abortOrders_flag (s.modPort p fun r => { r with link := .absent, lease := none }) fun o => o.port == p

theorem lossStart_within (s : State) (p : Port) : (s.unlink p).Within (s.lossStart p) := lossBegun_within s p

theorem lossStart_timebase (s : State) (p : Port) : (s.lossStart p).timebase = s.timebase := (lossStart_within s p).timebase

theorem lossStart_stores (s : State) (p : Port) :
    (s.lossStart p).cache = s.cache ∧ (s.lossStart p).parkCounter = s.parkCounter := by
  have keeps := abortOrders_keeps (s.modPort p fun r => { r with link := .absent, lease := none }) fun o => o.port == p
  exact ⟨keeps.cache, keeps.parkCounter⟩

theorem lossStart_returns (s : State) (p : Port) :
    s.Returns (s.lossStart p) (allChannels.flatMap fun n => (s.chan n).discarded (s.ordersOf p) n) :=
  abortOrders_returns_all (s.modPort p fun r => { r with link := .absent, lease := none }) fun o => o.port == p

theorem unlink_port_of_ne (s : State) {p q : Port} (other : q ≠ p) : (s.unlink p).port q = s.port q := by
  rw [State.unlink, port_spendFree, port_modPort_of_ne _ _ (Ne.symm other)]

theorem lossStart_joined (s : State) {p q : Port} (other : q ≠ p) :
    ((s.lossStart p).port q).joined = (s.port q).joined := by
  rw [(lossStart_within s p).heard.joined, unlink_port_of_ne s other]

/-- The other ports hear nothing of the lost port's orders. -/
theorem lossStart_raised (s : State) {p q : Port} (other : q ≠ p) (joined : (s.port q).joined = true) :
    s.Raised (s.lossStart p) q [] [] := by
  have same : (s.modPort p fun r => { r with link := .absent, lease := none }).port q = s.port q :=
    port_modPort_of_ne _ _ (Ne.symm other)
  have raised := abortOrders_raised (s.modPort p fun r => { r with link := .absent, lease := none }) (fun o => o.port == p)
    (q := q) (by rw [same]; exact joined)
  have silent : abortNotices (s.ordersOf p) q = [] := by
    rw [abortNotices, State.ordersOf, List.filter_filter, List.filter_eq_nil_iff.2, List.map_nil]
    intro o _ both
    obtain ⟨own, mine⟩ := Bool.and_eq_true_iff.1 both
    exact other ((beq_iff_eq.1 own).symm.trans (beq_iff_eq.1 mine))
  have aborts : abortNotices ((s.modPort p fun r => { r with link := .absent, lease := none }).mover.filter
      fun o => o.port == p) q = [] := silent
  rw [aborts] at raised
  exact (raised.congr same.symm).then_same rfl

/-! ### Steps 3 and 4 -/

/-- The calls of the port. -/
def State.lossCalls (s : State) (p : Port) : List ChannelNo := allChannels.filter fun n => (s.chan n).isCallOf p

/-- The channels that the loss gives up, in their order. -/
def State.lossGone (s : State) (p : Port) : List ChannelNo := (s.lossBegun p).lossReleases p ++ s.lossCalls p

theorem lossReleases_perm (s : State) (p : Port) :
    ((s.lossBegun p).lossReleases p).Perm (allChannels.filter fun n => (s.chan n).releaseOf p) := by
  have same : (allChannels.filter fun n => ((s.lossBegun p).chan n).releaseOf p)
      = allChannels.filter fun n => (s.chan n).releaseOf p :=
    List.filter_congr fun n _ => (lossStart_chan s p n).releaseOf p
  rw [← same]
  exact rankSort_perm _ _

theorem mem_lossReleases {s : State} {p : Port} {n : ChannelNo} :
    n ∈ (s.lossBegun p).lossReleases p ↔ (s.chan n).releaseOf p = true := by
  rw [(lossReleases_perm s p).mem_iff, List.mem_filter, and_iff_right (mem_allChannels n)]

theorem mem_lossCalls {s : State} {p : Port} {n : ChannelNo} : n ∈ s.lossCalls p ↔ (s.chan n).isCallOf p = true := by
  rw [State.lossCalls, List.mem_filter, and_iff_right (mem_allChannels n)]

theorem mem_lossGone {s : State} {p : Port} {n : ChannelNo} : n ∈ s.lossGone p ↔ (s.chan n).lostWith p = true := by
  rw [State.lossGone, List.mem_append, mem_lossReleases, mem_lossCalls, Channel.lostWith, Bool.or_eq_true]

theorem lossGone_nodup (s : State) (p : Port) : (s.lossGone p).Nodup := by
  have distinct : allChannels.Nodup := List.nodup_finRange 48
  refine List.nodup_append.2 ⟨(lossReleases_perm s p).nodup_iff.2 (distinct.filter _), distinct.filter _, ?_⟩
  rintro n release m call rfl
  have none := releaseOf_of_call (mem_lossCalls.1 call)
  rw [mem_lossReleases.1 release] at none
  cases none

/-- The calls that step 4 finds are those that the port had. -/
theorem lossCalls_eq (s : State) (p : Port) :
    (allChannels.filter fun n => ((s.lossReleased p).chan n).isCallOf p) = s.lossCalls p := by
  have run : (s.lossStart p).LostSoFar (s.lossReleased p) p ((s.lossBegun p).lossReleases p) :=
    releases_lostSoFar (List.nodup_append.1 (lossGone_nodup s p)).1 fun n release => by
      rw [(lossStart_chan s p n).releaseOf]
      exact mem_lossReleases.1 release
  refine List.filter_congr fun n _ => ?_
  by_cases release : n ∈ (s.lossBegun p).lossReleases p
  · have own := run.channels.own n release
    rw [State.GivenUp, if_pos (.inl (by rw [(lossStart_chan s p n).releaseOf]; exact mem_lossReleases.1 release))] at own
    rw [own]
    refine (Bool.eq_false_iff.2 fun call => ?_).symm
    have none := releaseOf_of_call call
    rw [mem_lossReleases.1 release] at none
    cases none
  · rw [(run.channels.others n release).isCallOf, (lossStart_chan s p n).isCallOf]

theorem lossCalled_lostSoFar (s : State) (p : Port) :
    (s.lossStart p).LostSoFar (s.lossCalled p).1 p (s.lossGone p)
      ∧ (s.lossCalled p).2 = ⟨(s.lossCalls p).countP fun n => (s.chan n).holdCount != (s.chan n).policy.holdLimit,
        (s.lossCalls p).countP fun n => (s.chan n).holdCount == (s.chan n).policy.holdLimit,
        ((s.lossBegun p).lossReleases p).length⟩ := by
  have distinct := lossGone_nodup s p
  have released : (s.lossStart p).LostSoFar (s.lossReleased p) p ((s.lossBegun p).lossReleases p) :=
    releases_lostSoFar (List.nodup_append.1 distinct).1 fun n release => by
      rw [(lossStart_chan s p n).releaseOf]
      exact mem_lossReleases.1 release
  have calls := calls_lostSoFar distinct (fun n call => by
    rw [(lossStart_chan s p n).isCallOf]
    exact mem_lossCalls.1 call) released
  have counts (n : ChannelNo) : (((s.lossStart p).chan n).holdCount != ((s.lossStart p).chan n).policy.holdLimit)
        = ((s.chan n).holdCount != (s.chan n).policy.holdLimit)
      ∧ (((s.lossStart p).chan n).holdCount == ((s.lossStart p).chan n).policy.holdLimit)
        = ((s.chan n).holdCount == (s.chan n).policy.holdLimit) := by
    obtain ⟨_, e⟩ := lossStart_chan s p n
    rw [e]
    exact ⟨rfl, rfl⟩
  simp only [fun n => (counts n).1, fun n => (counts n).2] at calls
  rw [State.lossCalled, lossCalls_eq]
  exact calls

/-! ### Steps 5 to 7 -/

theorem dropClaim_eq (s : State) (p : Port) : ∃ claim, s.dropClaim p = { s with claim := claim } := by
  unfold State.dropClaim
  split <;> exact ⟨_, rfl⟩

/-- The claim and the port's notices dropped. -/
def State.lossCleared (s : State) (p : Port) : State :=
  (s.dropClaim p).modPort p fun q => { q with queue := [], mask := [], overflow := false, attn := false }

/-- PORT_LOST, with how many calls were orphaned and dropped. -/
def portLostNotice (p : Port) (reason : LossReason) (counts : LossCounts) : Notice :=
  ⟨.portLost, none, [(p.val : Int), (reason.code : Int), (counts.orphaned : Int), (counts.dropped : Int)]⟩

theorem lossToldAt_eq (p : Port) (reason : LossReason) (r : State × LossCounts) :
    State.lossToldAt p reason r = (r.1.lossCleared p).broadcast (portLostNotice p reason r.2) := rfl

theorem lossCleared_eq (s : State) (p : Port) : ∃ claim ports, s.lossCleared p = { s with claim := claim, ports := ports } := by
  obtain ⟨claim, e⟩ := dropClaim_eq s p
  rw [State.lossCleared, e]
  exact ⟨claim, _, rfl⟩

theorem lossCleared_port_of_ne (s : State) {p q : Port} (other : q ≠ p) : (s.lossCleared p).port q = s.port q := by
  obtain ⟨claim, e⟩ := dropClaim_eq s p
  rw [State.lossCleared, port_modPort_of_ne _ _ (Ne.symm other), e]
  rfl

/-- What the last steps leave alone. -/
theorem lossToldAt_kept (p : Port) (reason : LossReason) (r : State × LossCounts) :
    let t := State.lossToldAt p reason r
    (∀ n, t.chan n = r.1.chan n) ∧ t.mover = r.1.mover ∧ t.probeQueue = r.1.probeQueue ∧ t.pool = r.1.pool
      ∧ t.cache = r.1.cache ∧ t.parkCounter = r.1.parkCounter := by
  obtain ⟨claim, ports, e⟩ := lossCleared_eq r.1 p
  dsimp only
  rw [lossToldAt_eq, e]
  exact ⟨fun n => chan_broadcast _ _ n, broadcast_mover _ _, broadcast_probeQueue _ _, broadcast_pool _ _, broadcast_cache _ _,
    broadcast_parkCounter _ _⟩

section

variable {p q : Port} (other : q ≠ p) (reason : LossReason) (r : State × LossCounts)
include other

theorem lossToldAt_joined : ((State.lossToldAt p reason r).port q).joined = (r.1.port q).joined := by
  rw [lossToldAt_eq, (broadcast_within _ _).heard.joined, lossCleared_port_of_ne _ other]

theorem lossToldAt_raised (joined : (r.1.port q).joined = true) :
    r.1.Raised (State.lossToldAt p reason r) q [] [] := by
  have same := lossCleared_port_of_ne r.1 other
  rw [lossToldAt_eq]
  exact (broadcast_raises_none (r.1.lossCleared p) (n := portLostNotice p reason r.2) (by rw [same]; exact joined) nofun
    nofun).congr same.symm

theorem lossToldAt_told (joined : (r.1.port q).joined = true) :
    ((State.lossToldAt p reason r).port q).Told (portLostNotice p reason r.2) := by
  rw [lossToldAt_eq]
  exact told_broadcast (by rw [lossCleared_port_of_ne _ other]; exact joined) _

theorem lossToldAt_keeps_told {x : Notice} (kind : x.kind ≠ .portLost) (told : (r.1.port q).Told x) :
    ((State.lossToldAt p reason r).port q).Told x := by
  rw [lossToldAt_eq]
  refine told_broadcast_of_ne (by rw [lossCleared_port_of_ne _ other]; exact told) (key_ne_of_kind_ne ?_)
  exact fun same => kind same.symm

end

end Sys2Proof.Machine

/-! The cascade of a loss in the words of the statements (R140 to R143): the orders it aborts, the channels it leaves, the
segments it frees. -/

namespace Sys2Proof.Machine

/-! ### The orders that a loss aborts -/

theorem touches_lossGone (s : State) (p : Port) (o : Order) : (allChannels.any fun n =>
      o.work.touches n && (s.chan n).lessee == some p && ((s.chan n).state == .releasing || (s.chan n).state.inCall))
    = (s.lossGone p).any o.work.touches := by
  have one (n : ChannelNo) : (o.work.touches n && (s.chan n).lessee == some p
      && ((s.chan n).state == .releasing || (s.chan n).state.inCall)) = ((s.chan n).lostWith p && o.work.touches n) := by
    unfold Channel.lostWith Channel.releaseOf Channel.isCallOf
    cases (s.chan n).lessee == some p <;> simp [Bool.and_comm]
  simp only [one]
  rw [Bool.eq_iff_iff, List.any_eq_true, List.any_eq_true]
  refine exists_congr fun n => ?_
  rw [mem_lossGone, and_iff_right (mem_allChannels n), Bool.and_eq_true]

theorem lossAborts_eq (s : State) (p : Port) :
    s.lossAborts p = s.mover.filter fun o => o.port == p || (s.lossGone p).any o.work.touches := by
  unfold State.lossAborts
  simp only [touches_lossGone]

/-- The port's own orders first, then what the channels given up abort of the rest. -/
theorem ordersOf_append_perm (s : State) (p : Port) (f : Order → Bool) :
    (s.ordersOf p ++ (s.lossStart p).mover.filter f).Perm (s.mover.filter fun o => o.port == p || f o) := by
  rw [lossStart_mover]
  exact filter_append_filter_perm s.mover (fun o => o.port == p) f

theorem lossCalled_mover (s : State) (p : Port) : (s.lossCalled p).1.mover = s.mover.filter fun o => o.port != p
    && !allChannels.any fun n => o.work.touches n && (s.chan n).lessee == some p
      && ((s.chan n).state == .releasing || (s.chan n).state.inCall) := by
  simp only [touches_lossGone]
  rw [(lossCalled_lostSoFar s p).1.channels.mover, lossStart_mover, List.filter_filter]
  exact List.filter_congr fun o _ => Bool.and_comm _ _

/-! ### The channels -/

theorem lossCalled_others {s : State} {p : Port} {n : ChannelNo} (kept : (s.chan n).lostWith p = false) :
    (s.chan n).OrdersEnded (s.lossAborts p) n ((s.lossCalled p).1.chan n) := by
  have after : n ∉ s.lossGone p := fun h => by rw [mem_lossGone.1 h] at kept; cases kept
  have ended := (lossStart_chan s p n).trans ((lossCalled_lostSoFar s p).1.channels.others n after)
  refine ended.congr ?_
  rw [lossAborts_eq]
  exact (ordersOf_append_perm s p _).filter _

theorem lossCalled_vacant {s : State} {p : Port} {n : ChannelNo} (lost : (s.chan n).lostWith p = true)
    (vacant : (s.chan n).releaseOf p = true ∨ (s.chan n).holdCount = (s.chan n).policy.holdLimit) :
    (s.lossCalled p).1.chan n = .vacant := by
  have own := (lossCalled_lostSoFar s p).1.channels.own n (mem_lossGone.2 lost)
  have start := lossStart_chan s p n
  unfold State.GivenUp at own
  simp only [start.releaseOf, start.limit] at own
  rwa [if_pos vacant] at own

theorem lossCalled_orphan {s : State} {p : Port} {n : ChannelNo} (call : (s.chan n).isCallOf p = true)
    (below : (s.chan n).holdCount ≠ (s.chan n).policy.holdLimit) :
    ∃ c, (s.chan n).OrdersEnded (s.lossAborts p) n c ∧ (s.lossCalled p).1.chan n = { c with
      state := .orphaned, lessee := none, prior := some (s.chan n).state.toPrior, goodRun := 0, badRun := 0, player := none,
      holdCount := c.holdCount + 1, holdTimer := some (c.policy.holdTime.getD 0 * 10) } := by
  have gone : n ∈ s.lossGone p := mem_lossGone.2 (by rw [Channel.lostWith, call, Bool.or_true])
  have own := (lossCalled_lostSoFar s p).1.channels.own n gone
  have start := lossStart_chan s p n
  have orphan : ¬((s.chan n).releaseOf p = true ∨ (s.chan n).holdCount = (s.chan n).policy.holdLimit) := by
    rw [releaseOf_of_call call]
    exact fun h => h.elim Bool.false_ne_true below
  unfold State.GivenUp at own
  simp only [start.releaseOf, start.limit] at own
  rw [if_neg orphan] at own
  obtain ⟨c, later, own⟩ := own
  have ended : (s.chan n).OrdersEnded (s.lossAborts p) n c := by
    refine (start.trans later).congr (((ordersOf_append_perm s p _).filter _).trans (List.Perm.of_eq ?_))
    rw [lossAborts_eq, List.filter_filter, List.filter_filter]
    refine List.filter_congr fun o _ => ?_
    cases touches : o.work.touches n with
    | false => rfl
    | true => rw [List.any_eq_true.2 ⟨n, gone, touches⟩]
  refine ⟨c, ended, own.trans ?_⟩
  obtain ⟨_, rfl⟩ := ended
  rfl

/-! ### The stores -/

theorem mem_discarded_or_ring (c : Channel) (orders : List Order) (n : ChannelNo) (x : Nat) :
    x ∈ c.discarded orders n ∨ x ∈ (c.afterAborts orders n).ringSegments ↔ x ∈ c.ringSegments := by
  rw [mem_discarded, mem_ringSegments, mem_ringSegments]
  constructor
  · rintro (⟨r, held, -, hx⟩ | ⟨_, held, hx⟩)
    · exact ⟨r, held, hx⟩
    · obtain ⟨r, kept, rfl⟩ := List.mem_map.1 held
      exact ⟨r, List.mem_of_mem_filter kept, hx⟩
  · rintro ⟨r, held, hx⟩
    by_cases early : ∃ o ∈ orders, o.work = .capture n r.id
    · exact .inl ⟨r, held, early, hx⟩
    · refine .inr ⟨_, List.mem_map.2 ⟨r, List.mem_filter.2 ⟨held, ?_⟩, rfl⟩, hx⟩
      rw [Bool.not_eq_true', List.any_eq_false]
      exact fun o ho is => early ⟨o, ho, beq_iff_eq.1 is⟩

/-- What steps 1 and 2 discard of a channel, and what the later steps free of it. -/
theorem lossFrees_start (s : State) (p : Port) (n : ChannelNo) (x : Nat) :
    x ∈ (s.chan n).discarded (s.ordersOf p) n ∨ x ∈ (s.lossStart p).lossFrees p n ↔ x ∈ s.lossFrees p n := by
  have aborts (o : Order) : o ∈ s.ordersOf p ++ (s.lossStart p).lossAborts p ↔ o ∈ s.lossAborts p := by
    have lost : (∃ m, o.work.touches m = true ∧ ((s.lossStart p).chan m).lostWith p = true)
        ↔ ∃ m, o.work.touches m = true ∧ (s.chan m).lostWith p = true :=
      exists_congr fun m => by rw [(lossStart_chan s p m).lostWith]
    rw [List.mem_append, mem_lossAborts, mem_lossAborts, lost, lossStart_mover, State.ordersOf, List.mem_filter,
      List.mem_filter, beq_iff_eq, Bool.not_eq_true', beq_eq_false_iff_ne]
    by_cases own : o.port = p
    · simp [own]
    · simp [own]
  have ended := lossStart_chan s p n
  obtain ⟨live, -, -, -, -, -, -, -, -, eligible, -⟩ := ended.fields
  obtain ⟨marks, start⟩ := ended
  have ring : x ∈ (s.chan n).discarded (s.ordersOf p) n ∨ x ∈ ((s.lossStart p).chan n).ringSegments
      ↔ x ∈ (s.chan n).ringSegments := by
    rw [start]
    exact mem_discarded_or_ring (s.chan n) (s.ordersOf p) n x
  have segments : x ∈ (s.chan n).discarded (s.ordersOf p) n ∨ x ∈ ((s.lossStart p).chan n).segments
      ↔ x ∈ (s.chan n).segments := by
    show _ ∨ x ∈ ((s.lossStart p).chan n).live ++ ((s.lossStart p).chan n).ringSegments
      ↔ x ∈ (s.chan n).live ++ (s.chan n).ringSegments
    rw [List.mem_append, List.mem_append, or_left_comm, ring, live]
  have discards : x ∈ (s.chan n).discarded (s.ordersOf p) n
      ∨ x ∈ ((s.lossStart p).chan n).discarded ((s.lossStart p).lossAborts p) n
      ↔ x ∈ (s.chan n).discarded (s.lossAborts p) n := by
    rw [start]
    exact (mem_discarded_append (s.chan n) n _ _ x).trans (mem_discarded_congr (fun o _ _ => aborts o) x)
  have same := lossStart_chan s p n
  rw [lossFrees_eq, lossFrees_eq s]
  simp only [same.releaseOf, same.isCallOf, same.limit, eligible]
  split
  · split
    · exact ring
    · exact segments
  · split
    · exact segments
    · exact discards

/-- Steps 3 and 4 free nothing of a channel that they do not give up: a CAPTURE touches its own channel alone. -/
theorem lossFrees_start_of_kept {s : State} {p : Port} {n : ChannelNo} (kept : (s.chan n).lostWith p = false) (x : Nat) :
    x ∉ (s.lossStart p).lossFrees p n := by
  have start := lossStart_chan s p n
  obtain ⟨release, call⟩ := Bool.or_eq_false_iff.1 kept
  rw [lossFrees_eq, start.releaseOf, start.isCallOf, if_neg (by rw [release]; exact Bool.false_ne_true),
    if_neg (by rw [call]; exact fun h => Bool.false_ne_true h.1), mem_discarded]
  rintro ⟨r, -, ⟨o, ho, is⟩, -⟩
  rw [mem_lossAborts, lossStart_mover, List.mem_filter] at ho
  obtain ⟨⟨-, foreign⟩, own | ⟨m, touches, lost⟩⟩ := ho
  · rw [own, beq_self_eq_true] at foreign
    cases foreign
  · rw [is] at touches
    rw [← touches_capture.1 touches, start.lostWith, kept] at lost
    cases lost

/-- The ledger of the loss: the releases that park, in their order. -/
theorem lossLedger_eq (s : State) (p : Port) : (s.lossStart p).lossLedger p (s.lossGone p) =
    (((s.lossBegun p).lossReleases p).filter fun n => (s.chan n).parkEligible == some true).foldl
      (fun l n => l.park s.timebase (s.chan n)) ⟨s.cache, s.parkCounter, [], []⟩ := by
  have one (l : ParkLedger) (n : ChannelNo) : (s.lossStart p).ledgerFor p l n = s.ledgerFor p l n :=
    ledgerFor_of_ended (lossStart_chan s p n) (lossStart_timebase s p) p l
  obtain ⟨cache, counter⟩ := lossStart_stores s p
  have opened : (s.lossStart p).openLedger = ⟨s.cache, s.parkCounter, [], []⟩ := by
    rw [State.openLedger, cache, counter]
  have calls (l : ParkLedger) : (s.lossCalls p).foldl (s.ledgerFor p) l = l := by
    rw [List.foldl_ext (s.ledgerFor p) (fun l _ => l) l fun l n call => by
      rw [State.ledgerFor, Channel.parksFor, releaseOf_of_call (mem_lossCalls.1 call)]
      rfl]
    exact List.foldl_fixed _
  rw [State.lossLedger, opened, show (s.lossStart p).ledgerFor p = s.ledgerFor p from funext fun l => funext (one l),
    State.lossGone, List.foldl_append, calls, List.foldl_filter]
  refine List.foldl_ext _ _ _ fun l n release => ?_
  rw [State.ledgerFor, Channel.parksFor, mem_lossReleases.1 release, Bool.true_and]

end Sys2Proof.Machine

/-! The loss of a port in the words of the statements (`State.PortLost`), and with it LEAVE and the expiry of a lease (R138,
R139). -/

namespace Sys2Proof.Machine

/-! ### The whole loss -/

theorem losePort_state (s : State) (p : Port) (reason : LossReason) :
    (s.losePort p reason).1 = s.closeEvent (State.lossToldAt p reason (s.lossCalled p)) := by
  rw [losePort_eq]

/-- What the closed event leaves of the state that the cascade reaches. -/
theorem losePort_kept (s : State) (p : Port) (reason : LossReason) :
    (∀ n, ((s.lossCalled p).1.chan n).GrantedOr ((s.losePort p reason).1.chan n))
      ∧ (s.losePort p reason).1.mover = (s.lossCalled p).1.mover
      ∧ (s.losePort p reason).1.cache = (s.lossCalled p).1.cache
      ∧ (s.losePort p reason).1.parkCounter = (s.lossCalled p).1.parkCounter := by
  rw [losePort_state]
  generalize s.lossCalled p = r
  obtain ⟨chan, mover, -, -, cache, counter⟩ := lossToldAt_kept p reason r
  generalize State.lossToldAt p reason r = u at *
  refine ⟨fun n => ?_, ?_, ?_, ?_⟩
  · rw [← chan n]
    exact closeEvent_chan s u n
  · rw [closeEvent_mover, mover]
  · rw [closeEvent_cache, cache]
  · rw [closeEvent_parkCounter, counter]

/-- A channel given up stays as the cascade has left it: it waits in no queue. -/
theorem losePort_chan_of_lost {s : State} {p : Port} {n : ChannelNo} (lost : (s.chan n).lostWith p = true)
    (reason : LossReason) : (s.losePort p reason).1.chan n = (s.lossCalled p).1.chan n := by
  have unqueued := (lossCalled_lostSoFar s p).1.channels.unqueued n (mem_lossGone.2 lost)
  rw [losePort_state]
  generalize s.lossCalled p = r at *
  obtain ⟨chan, -, queue, -⟩ := lossToldAt_kept p reason r
  generalize State.lossToldAt p reason r = u at *
  rw [← queue] at unqueued
  rw [← chan n]
  exact (closeEvent_chan_of_not_queued s u unqueued).1

/-- What every channel gives back in the loss, in the words of the statements. -/
theorem mem_lossFreed (s : State) (p : Port) (x : Nat) :
    x ∈ allChannels.flatMap (fun n => (s.chan n).discarded (s.ordersOf p) n)
        ∨ x ∈ (s.lossGone p).flatMap ((s.lossStart p).lossFrees p)
      ↔ x ∈ allChannels.flatMap (s.lossFrees p) := by
  have given : x ∈ (s.lossGone p).flatMap ((s.lossStart p).lossFrees p)
      ↔ ∃ n, n ∈ allChannels ∧ x ∈ (s.lossStart p).lossFrees p n := by
    rw [List.mem_flatMap]
    refine exists_congr fun n => and_congr_left fun frees => iff_of_true (mem_lossGone.2 ?_) (mem_allChannels n)
    by_contra kept
    exact lossFrees_start_of_kept (Bool.eq_false_iff.2 kept) x frees
  rw [given, List.mem_flatMap, List.mem_flatMap, ← exists_or]
  refine exists_congr fun n => ?_
  rw [← and_or_left, lossFrees_start]

theorem losePort_returns {s : State} {p : Port} (reason : LossReason)
    (stores : (s.lossStart p).StoresGone (s.lossCalled p).1 p (s.lossGone p)) :
    s.Returns (s.losePort p reason).1
      (((s.lossStart p).lossLedger p (s.lossGone p)).freed ++ allChannels.flatMap (s.lossFrees p)) := by
  have all := (lossStart_returns s p).trans stores.returns
  have freed := mem_lossFreed s p
  rw [losePort_state]
  generalize s.lossCalled p = r at *
  obtain ⟨-, -, -, pool, -⟩ := lossToldAt_kept p reason r
  generalize State.lossToldAt p reason r = u at *
  refine ((all.same pool).closeEvent s).congr fun x => ?_
  rw [List.mem_append, List.mem_append, List.mem_append, ← freed]
  exact or_left_comm

/-- A notice of the cascade that no later one replaces is told at the end. -/
theorem losePort_told {s : State} {p q : Port} (reason : LossReason) {x : Notice} (low : x.kind ≠ .poolLow)
    (recovered : x.kind ≠ .poolRecovered)
    (told : ((State.lossToldAt p reason (s.lossCalled p)).port q).Told x) : ((s.losePort p reason).1.port q).Told x := by
  rw [losePort_state]
  generalize State.lossToldAt p reason (s.lossCalled p) = u at *
  exact closeEvent_told_of_kind_ne s told low recovered

section

variable {s : State} {p q : Port} (other : q ≠ p) (joined : (s.port q).joined = true)
include other joined

theorem lossCalled_joined : ((s.lossCalled p).1.port q).joined = true := by
  rw [(lossCalled_lostSoFar s p).1.channels.within.heard.joined, lossStart_joined s other]
  exact joined

theorem losePort_raised (reason : LossReason)
    (stores : (s.lossStart p).StoresGone (s.lossCalled p).1 p (s.lossGone p)) :
    s.Raised (s.losePort p reason).1 q (abortNotices (abortSequence (s.lossStart p).mover (s.lossGone p)) q)
      ((s.lossStart p).lossLedger p (s.lossGone p)).told := by
  have called := lossCalled_joined other joined
  have raised := (lossStart_raised s other joined).trans (stores.raised q (by rw [lossStart_joined s other]; exact joined))
  rw [losePort_state]
  generalize s.lossCalled p = r at *
  have told := lossToldAt_raised other reason r called
  have heard := lossToldAt_joined other reason r
  generalize State.lossToldAt p reason r = u at *
  have all := (raised.trans told).trans (closeEvent_raised s u (by rw [heard]; exact called))
  simpa only [List.append_nil, List.nil_append] using all

theorem losePort_told_call (reason : LossReason) {n : ChannelNo} (call : (s.chan n).isCallOf p = true) :
    ((s.losePort p reason).1.port q).Told ((s.chan n).lossNotice p n) := by
  have gone : n ∈ s.lossGone p := mem_lossGone.2 (by rw [Channel.lostWith, call, Bool.or_true])
  have start := lossStart_chan s p n
  have told := (lossCalled_lostSoFar s p).1.channels.told n q gone (by rw [start.isCallOf]; exact call)
    (by rw [lossStart_joined s other]; exact joined)
  rw [start.lossNotice] at told
  have kind : ((s.chan n).lossNotice p n).kind ≠ .portLost ∧ ((s.chan n).lossNotice p n).kind ≠ .poolLow
      ∧ ((s.chan n).lossNotice p n).kind ≠ .poolRecovered := by
    unfold Channel.lossNotice
    split <;> exact ⟨nofun, nofun, nofun⟩
  obtain ⟨lost, low, recovered⟩ := kind
  exact losePort_told reason low recovered (lossToldAt_keeps_told other reason _ lost told)

theorem losePort_told_lost (reason : LossReason) :
    ((s.losePort p reason).1.port q).Told (portLostNotice p reason (s.losePort p reason).2) := by
  have counts : (s.losePort p reason).2 = (s.lossCalled p).2 := by rw [losePort_eq]
  rw [counts]
  exact losePort_told reason nofun nofun (lossToldAt_told other reason _ (lossCalled_joined other joined))

end

theorem losePort_counts (s : State) (p : Port) (reason : LossReason) : (s.losePort p reason).2 =
    ⟨allChannels.countP fun n => (s.chan n).isCallOf p && (s.chan n).holdCount != (s.chan n).policy.holdLimit,
      allChannels.countP fun n => (s.chan n).isCallOf p && (s.chan n).holdCount == (s.chan n).policy.holdLimit,
      allChannels.countP fun n => (s.chan n).lessee == some p && (s.chan n).state == .releasing⟩ := by
  have calls (f : ChannelNo → Bool) : (s.lossCalls p).countP f = allChannels.countP fun n => (s.chan n).isCallOf p && f n := by
    rw [State.lossCalls, List.countP_filter]
    exact List.countP_congr fun n _ => by rw [Bool.and_comm]
  have counted : (s.losePort p reason).2 = (s.lossCalled p).2 := by rw [losePort_eq]
  rw [counted, (lossCalled_lostSoFar s p).2, calls, calls, (lossReleases_perm s p).length_eq, ← List.countP_eq_length_filter]
  rfl

theorem losePort_judged (s : State) (p : Port) (reason : LossReason) : s.PoolJudged (s.losePort p reason).1 := by
  have flag : (s.lossCalled p).1.pool.flag = s.pool.flag := by
    rw [(lossCalled_lostSoFar s p).1.channels.flag, lossStart_flag]
  have config : (s.lossCalled p).1.config = s.config := (lossCalled_within s p).config
  rw [losePort_state]
  generalize s.lossCalled p = r at *
  obtain ⟨-, -, -, pool, -⟩ := lossToldAt_kept p reason r
  have mark : (State.lossToldAt p reason r).config = s.config := by
    obtain ⟨claim, ports, cleared⟩ := lossCleared_eq r.1 p
    rw [lossToldAt_eq, (broadcast_within _ _).config, cleared]
    exact config
  exact closeEvent_judged s _ (by rw [pool, flag]) (by rw [mark])

/-- The loss of a port leaves what R140 to R143 say. -/
theorem losePort_lost (s : State) (p : Port) (reason : LossReason) : s.PortLost (s.losePort p reason).1 p reason := by
  obtain ⟨own, heard⟩ := losePort_port s p reason
  obtain ⟨pending, freeIndex, claim, config, highway, timebase⟩ := losePort_frame s p reason
  obtain ⟨chan, mover, cache, counter⟩ := losePort_kept s p reason
  have counts := losePort_counts s p reason
  exact {
    port := own
    heard := heard
    orders := mover.trans (lossCalled_mover s p)
    released := fun n lessee releasing => by
      have release := releaseOf_iff.2 ⟨lessee, releasing⟩
      have lost : (s.chan n).lostWith p = true := by rw [Channel.lostWith, release, Bool.true_or]
      exact (losePort_chan_of_lost lost reason).trans (lossCalled_vacant lost (.inl release))
    dropped := fun n call limit => by
      have lost : (s.chan n).lostWith p = true := by rw [Channel.lostWith, call, Bool.or_true]
      exact (losePort_chan_of_lost lost reason).trans (lossCalled_vacant lost (.inr limit))
    orphaned := fun n call below => by
      obtain ⟨c, ended, left⟩ := lossCalled_orphan call below
      have lost : (s.chan n).lostWith p = true := by rw [Channel.lostWith, call, Bool.or_true]
      exact ⟨c, ended, (losePort_chan_of_lost lost reason).trans left⟩
    others := fun n foreign => by
      have kept : (s.chan n).lostWith p = false := by
        rw [Channel.lostWith, Channel.releaseOf, Channel.isCallOf, beq_eq_false_iff_ne.2 foreign]
        rfl
      exact ⟨_, lossCalled_others kept, chan n⟩
    stores := fun tags => by
      have stores := (lossCalled_lostSoFar s p).1.stores (by rw [(lossStart_stores s p).1]; exact tags)
      have returns := losePort_returns reason stores
      have raised (q : Port) (other : q ≠ p) (joined : (s.port q).joined = true) := losePort_raised other joined reason stores
      have parked := cache.trans stores.cache
      have counted := counter.trans stores.counter
      rw [lossLedger_eq] at returns raised parked counted
      rw [lossStart_mover] at raised
      exact ⟨_, lossReleases_perm s p, parked, counted, returns.1, returns.2, raised⟩
    judged := losePort_judged s p reason
    claim := claim
    told := fun q other joined => by
      have told := losePort_told_lost other joined reason
      rw [counts] at told
      exact told
    toldOrphaned := fun n q call below other joined => by
      have told := losePort_told_call other joined reason call
      rwa [Channel.lossNotice, if_neg below] at told
    toldDropped := fun n q call limit other joined => by
      have told := losePort_told_call other joined reason call
      rwa [Channel.lossNotice, if_pos limit] at told
    pending := pending
    freeIndex := freeIndex
    config := config
    highway := highway
    timebase := timebase }

/-! ### The expiry of a lease -/

/-- Settles O13: an expiry that is due is the loss of the port, one that is not due is none. -/
theorem leaseExpiryLosesPort : Obligations.LeaseExpiryLosesPort := by
  intro s p quiet
  have exec_eq : exec (.leaseExpiry p) s = .next (s.expireLease p) := by rw [exec_leaseExpiry, settle_of_quiet quiet]
  refine ⟨fun joined timer => ?_, fun timer => ?_⟩
  · have due : s.leaseDue p = true := by rw [State.leaseDue, joined, timer]; rfl
    rw [exec_eq, State.expireLease, if_pos due]
    exact ⟨_, rfl, losePort_lost s p .lease⟩
  · have early : s.leaseDue p = false := by rw [State.leaseDue, beq_eq_false_iff_ne.2 timer, Bool.and_false]
    rw [exec_eq, State.expireLease, early, if_neg Bool.false_ne_true]

end Sys2Proof.Machine

/-! KEEP and LEAVE (R138). -/

namespace Sys2Proof.Machine

theorem State.PoolJudged.hold {s t : State} (h : s.PoolJudged t) (p : Port) (r : Response) :
    (s.hold p r).PoolJudged (t.hold p r) := by
  have joined (q : Port) : ((t.hold p r).port q).joined = (t.port q).joined := by
    rw [State.hold, port_modPort]
    split
    · next own => subst own; rfl
    · rfl
  have told (q : Port) (n : Notice) : ((t.hold p r).port q).Told n ↔ (t.port q).Told n := told_modPort_iff rfl rfl
  refine ⟨h.flag, fun normal low q j => ?_, fun low normal q j => ?_⟩
  · rw [joined] at j
    exact (told q _).2 (h.low normal low q j)
  · rw [joined] at j
    exact (told q _).2 (h.recovered low normal q j)

/-- A response held at the lost port is no part of its loss. -/
theorem State.PortLost.hold {s t : State} {p : Port} {reason : LossReason} (h : s.PortLost t p reason) (r : Response) :
    (s.hold p r).PortLost (t.hold p r) p reason := by
  have before {q : Port} (other : q ≠ p) : (s.hold p r).port q = s.port q := port_modPort_of_ne _ _ (Ne.symm other)
  have after {q : Port} (other : q ≠ p) : (t.hold p r).port q = t.port q := port_modPort_of_ne _ _ (Ne.symm other)
  have own (u : State) : (u.hold p r).port p = { u.port p with held := some r } := port_modPort_self _ _ _
  exact {
    port := by rw [own, own, h.port]
    heard := fun q other => by rw [after other, before other]; exact h.heard q other
    orders := h.orders
    released := h.released
    dropped := h.dropped
    orphaned := h.orphaned
    others := h.others
    stores := fun tags => by
      obtain ⟨releases, order, cache, counter, free, taps, raised⟩ := h.stores tags
      refine ⟨releases, order, cache, counter, free, taps, fun q other joined => ?_⟩
      rw [before other] at joined
      obtain ⟨all, heard, done, evicted⟩ := raised q other joined
      exact ⟨all, by rw [after other, before other]; exact heard, done, evicted⟩
    judged := h.judged.hold p r
    claim := h.claim
    told := fun q other joined => by
      rw [before other] at joined
      rw [after other]
      exact h.told q other joined
    toldOrphaned := fun n q call below other joined => by
      rw [before other] at joined
      rw [after other]
      exact h.toldOrphaned n q call below other joined
    toldDropped := fun n q call limit other joined => by
      rw [before other] at joined
      rw [after other]
      exact h.toldDropped n q call limit other joined
    pending := h.pending
    freeIndex := h.freeIndex
    config := h.config
    highway := h.highway
    timebase := h.timebase }

theorem exec_keep (p : Port) (tag : Byte) (params : List Byte) (s : State) :
    exec (.keep p tag params) s = .next (takeCommand p tag params (keepAct p params) s) := rfl

/-- What KEEP answers: the state and the lease period after it. -/
theorem keepAct_of_joined {s : State} {p : Port} (joined : (s.port p).joined = true) :
    keepAct p [] s = ⟨s, .ok, enc1 LinkState.live.code ++ enc2 s.config.leasePeriod⟩ := by
  have live : ((s.renew p).port p).link = .live := by rw [renew_port_link joined, if_pos rfl]
  show Reply.mk s .ok (enc1 ((s.renew p).port p).link.code ++ enc2 s.config.leasePeriod) = _
  rw [live]

/-- A LEAVE that is taken: the port is lost, and its response held all the same. -/
theorem exec_leave_of_ready {s : State} {p : Port} (ready : s.Ready p) (tag : Byte) : exec (.leave p tag []) s = .next
    (((s.driveLink p (commandEcho [])).losePort p .left).1.hold p ⟨.ok, tag,
      enc1 ((s.driveLink p (commandEcho [])).losePort p .left).2.orphaned
        ++ enc1 ((s.driveLink p (commandEcho [])).losePort p .left).2.dropped
        ++ enc1 ((s.driveLink p (commandEcho [])).losePort p .left).2.released⟩) := by
  rw [exec_leave, execLeave, beginCommand_of_quiet ready.quiet]
  dsimp only
  exact (if_pos (by rw [driveLink_joined]; exact ready.joined)).trans rfl

/-- Settles O12: KEEP is answered and renews, and LEAVE is the loss of the port with the response held after it. -/
theorem keepAndLeave : Obligations.KeepAndLeave := by
  intro s p tag ready
  constructor
  · have block : keepAct p [] (s.driveLink p (commandEcho [])) = ⟨s.driveLink p (commandEcho []), .ok,
        enc1 LinkState.live.code ++ enc2 s.config.leasePeriod⟩ :=
      keepAct_of_joined (by rw [driveLink_joined]; exact ready.joined)
    rw [exec_keep, takeCommand_answered ready tag [] _ block ready.joined]
  · have lost := losePort_lost (s.driveLink p (commandEcho [])) p .left
    have counts := losePort_counts (s.driveLink p (commandEcho [])) p .left
    rw [exec_leave_of_ready ready]
    refine ⟨_, rfl, ?_⟩
    rw [counts]
    have held := lost.hold ⟨.ok, tag,
      enc1 (allChannels.countP fun n => (s.chan n).isCallOf p && (s.chan n).holdCount != (s.chan n).policy.holdLimit)
        ++ enc1 (allChannels.countP fun n => (s.chan n).isCallOf p && (s.chan n).holdCount == (s.chan n).policy.holdLimit)
        ++ enc1 (allChannels.countP fun n => (s.chan n).lessee == some p && (s.chan n).state == .releasing)⟩
    rw [hold_driveLink] at held
    exact held

end Sys2Proof.Machine
